-- ==== Sys2Proof/Word.lean ====
section
/-! DEFINITION. The word types of the Pexis-9 and their plainest operations (01, 04). -/

namespace Sys2Proof

/-- A byte. -/
abbrev Byte := BitVec 8

/-- A scalar register (R84), and any 64-bit state register. -/
abbrev Word := BitVec 64

/-- An instruction word (R51), a container of a vector register (R190), a cell of an accumulator (R226). -/
abbrev Word32 := BitVec 32

/-- A vector register of 1024 bits (R190). -/
abbrev VReg := BitVec 1024

end Sys2Proof
end

