-- ==== Sys2Proof/Config.lean ====
section
/-! DEFINITION. What one part fixes (00, R2 to R6) and what the spec leaves to something outside the device: the fused keys, the
fused minimum security version, and the measured value of the boot ROM. Which of the two parts a package is stands in its state. -/

namespace Sys2Proof.Config

/-! The two parts (R1 to R5): `c` is false for a KJ-PX9A and true for a KJ-PX9C. -/

/-- CAP0 (00, Table 00-2). -/
def cap0 (c : Bool) : Word := if c then 0x0000000100080840#64 else 0x0000000100101081#64
/-- CAP1: the regions present (00, Table 00-3). -/
def cap1 (c : Bool) : Word := if c then 0x000000000000FFFF#64 else 0x00000000FFFFFFFF#64
/-- CAP2: the Ifetis ports present (00, Table 00-3). -/
def cap2 (c : Bool) : Word := if c then 0x00000000000000FF#64 else 0x000000000000FFFF#64
/-- CAP3 (00, Table 00-3). -/
def cap3 (c : Bool) : Word := if c then 0x0000000000104000#64 else 0x0000000000204000#64

/-- Dies of the package (R1). -/
def dies (c : Bool) : Nat := if c then 4 else 8
/-- Regions of the package (R1, R10). -/
def regions (c : Bool) : Nat := 4 * dies c
/-- Clusters of the package (R10). -/
def clusters (c : Bool) : Nat := 16 * dies c
/-- Cores of the package (R10). -/
def cores (c : Bool) : Nat := 1024 * dies c
/-- HBM stacks (R1). -/
def hbmStacks (c : Bool) : Nat := 2 * dies c
/-- Ifetis ports (R1). -/
def ports (c : Bool) : Nat := 2 * dies c
/-- Virtual functions (R1). -/
def vfs (c : Bool) : Nat := 4 * dies c
/-- Work queues (R370). -/
def queues : Nat := 16384

/-- Whether the RSA-3072 PSS signature verifies under the fused key (R436): the key is outside the spec. -/
opaque rsaVerifies : BitVec 3072 → List Byte → Bool
/-- Whether the SLH-DSA-SHA2-192s signature verifies under the fused key (R436): the key is outside the spec. -/
opaque slhVerifies : BitVec 129792 → List Byte → Bool
/-- The fused minimum SVN (R436): outside the spec. -/
opaque minSvn : Nat
/-- The measurement of the boot ROM, MEAS0 (R438): the ROM is outside the spec. -/
opaque bootRomDigest : BitVec 384
/-- The signature and certificate bytes an SPDM answer carries (R438): the device key is outside the spec. -/
opaque spdmBytes : Nat → List Byte → List Byte

/-- The 64 KiB page of a region's memory that the scheduler takes next (R125 moves and copies pages; the spec leaves open which page is
taken): a free value, by region and count of pages taken. -/
opaque freePage : Nat → Nat → BitVec 19
/-- The place of a page table that the scheduler makes next, in units of 256 bytes (R125): a free value. -/
opaque freeTable : Nat → Nat → BitVec 27
/-- Whether a region's memory can take that many more pages (R125): a free value, since the supervisor's own use is outside the spec. -/
opaque roomFor : Nat → Nat → Nat → Bool

/-- Whether a fetch of a code word that has changed, with no ICSYNC since, still sees the old word (R300 allows either): a free value, by core
and count of such fetches. -/
opaque oldCode : Nat → Nat → Bool

/-- How far the package reference count runs from one black-box record to the next (R425): a free value, by count of records. -/
opaque elapsed : Nat → Nat

/-- How often a port's link sends a flit again before it is delivered whole (R428 leaves it to the link): a free value, by port and count of
the flits that the port has carried. -/
opaque linkRetries : Nat → Nat → Nat

/-- What a flit in a copied ring carries out of band, which its record has no place for (R404, R424): a free value, by record. -/
opaque flitForm : List Byte → Nat

/-- Which of the places that fit a window takes (R129, R130, R160 leave it open): a free value, by launch, core or cluster, and cycle. -/
opaque windowPlace : Nat → Nat → Nat → Nat
/-- Which of the slots that may take it a further task of a co-resident group takes (R364 and R375 leave it open): a free value, by launch,
tile and cycle. -/
opaque slotPlace : Nat → Nat → Nat → Nat

end Sys2Proof.Config
end

