-- ==== Sys2Proof/Machine/SMap.lean ====
section
/-! DEFINITION. Sparse maps from numbers to values: sorted lists of pairs in one canonical form. A map is read with the value
that an unlisted key holds, and no listed pair holds that value, so equal maps are equal lists. Memory is such a map. -/

namespace Sys2Proof.Machine

/-- A sparse map: keys strictly rising, no entry equal to what an unlisted key reads as. -/
abbrev SMap (α : Type) := List (Nat × α)

/-- The value at a key; `d` is what an unlisted key reads as. -/
def SMap.get {α : Type} (d : α) : SMap α → Nat → α
  | [], _ => d
  | (j, v) :: r, k => if j = k then v else SMap.get d r k

/-- The map with the key's entry removed. -/
def SMap.erase {α : Type} (m : SMap α) (k : Nat) : SMap α := m.filter (fun p => p.1 ≠ k)

/-- The map with the key listed with a value. -/
def SMap.insert {α : Type} : SMap α → Nat → α → SMap α
  | [], k, x => [(k, x)]
  | (j, v) :: r, k, x =>
    if j = k then (k, x) :: r else if k < j then (k, x) :: (j, v) :: r else (j, v) :: SMap.insert r k x

/-- The map with a value written at a key; writing the default removes the entry. -/
def SMap.set {α : Type} [DecidableEq α] (d : α) (m : SMap α) (k : Nat) (x : α) : SMap α :=
  if x = d then SMap.erase m k else SMap.insert m k x

/-- Whether the keys rise strictly from above `lo`. -/
def SMap.above {α : Type} (lo : Nat) : SMap α → Bool
  | [] => true
  | (j, _) :: r => decide (lo ≤ j) && SMap.above (j + 1) r

/-- The canonical form: keys strictly rising and no entry equal to the default. -/
def SMap.wf {α : Type} [DecidableEq α] (d : α) (m : SMap α) : Bool :=
  SMap.above 0 m && m.all (fun p => decide (p.2 ≠ d))

end Sys2Proof.Machine
end

