-- ==== Sys2Proof/Syntax.lean ====
section
/-! DEFINITION. The syntax of the Pexis-9: one constructor for each row of spec/opcode_table.json.
The first 214 constructors are the 32-bit instruction words; their fields are the raw fields of the word (03, Table 03-1 and
the tables of the owning chapters). The remaining constructors are the table's events: the indivisible steps of the units, the
scheduler, the firmware and the host port that no word encodes; their arguments name the unit the step happens in, and for a
register write the value written. A thread is named by its key 16 * core + slot. -/

namespace Sys2Proof

/-- The parts of a firmware image (22, Table 22-6) that its check reads (R436). -/
structure FirmwareImage where
  magic : BitVec 32
  kind : BitVec 8
  svn : BitVec 32
  digest : BitVec 384
  reservedZero : Bool
  rsaSig : BitVec 3072
  slhSig : BitVec 129792
  payload : List Byte
deriving DecidableEq, Repr

/-- The register blocks a host or supervisor register write names (22, Table 22-1). -/
inductive RegBlock where
  /-- The control block of physical region `index` (22, Table 22-1). -/
  | region
  /-- The control block of package cluster `index` (18, Table 18-8). -/
  | cluster
  /-- The debug window of linear core `index` (19, Table 19-4). -/
  | debug
  /-- The PF control block (22, Table 22-2). -/
  | pf
  /-- The ROUTE table of the PF (R428); the offset is the package number times 2. -/
  | route
  /-- The control block of virtual function `index`, as that function reaches it (21, Table 21-1; R370): VFREGTAB is read only there. -/
  | vf
  /-- VFREGTAB of virtual function `index`, as the PF writes it (R411). -/
  | vfTable
  /-- The queue registers of queue `index`, in the PF's queue window (18, Table 18-5). -/
  | queue
  /-- The queue registers of queue `index % 16384`, in the queue window of virtual function `index / 16384` (R427). -/
  | vfQueue
  /-- The MSI-X table and pending bits of function `index`: 0 to 31 a VF, 32 the PF (R427). -/
  | msix
deriving DecidableEq, Repr

/-- One constructor per row of the opcode table. -/
inductive Instr where
  /-- `ADD` (R88). Writes (sa + sb) mod 2^64 to sd. -/
  | add (d : BitVec 5) (a : BitVec 5) (b : BitVec 5)
  /-- `SUB` (R88). Writes (sa - sb) mod 2^64 to sd. -/
  | sub (d : BitVec 5) (a : BitVec 5) (b : BitVec 5)
  /-- `MUL` (R88). Writes the low 64 bits of sa x sb to sd. -/
  | mul (d : BitVec 5) (a : BitVec 5) (b : BitVec 5)
  /-- `MULH` (R88). Writes the high 64 bits of the signed 128-bit product to sd. -/
  | mulh (d : BitVec 5) (a : BitVec 5) (b : BitVec 5)
  /-- `MULHU` (R88). Writes the high 64 bits of the unsigned 128-bit product to sd. -/
  | mulhu (d : BitVec 5) (a : BitVec 5) (b : BitVec 5)
  /-- `DIV` (R89). Signed division truncated toward zero; it never traps. -/
  | div (d : BitVec 5) (a : BitVec 5) (b : BitVec 5)
  /-- `DIVU` (R89). Unsigned division; it never traps. -/
  | divu (d : BitVec 5) (a : BitVec 5) (b : BitVec 5)
  /-- `REM` (R89). Signed remainder with the sign of sa. -/
  | rem (d : BitVec 5) (a : BitVec 5) (b : BitVec 5)
  /-- `REMU` (R89). Unsigned remainder. -/
  | remu (d : BitVec 5) (a : BitVec 5) (b : BitVec 5)
  /-- `AND` (R88). Bitwise AND of sa and sb. -/
  | and (d : BitVec 5) (a : BitVec 5) (b : BitVec 5)
  /-- `OR` (R88). Bitwise OR of sa and sb. -/
  | or (d : BitVec 5) (a : BitVec 5) (b : BitVec 5)
  /-- `XOR` (R88). Bitwise XOR of sa and sb. -/
  | xor (d : BitVec 5) (a : BitVec 5) (b : BitVec 5)
  /-- `SHL` (R88). Shifts sa left by sb[5:0]. -/
  | shl (d : BitVec 5) (a : BitVec 5) (b : BitVec 5)
  /-- `SHR` (R88). Shifts sa right logically by sb[5:0]. -/
  | shr (d : BitVec 5) (a : BitVec 5) (b : BitVec 5)
  /-- `SAR` (R88). Shifts sa right arithmetically by sb[5:0]. -/
  | sar (d : BitVec 5) (a : BitVec 5) (b : BitVec 5)
  /-- `ROL` (R88). Rotates sa left by sb[5:0]. -/
  | rol (d : BitVec 5) (a : BitVec 5) (b : BitVec 5)
  /-- `MIN` (R88). Writes the signed minimum of sa and sb. -/
  | min (d : BitVec 5) (a : BitVec 5) (b : BitVec 5)
  /-- `MAX` (R88). Writes the signed maximum of sa and sb. -/
  | max (d : BitVec 5) (a : BitVec 5) (b : BitVec 5)
  /-- `MINU` (R88). Writes the unsigned minimum of sa and sb. -/
  | minu (d : BitVec 5) (a : BitVec 5) (b : BitVec 5)
  /-- `MAXU` (R88). Writes the unsigned maximum of sa and sb. -/
  | maxu (d : BitVec 5) (a : BitVec 5) (b : BitVec 5)
  /-- `CLZ` (R88). Counts the leading zero bits of sa. -/
  | clz (d : BitVec 5) (a : BitVec 5)
  /-- `CTZ` (R88). Counts the trailing zero bits of sa. -/
  | ctz (d : BitVec 5) (a : BitVec 5)
  /-- `POPC` (R88). Counts the set bits of sa. -/
  | popc (d : BitVec 5) (a : BitVec 5)
  /-- `BSWAP` (R88). Reverses the eight bytes of sa. -/
  | bswap (d : BitVec 5) (a : BitVec 5)
  /-- `ADDI` (R90). Adds the sign-extended imm16 to sa. -/
  | addi (d : BitVec 5) (a : BitVec 5) (i : BitVec 16)
  /-- `ANDI` (R90). ANDs sa with the sign-extended imm16. -/
  | andi (d : BitVec 5) (a : BitVec 5) (i : BitVec 16)
  /-- `ORI` (R90). ORs sa with the zero-extended imm16. -/
  | ori (d : BitVec 5) (a : BitVec 5) (i : BitVec 16)
  /-- `XORI` (R90). XORs sa with the zero-extended imm16. -/
  | xori (d : BitVec 5) (a : BitVec 5) (i : BitVec 16)
  /-- `SHLI` (R90). Shifts sa left by an immediate n. -/
  | shli (d : BitVec 5) (a : BitVec 5) (n : BitVec 6)
  /-- `SHRI` (R90). Shifts sa right logically by an immediate n. -/
  | shri (d : BitVec 5) (a : BitVec 5) (n : BitVec 6)
  /-- `SARI` (R90). Shifts sa right arithmetically by an immediate n. -/
  | sari (d : BitVec 5) (a : BitVec 5) (n : BitVec 6)
  /-- `LIMM` (R90). Loads the sign-extended imm21 into sd. -/
  | limm (d : BitVec 5) (i : BitVec 21)
  /-- `LIMMH` (R90). Replaces 16-bit lane q of sd with an immediate and keeps the other bits. -/
  | limmh (d : BitVec 5) (q : BitVec 2) (i : BitVec 16)
  /-- `BEXT` (R91). Extracts a bit field of sa into sd. -/
  | bext (d : BitVec 5) (a : BitVec 5) (w : BitVec 7) (o : BitVec 8)
  /-- `BINS` (R91). Inserts the low bits of sa into a field of sd. -/
  | bins (d : BitVec 5) (a : BitVec 5) (w : BitVec 7) (o : BitVec 8)
  /-- `CMPEQ` (R92). Writes 1 to sd if sa equals sb, otherwise 0. -/
  | cmpeq (d : BitVec 5) (a : BitVec 5) (b : BitVec 5)
  /-- `CMPLT` (R92). Writes 1 to sd if sa < sb signed, otherwise 0. -/
  | cmplt (d : BitVec 5) (a : BitVec 5) (b : BitVec 5)
  /-- `CMPLTU` (R92). Writes 1 to sd if sa < sb unsigned, otherwise 0. -/
  | cmpltu (d : BitVec 5) (a : BitVec 5) (b : BitVec 5)
  /-- `SEL` (R92). Writes sa to sd if sc is nonzero, otherwise sb. -/
  | sel (d : BitVec 5) (a : BitVec 5) (b : BitVec 5) (c : BitVec 5)
  /-- `B` (R93). Unconditional PC-relative branch. -/
  | b (o : BitVec 26)
  /-- `BL` (R93). PC-relative branch that writes the return address to s31. -/
  | bl (o : BitVec 26)
  /-- `BEQ` (R93). Branches if sa equals sb. -/
  | beq (a : BitVec 5) (b : BitVec 5) (o : BitVec 13)
  /-- `BNE` (R93). Branches if sa differs from sb. -/
  | bne (a : BitVec 5) (b : BitVec 5) (o : BitVec 13)
  /-- `BLT` (R93). Branches if sa < sb signed. -/
  | blt (a : BitVec 5) (b : BitVec 5) (o : BitVec 13)
  /-- `BGE` (R93). Branches if sa >= sb signed. -/
  | bge (a : BitVec 5) (b : BitVec 5) (o : BitVec 13)
  /-- `BLTU` (R93). Branches if sa < sb unsigned. -/
  | bltu (a : BitVec 5) (b : BitVec 5) (o : BitVec 13)
  /-- `BGEU` (R93). Branches if sa >= sb unsigned. -/
  | bgeu (a : BitVec 5) (b : BitVec 5) (o : BitVec 13)
  /-- `BR` (R93). Branches to the address held in sa. -/
  | br (a : BitVec 5)
  /-- `BLR` (R93). Branches to sa and writes the return address to s31. -/
  | blr (a : BitVec 5)
  /-- `NOP` (R95). Takes one issue turn and has no effect. -/
  | nop
  /-- `YIELD` (R95). Sets the thread's GAP to 8 + n. -/
  | yield (n : BitVec 8)
  /-- `TEXIT` (R96). Ends the task once its outstanding relaxed and vector work completes, releases its units and empties the slot. -/
  | texit
  /-- `MFS` (R97). Reads a state register into sd. -/
  | mfs (d : BitVec 5) (r : BitVec 8)
  /-- `MTS` (R97). Writes sa to a state register, subject to that register's checks. -/
  | mts (a : BitVec 5) (r : BitVec 8)
  /-- `REPF` (R68). Opens a repeat frame that captures up to len following words and runs them n times with renamed registers. -/
  | repf (n : BitVec 5) (d : BitVec 5) (a : BitVec 5) (b : BitVec 5) (l : BitVec 4)
  /-- `TRAP` (R387). Retires, then traps SOFTWARE with ADDR sa and INFO n. -/
  | trap (a : BitVec 5) (n : BitVec 8)
  /-- `BRK` (R387). Retires, then traps BREAKPOINT with INFO n. -/
  | brk (n : BitVec 8)
  /-- `LD_B` (R135). Loads 1 byte, zero-extended. -/
  | ldB (d : BitVec 5) (a : BitVec 5) (o : BitVec 12)
  /-- `LD_H` (R135). Loads 2 bytes, zero-extended. -/
  | ldH (d : BitVec 5) (a : BitVec 5) (o : BitVec 12)
  /-- `LD_W` (R135). Loads 4 bytes, zero-extended. -/
  | ldW (d : BitVec 5) (a : BitVec 5) (o : BitVec 12)
  /-- `LD_D` (R135). Loads 8 bytes. -/
  | ldD (d : BitVec 5) (a : BitVec 5) (o : BitVec 12)
  /-- `LD_BS` (R135). Loads 1 byte, sign-extended. -/
  | ldBs (d : BitVec 5) (a : BitVec 5) (o : BitVec 12)
  /-- `LD_HS` (R135). Loads 2 bytes, sign-extended. -/
  | ldHs (d : BitVec 5) (a : BitVec 5) (o : BitVec 12)
  /-- `LD_WS` (R135). Loads 4 bytes, sign-extended. -/
  | ldWs (d : BitVec 5) (a : BitVec 5) (o : BitVec 12)
  /-- `LD_CVT` (R136). Loads one element of the pointer's FMT and widens it, applying the MX scale if BL is nonzero. -/
  | ldCvt (d : BitVec 5) (a : BitVec 5) (o : BitVec 12)
  /-- `ST_B` (R135). Stores the low byte of sd. -/
  | stB (d : BitVec 5) (a : BitVec 5) (o : BitVec 12)
  /-- `ST_H` (R135). Stores the low 2 bytes of sd. -/
  | stH (d : BitVec 5) (a : BitVec 5) (o : BitVec 12)
  /-- `ST_W` (R135). Stores the low 4 bytes of sd. -/
  | stW (d : BitVec 5) (a : BitVec 5) (o : BitVec 12)
  /-- `ST_D` (R135). Stores the 8 bytes of sd. -/
  | stD (d : BitVec 5) (a : BitVec 5) (o : BitVec 12)
  /-- `ST_CVT` (R137). Converts sd to the pointer's FMT under RMODE and stores the element. -/
  | stCvt (d : BitVec 5) (a : BitVec 5) (o : BitVec 12)
  /-- `ST_CVT_SAT` (R137). As ST.CVT, with saturation. -/
  | stCvtSat (d : BitVec 5) (a : BitVec 5) (o : BitVec 12)
  /-- `LDF` (R138). Reads a full local-store word and keeps it full, parking while the word is empty. -/
  | ldf (d : BitVec 5) (a : BitVec 5) (o : BitVec 12)
  /-- `LDFE` (R138). Reads a full local-store word and marks it empty, parking while it is empty. -/
  | ldfe (d : BitVec 5) (a : BitVec 5) (o : BitVec 12)
  /-- `STF` (R138). Writes an empty local-store word and marks it full, parking while it is full. -/
  | stf (d : BitVec 5) (a : BitVec 5) (o : BitVec 12)
  /-- `STFF` (R138). Writes a local-store word in any state and marks it full. -/
  | stff (d : BitVec 5) (a : BitVec 5) (o : BitVec 12)
  /-- `SETE` (R138). Marks a local-store word empty and keeps its data. -/
  | sete (a : BitVec 5) (o : BitVec 12)
  /-- `SETF` (R138). Marks a local-store word full and keeps its data. -/
  | setf (a : BitVec 5) (o : BitVec 12)
  /-- `AMO_ADD` (R143). Atomic wrapping add; sd receives the old value. -/
  | amoAdd (d : BitVec 5) (a : BitVec 5) (b : BitVec 5) (s : BitVec 1)
  /-- `AMO_MIN` (R143). Atomic signed minimum. -/
  | amoMin (d : BitVec 5) (a : BitVec 5) (b : BitVec 5) (s : BitVec 1)
  /-- `AMO_MAX` (R143). Atomic signed maximum. -/
  | amoMax (d : BitVec 5) (a : BitVec 5) (b : BitVec 5) (s : BitVec 1)
  /-- `AMO_MINU` (R143). Atomic unsigned minimum. -/
  | amoMinu (d : BitVec 5) (a : BitVec 5) (b : BitVec 5) (s : BitVec 1)
  /-- `AMO_MAXU` (R143). Atomic unsigned maximum. -/
  | amoMaxu (d : BitVec 5) (a : BitVec 5) (b : BitVec 5) (s : BitVec 1)
  /-- `AMO_SWAP` (R143). Atomic swap. -/
  | amoSwap (d : BitVec 5) (a : BitVec 5) (b : BitVec 5) (s : BitVec 1)
  /-- `AMO_CAS` (R143). Atomic compare-and-swap against sd. -/
  | amoCas (d : BitVec 5) (a : BitVec 5) (b : BitVec 5) (s : BitVec 1)
  /-- `AMO_AND` (R143). Atomic AND. -/
  | amoAnd (d : BitVec 5) (a : BitVec 5) (b : BitVec 5) (s : BitVec 1)
  /-- `AMO_OR` (R143). Atomic OR. -/
  | amoOr (d : BitVec 5) (a : BitVec 5) (b : BitVec 5) (s : BitVec 1)
  /-- `AMO_XOR` (R143). Atomic XOR. -/
  | amoXor (d : BitVec 5) (a : BitVec 5) (b : BitVec 5) (s : BitVec 1)
  /-- `AMO_FADD` (R143). Atomic FP32 add rounded RNE, whose flags are ORed in when the reply arrives. -/
  | amoFadd (d : BitVec 5) (a : BitVec 5) (b : BitVec 5)
  /-- `SYNCARM` (R148). Sets a sync word's TARGET, clears its status and applies update(0). -/
  | syncarm (d : BitVec 5) (a : BitVec 5) (o : BitVec 12)
  /-- `SYNCADD` (R149). Adds sd[31:0] to a sync word's count, which may advance its generation. -/
  | syncadd (d : BitVec 5) (a : BitVec 5) (o : BitVec 12)
  /-- `WAITGEN` (R150). Continues with the word's status if GEN differs from sd, otherwise parks until an advance. -/
  | waitgen (d : BitVec 5) (a : BitVec 5) (o : BitVec 12)
  /-- `RLX` (R145). Prefix word that marks the next memory instruction as relaxed. -/
  | rlx
  /-- `PADD` (R112). Adds sb to a fat pointer's offset. -/
  | padd (d : BitVec 5) (a : BitVec 5) (b : BitVec 5)
  /-- `PADD_IMM` (R112). Adds a signed 8-bit immediate to a fat pointer's offset. -/
  | paddImm (d : BitVec 5) (a : BitVec 5) (i : BitVec 8)
  /-- `PSET` (R113). Makes a fat pointer from an integer and a segment number. -/
  | pset (d : BitVec 5) (a : BitVec 5) (n : BitVec 3)
  /-- `PFMT` (R113). Sets a pointer's FMT and BL. -/
  | pfmt (d : BitVec 5) (a : BitVec 5) (l : BitVec 3) (f : BitVec 6)
  /-- `SEGRD` (R115). Reads 64-bit word w of segment register gn. -/
  | segrd (d : BitVec 5) (n : BitVec 3) (w : BitVec 2)
  /-- `PROBE` (R116). Tests an access of a given size and rights without trapping, translating pages where needed. -/
  | probe (d : BitVec 5) (a : BitVec 5) (s : BitVec 4) (r : BitVec 6)
  /-- `SEGNAR` (R114). Narrows segment gn in place to offset sa and length sb, with the rights kept. -/
  | segnar (n : BitVec 3) (a : BitVec 5) (r : BitVec 6) (b : BitVec 5)
  /-- `BLD` (R180). Loads one 32-byte bank block into quarter q of vd. -/
  | bld (d : BitVec 5) (a : BitVec 5) (q : BitVec 2) (o : BitVec 10)
  /-- `BST` (R180). Stores quarter q of vd to one 32-byte bank block. -/
  | bst (d : BitVec 5) (a : BitVec 5) (q : BitVec 2) (o : BitVec 10)
  /-- `WPHASE` (R181). Writes the cycle in which a strong access to the block would meet. -/
  | wphase (d : BitVec 5) (a : BitVec 5) (o : BitVec 12)
  /-- `WWAIT` (R182). Parks the thread until a given inner phase. -/
  | wwait (a : BitVec 5) (i : BitVec 12)
  /-- `BMAPRD` (R183). Reads N and one entry of a cluster's bank map. -/
  | bmaprd (d : BitVec 5) (c : BitVec 2) (i : BitVec 6)
  /-- `VADD` (R196). Element-wise rounded add. -/
  | vadd (t : BitVec 2) (r : BitVec 3) (d : BitVec 5) (a : BitVec 5) (x : BitVec 5) (k : BitVec 3) (s : BitVec 1)
  /-- `VSUB` (R196). Element-wise rounded subtract. -/
  | vsub (t : BitVec 2) (r : BitVec 3) (d : BitVec 5) (a : BitVec 5) (x : BitVec 5) (k : BitVec 3) (s : BitVec 1)
  /-- `VMUL` (R196). Element-wise rounded multiply. -/
  | vmul (t : BitVec 2) (r : BitVec 3) (d : BitVec 5) (a : BitVec 5) (x : BitVec 5) (k : BitVec 3) (s : BitVec 1)
  /-- `VFMA` (R196). Element-wise fused multiply-add into vd. -/
  | vfma (t : BitVec 2) (r : BitVec 3) (d : BitVec 5) (a : BitVec 5) (x : BitVec 5) (k : BitVec 3) (s : BitVec 1)
  /-- `VMIN` (R198). Element-wise minimum. -/
  | vmin (t : BitVec 2) (d : BitVec 5) (a : BitVec 5) (x : BitVec 5) (k : BitVec 3) (s : BitVec 1)
  /-- `VMAX` (R198). Element-wise maximum. -/
  | vmax (t : BitVec 2) (d : BitVec 5) (a : BitVec 5) (x : BitVec 5) (k : BitVec 3) (s : BitVec 1)
  /-- `VABS` (R198). Element-wise absolute value. -/
  | vabs (t : BitVec 2) (d : BitVec 5) (a : BitVec 5) (k : BitVec 3)
  /-- `VNEG` (R198). Element-wise negation. -/
  | vneg (t : BitVec 2) (d : BitVec 5) (a : BitVec 5) (k : BitVec 3)
  /-- `VAND` (R199). Container-wise AND. -/
  | vand (d : BitVec 5) (a : BitVec 5) (x : BitVec 5) (k : BitVec 3) (s : BitVec 1)
  /-- `VOR` (R199). Container-wise OR. -/
  | vor (d : BitVec 5) (a : BitVec 5) (x : BitVec 5) (k : BitVec 3) (s : BitVec 1)
  /-- `VXOR` (R199). Container-wise XOR. -/
  | vxor (d : BitVec 5) (a : BitVec 5) (x : BitVec 5) (k : BitVec 3) (s : BitVec 1)
  /-- `VSHL` (R199). Container-wise left shift. -/
  | vshl (d : BitVec 5) (a : BitVec 5) (x : BitVec 5) (k : BitVec 3) (s : BitVec 1)
  /-- `VSHR` (R199). Container-wise logical or arithmetic right shift. -/
  | vshr (t : BitVec 2) (d : BitVec 5) (a : BitVec 5) (x : BitVec 5) (k : BitVec 3) (s : BitVec 1)
  /-- `VCMP_EQ` (R200). Writes the equality predicate to mask kd. -/
  | vcmpEq (t : BitVec 2) (d : BitVec 3) (a : BitVec 5) (x : BitVec 5) (k : BitVec 3) (s : BitVec 1)
  /-- `VCMP_LT` (R200). Writes the less-than predicate to mask kd. -/
  | vcmpLt (t : BitVec 2) (d : BitVec 3) (a : BitVec 5) (x : BitVec 5) (k : BitVec 3) (s : BitVec 1)
  /-- `VCMP_LE` (R200). Writes the less-or-equal predicate to mask kd. -/
  | vcmpLe (t : BitVec 2) (d : BitVec 3) (a : BitVec 5) (x : BitVec 5) (k : BitVec 3) (s : BitVec 1)
  /-- `VCMP_UNORD` (R200). Writes the unordered predicate to mask kd. -/
  | vcmpUnord (t : BitVec 2) (d : BitVec 3) (a : BitVec 5) (x : BitVec 5) (k : BitVec 3) (s : BitVec 1)
  /-- `VSEL` (R201). Selects each container from va or x by the mask. -/
  | vsel (d : BitVec 5) (a : BitVec 5) (x : BitVec 5) (k : BitVec 3) (s : BitVec 1)
  /-- `VPERM` (R201). Permutes the containers of va by index vector or rotation. -/
  | vperm (d : BitVec 5) (a : BitVec 5) (x : BitVec 5) (s : BitVec 1)
  /-- `VBCAST` (R201). Broadcasts sx to the active elements of vd. -/
  | vbcast (t : BitVec 2) (d : BitVec 5) (x : BitVec 5) (k : BitVec 3)
  /-- `VINS` (R201). Writes sx[31:0] into container n of vd. -/
  | vins (d : BitVec 5) (n : BitVec 5) (x : BitVec 5)
  /-- `VEXT` (R201). Extracts container n of va into sd. -/
  | vext (d : BitVec 5) (a : BitVec 5) (n : BitVec 5)
  /-- `VRED` (R202). Reduces 32 lanes into sd by sum, minimum or maximum. -/
  | vred (t : BitVec 2) (d : BitVec 5) (a : BitVec 5) (o : BitVec 2) (k : BitVec 3)
  /-- `VDOT` (R203). Accumulates the dot product of va and vb into sd using the tree of R45. -/
  | vdot (t : BitVec 2) (d : BitVec 5) (a : BitVec 5) (b : BitVec 5) (k : BitVec 3)
  /-- `VDOTB` (R203). Accumulates a 128-element binary8 dot product of a register pair into sd. -/
  | vdotb (d : BitVec 5) (a : BitVec 5) (x : BitVec 5) (k : BitVec 3)
  /-- `VSCAN` (R204). Prefix scan of a batch in the step order of R48. -/
  | vscan (t : BitVec 2) (d : BitVec 5) (a : BitVec 5) (r : BitVec 3) (o : BitVec 2) (k : BitVec 3)
  /-- `VTOPK` (R205). Ranks the active lanes and writes the top K values and their lane numbers. -/
  | vtopk (t : BitVec 2) (d : BitVec 5) (a : BitVec 5) (c : BitVec 2) (k : BitVec 3)
  /-- `VLD` (R211). Loads 128 contiguous bytes into vd. -/
  | vld (d : BitVec 5) (a : BitVec 5) (x : BitVec 5) (k : BitVec 3)
  /-- `VST` (R211). Stores 128 contiguous bytes from vd. -/
  | vst (d : BitVec 5) (a : BitVec 5) (x : BitVec 5) (k : BitVec 3)
  /-- `VLDS` (R211). Strided lane load. -/
  | vlds (d : BitVec 5) (a : BitVec 5) (x : BitVec 5) (k : BitVec 3)
  /-- `VSTS` (R211). Strided lane store. -/
  | vsts (d : BitVec 5) (a : BitVec 5) (x : BitVec 5) (k : BitVec 3)
  /-- `VGATH` (R211). Bounded indexed gather with a fill value for lanes out of bounds. -/
  | vgath (d : BitVec 5) (a : BitVec 5) (x : BitVec 5) (k : BitVec 3)
  /-- `VSCAT` (R211). Bounded indexed scatter. -/
  | vscat (d : BitVec 5) (a : BitVec 5) (x : BitVec 5) (k : BitVec 3)
  /-- `VCVT_FROM_F32` (R207). Converts a batch of FP32 lanes to a narrow format in part q of vd. -/
  | vcvtFromF32 (r : BitVec 3) (q : BitVec 2) (d : BitVec 5) (a : BitVec 5) (x : BitVec 5) (k : BitVec 3) (s : BitVec 1)
  /-- `VCVT_TO_F32` (R207). Widens part q of a narrow register to FP32 lanes. -/
  | vcvtToF32 (r : BitVec 3) (q : BitVec 2) (d : BitVec 5) (a : BitVec 5) (x : BitVec 5) (k : BitVec 3)
  /-- `VSF` (R208). Special-function request that applies function fn to each active FP32 lane. -/
  | vsf (f : BitVec 4) (d : BitVec 5) (a : BitVec 5) (r : BitVec 3) (k : BitVec 3)
  /-- `KAND` (R210). Mask AND. -/
  | kand (d : BitVec 3) (a : BitVec 3) (b : BitVec 3)
  /-- `KOR` (R210). Mask OR. -/
  | kor (d : BitVec 3) (a : BitVec 3) (b : BitVec 3)
  /-- `KNOT` (R210). Mask NOT. -/
  | knot (d : BitVec 3) (a : BitVec 3)
  /-- `KMOV_KK` (R210). Copies a mask to a mask. -/
  | kmovKk (d : BitVec 3) (a : BitVec 3)
  /-- `KMOV_KS` (R210). Copies sa[31:0] to a mask. -/
  | kmovKs (d : BitVec 3) (a : BitVec 5)
  /-- `KMOV_SK` (R210). Copies a mask, zero-extended, to a scalar. -/
  | kmovSk (d : BitVec 5) (a : BitVec 3)
  /-- `KPOP` (R210). Counts the bits set in a mask. -/
  | kpop (d : BitVec 5) (a : BitVec 3)
  /-- `VFENCE` (R195). Parks until every earlier vector form of the thread has retired. -/
  | vfence
  /-- `HSEND` (R218). Sends a scalar entry to the halyard successor. -/
  | hsend (x : BitVec 5)
  /-- `HRECV` (R218). Takes the head halyard entry into sd, parking if the buffer is empty. -/
  | hrecv (d : BitVec 5)
  /-- `HSENDV` (R218). Sends a vector entry to the halyard successor. -/
  | hsendv (a : BitVec 5)
  /-- `HRECVV` (R218). Takes the head halyard entry into vd. -/
  | hrecvv (d : BitVec 5)
  /-- `XSCAN` (R220). Continues a pair scan along the halyard chain and forwards the composite. -/
  | xscan (d : BitVec 5) (a : BitVec 5) (x : BitVec 5)
  /-- `OCLAIM` (R228). Claims a named operand slot, accumulator or sk, or reports it busy. -/
  | oclaim (d : BitVec 5) (k : BitVec 1) (n : BitVec 3)
  /-- `OCLAIM_ANY` (R228). Claims the lowest free unit of a kind. -/
  | oclaimAny (d : BitVec 5) (k : BitVec 1)
  /-- `ORELEASE` (R228). Releases a held unit. -/
  | orelease (k : BitVec 1) (n : BitVec 3)
  /-- `OFILL` (R231). Moves rows from local store into an operand slot as one sequencer entry. -/
  | ofill (n : BitVec 3) (a : BitVec 5) (r : BitVec 6)
  /-- `ODRAIN` (R231). Moves rows from an operand slot to local store as one sequencer entry. -/
  | odrain (n : BitVec 3) (a : BitVec 5) (r : BitVec 6)
  /-- `SKSET` (R238). Loads the sparsity stream mask and clears its position. -/
  | skset (a : BitVec 5)
  /-- `GANG` (R247). Parks until every member issues GANG n, then forms the gang. -/
  | gang (n : BitVec 8)
  /-- `UNGANG` (R250). Disbands the gang. -/
  | ungang
  /-- `ACCZ` (R239). Zeroes an accumulator through the matrix intake. -/
  | accz (c : BitVec 1)
  /-- `ACCLD` (R240). Reads 16 KiB of FP32 cells and loads them into an accumulator. -/
  | accld (a : BitVec 5) (c : BitVec 1)
  /-- `ACCST` (R242). Converts an accumulator and stores it in a layout, with MX scales when BL is 3. -/
  | accst (d : BitVec 5) (a : BitVec 5) (s : BitVec 1) (r : BitVec 3) (l : BitVec 3) (c : BitVec 1)
  /-- `ACCRD` (R241). Reads half of one accumulator row into vd. -/
  | accrd (d : BitVec 5) (r : BitVec 6) (h : BitVec 1) (c : BitVec 1)
  /-- `MMA` (R236). Multiplies two operand slots and accumulates into an accumulator. -/
  | mma (e : BitVec 5) (g : BitVec 5) (t : BitVec 4) (z : BitVec 1) (c : BitVec 1) (b : BitVec 3) (a : BitVec 3)
  /-- `MMAS` (R236). Sparse multiply that skips blocks by the sk stream. -/
  | mmas (e : BitVec 5) (g : BitVec 5) (t : BitVec 4) (z : BitVec 1) (c : BitVec 1) (b : BitVec 3) (a : BitVec 3)
  /-- `MMA_J` (R249). Joint gang multiply using the leader's oA. -/
  | mmaJ (e : BitVec 5) (g : BitVec 5) (t : BitVec 4) (z : BitVec 1) (c : BitVec 1) (b : BitVec 3) (a : BitVec 3)
  /-- `MMAS_J` (R249). Joint sparse gang multiply walking the leader's sk. -/
  | mmasJ (e : BitVec 5) (g : BitVec 5) (t : BitVec 4) (z : BitVec 1) (c : BitVec 1) (b : BitVec 3) (a : BitVec 3)
  /-- `SEND` (R262). Posts a 64-byte message to a target core's receive queue. -/
  | send (d : BitVec 5) (a : BitVec 5) (h : BitVec 1) (t : BitVec 8)
  /-- `RECV` (R263). Takes the oldest receive-queue entry of the launch, parking if there is none. -/
  | recv (d : BitVec 5) (v : BitVec 5)
  /-- `RECVP` (R263). Takes a receive-queue entry if one is present, without parking. -/
  | recvp (d : BitVec 5) (v : BitVec 5)
  /-- `RST` (R264). Posted remote store of 1, 2, 4 or 8 bytes. -/
  | rst (d : BitVec 5) (a : BitVec 5) (s : BitVec 2) (o : BitVec 8)
  /-- `RST_V` (R264). Posted remote store of 64 bytes of a vector half. -/
  | rstV (d : BitVec 5) (a : BitVec 5) (h : BitVec 1) (o : BitVec 8)
  /-- `RLD` (R264). Strong remote load of 1, 2, 4 or 8 bytes. -/
  | rld (d : BitVec 5) (a : BitVec 5) (s : BitVec 2) (o : BitVec 8)
  /-- `RAMO` (R264). Remote atomic, posted when d = 0 and strong otherwise. -/
  | ramo (d : BitVec 5) (a : BitVec 5) (s : BitVec 1) (o : BitVec 4) (b : BitVec 5)
  /-- `AMSG` (R266). Posts an active message that starts the user handler on the target. -/
  | amsg (d : BitVec 5) (a : BitVec 5) (h : BitVec 1) (t : BitVec 8)
  /-- `HRET` (R266). Ends a handler; slot 15 goes IDLE or starts the next handler. -/
  | hret
  /-- `EPUSH` (R270). Pushes one command beat to an engine port; the fourth moves the checked command into the FIFO. -/
  | epush (b : BitVec 5) (a : BitVec 5) (e : BitVec 2)
  /-- `EPOP` (R271). Pops the slot's oldest result element, parking if there is none. -/
  | epop (d : BitVec 5) (e : BitVec 2)
  /-- `EPOLL` (R271). Reads the port's FIFO and reservation state without waiting. -/
  | epoll (d : BitVec 5) (e : BitVec 2)
  /-- `ECFG` (R272). Writes the thread's configuration word for an engine port. -/
  | ecfg (a : BitVec 5) (e : BitVec 2)
  /-- `FENCE` (R296). ACQ, REL or FULL fence that parks until earlier accesses of that kind are performed. -/
  | fence (s : BitVec 3) (k : BitVec 2)
  /-- `FENCE_NET` (R296). Parks until every earlier posted operation is acknowledged or refused. -/
  | fenceNet
  /-- `ICSYNC` (R301). Empties the instruction buffers of every thread in scope. -/
  | icsync (s : BitVec 3)
  /-- `SPECE` (R329). Closes a finished speculation group in the owner and restores RNGSEED. -/
  | spece
  /-- `SPCMP` (R319). Ends a speculative iteration once its results are final. -/
  | spcmp
  /-- `SPABORT` (R328). Waits to be oldest, then squashes its iteration and every younger one and closes the group. -/
  | spabort
  /-- `SPAPPEND` (R327). Appends a row to a block chain, at once or tentatively. -/
  | spappend (d : BitVec 5) (a : BitVec 5)
  /-- `SPSTAT` (R331). Reads a speculation selector. -/
  | spstat (d : BitVec 5) (n : BitVec 8)
  /-- `SPECB` (R317). Opens a speculation group of K slots over N iterations. -/
  | specb (t : BitVec 5) (n : BitVec 5) (k : BitVec 2) (m : BitVec 2) (g : BitVec 2) (e : BitVec 8)
  /-- `LOGMARK` (R353). Writes a task-mark record to the order log in record mode. -/
  | logmark (a : BitVec 5) (t : BitVec 8)
  /-- `LAUNCH` (R381). Device-side submission of a launch record to a queue. -/
  | launch (d : BitVec 5) (a : BitVec 5)
  /-- `MIGRATE` (R380). Moves the thread to another core of its cluster. -/
  | migrate (d : BitVec 5) (a : BitVec 5)
  /-- `SEGSET` (R117). Privileged load of a segment descriptor into gn. -/
  | segset (n : BitVec 3) (a : BitVec 5)
  /-- `WHEELSET` (R172). Privileged read of a wheel image into the region's shadow. -/
  | wheelset (a : BitVec 5)
  /-- `BANKRET` (R175). Privileged retirement of a physical bank. -/
  | bankret (d : BitVec 5) (c : BitVec 2) (b : BitVec 6)
  /-- `LOGCTL_READ` (R354). Reads LOGRING, LOGPTR or LOGMODE. -/
  | logctlRead (d : BitVec 5) (a : BitVec 5)
  /-- `LOGCTL_RING` (R354). Sets LOGRING and zeroes HEAD and TAIL. -/
  | logctlRing (d : BitVec 5) (a : BitVec 5)
  /-- `LOGCTL_MODE` (R354). Sets the log MODE and clears DIV. -/
  | logctlMode (d : BitVec 5) (a : BitVec 5)
  /-- `LOGCTL_TAIL` (R354). Advances TAIL in record mode and wakes log-full parks. -/
  | logctlTail (d : BitVec 5) (a : BitVec 5)
  /-- `LOGCTL_HEAD` (R354). Advances HEAD in replay mode. -/
  | logctlHead (d : BitVec 5) (a : BitVec 5)
  /-- `CTXSAVE` (R399). Privileged save of a slot's context to a save area. -/
  | ctxsave (d : BitVec 5) (a : BitVec 5) (s : BitVec 4)
  /-- `CTXLOAD` (R400). Privileged load of a saved context into an empty slot. -/
  | ctxload (d : BitVec 5) (a : BitVec 5)
  /-- `COLOUR` (R402). Flips the core's colour and returns the old one. -/
  | colour (d : BitVec 5)
  /-- `WAKE_RESUME` (R389). Makes a frozen thread READY at its PC. -/
  | wakeResume (d : BitVec 5) (a : BitVec 5)
  /-- `WAKE_FAULT` (R389). Wakes a thread parked on a page fault so that its instruction is reissued. -/
  | wakeFault (d : BitVec 5) (a : BitVec 5)
  /-- `WAKE_ABANDON` (R389). Abandons a frozen task and empties its slot. -/
  | wakeAbandon (d : BitVec 5) (a : BitVec 5)
  /-- `FADD` (R98). Scalar FP32 add. -/
  | fadd (d : BitVec 5) (a : BitVec 5) (b : BitVec 5) (r : BitVec 3)
  /-- `FMUL` (R98). Scalar FP32 multiply. -/
  | fmul (d : BitVec 5) (a : BitVec 5) (b : BitVec 5) (r : BitVec 3)
  /-- `FFMA` (R98). Scalar FP32 fused multiply-add. -/
  | ffma (d : BitVec 5) (a : BitVec 5) (b : BitVec 5) (c : BitVec 5) (r : BitVec 3)
  /-- `FCMP` (R100). Scalar FP32 compare by predicate. -/
  | fcmp (d : BitVec 5) (a : BitVec 5) (b : BitVec 5) (p : BitVec 5)
  /-- `FCVT` (R99). Scalar conversion of the selected kind. -/
  | fcvt (d : BitVec 5) (a : BitVec 5) (b : BitVec 5) (k : BitVec 5) (r : BitVec 3)
  /-- `VSCANLR` (R206). Pair scan of (a, b) linear maps over a register pair. -/
  | vscanlr (t : BitVec 2) (d : BitVec 5) (a : BitVec 5) (k : BitVec 3)
  /-- `CODE_FETCH` (R51). Fetch of a code word into the instruction buffer, with patches applied; it traps or parks on failure. -/
  | codeFetch
  /-- `DEFERRED_TRAP` (R384). A pending deferred trap is taken at the thread's next issue turn. -/
  | deferredTrap
  /-- `BREAKPOINT_MATCH` (R445). An armed breakpoint matches a word about to issue and freezes the slot. -/
  | breakpointMatch
  /-- `FAULT_PACKET_SEND` (R386). A held fault packet is sent once the supervisor mailbox has room. -/
  | faultPacketSend (core : Nat)
  /-- `LS_ACCESS_PERFORM` (R127). The local-store sequencer performs the entry at its head. -/
  | lsAccessPerform (core : Nat)
  /-- `REQUEST_PLACE` (R161). A staged block request is placed in the wheel queue when a place frees. -/
  | requestPlace (core : Nat)
  /-- `WHEEL_MEETING` (R163). A core port meets a bank and serves its oldest request for that bank. -/
  | wheelMeeting (core : Nat)
  /-- `FAR_MEETING` (R170). A far-port lane meets a bank of another group during its owner's step. -/
  | farMeeting (core : Nat)
  /-- `WHEEL_SWAP` (R173). At the swap cycle all five wheel tables change to the shadow. -/
  | wheelSwap (region : Nat)
  /-- `BANKRET_COMPLETE` (R176). A retirement finishes: N falls, the bank map is rewritten, the group is zeroised and the thread is READY. -/
  | bankretComplete (thread : Nat)
  /-- `WWAIT_WAKE` (R182). A thread parked in WWAIT becomes READY at the named phase. -/
  | wwaitWake (thread : Nat)
  /-- `TRANSLATION_WALK_END` (R120). A page-table walk completes, setting A and D and ending in a leaf, a fault or PAGE_FATAL. -/
  | translationWalkEnd (region : Nat) (dva : BitVec 56) (write : Bool)
  /-- `VECTOR_COMMAND_START` (R193). A queued vector command starts at the head of the command queue when the unit is free. -/
  | vectorCommandStart (core : Nat)
  /-- `SF_REQUEST_START` (R209). A special-function request starts and later delivers its result wherever the context lives. -/
  | sfRequestStart (core : Nat)
  /-- `MATRIX_COMMAND_START` (R233). A matrix command starts at the head of the intake when the slice is free. -/
  | matrixCommandStart (core : Nat)
  /-- `GANG_FORM` (R247). All members have issued GANG and become READY together. -/
  | gangForm (leader : Nat)
  /-- `HALYARD_LAND` (R218). A halyard entry lands in the successor's buffer and releases a parked receive. -/
  | halyardLand (i : Nat)
  /-- `MESSAGE_ARRIVAL` (R258). A flit reaches its target and is accepted into a queue, refused, captured or discarded. -/
  | messageArrival (i : Nat)
  /-- `MESSAGE_RETRY` (R258). The back-off of a refused flit expires and the flit is sent again. -/
  | messageRetry (core : Nat)
  /-- `ACK_ARRIVAL` (R259). The acknowledgement or refusal of a posted operation reaches the sender. -/
  | ackArrival (i : Nat)
  /-- `REPLY_ARRIVAL` (R264). The reply of an RLD or strong RAMO arrives and writes sd. -/
  | replyArrival (i : Nat)
  /-- `HANDLER_START` (R265). Slot 15 takes a built-in handler entry and performs it as a sequencer entry. -/
  | handlerStart (core : Nat)
  /-- `USER_HANDLER_START` (R266). Slot 15 starts the user handler of an AMSG. -/
  | userHandlerStart (core : Nat)
  /-- `ENGINE_COMMAND_TAKE` (R268). An engine takes a command from a port's input FIFO. -/
  | engineCommandTake (core : Nat) (port : Nat)
  /-- `CHUNK_START` (R277). An engine starts a chunk, incrementing PEND on its sync word. The engine's number is `engine` modulo 2^16; the rest is
  the place of the block that moves among those that may (MODEL: the same in the forms below that name a `unit`). -/
  | chunkStart (unit : Nat) (i : Nat)
  /-- `CHUNK_COMPLETE` (R151). A chunk's bytes have arrived and are counted on the sync word. -/
  | chunkComplete (unit : Nat) (i : Nat)
  /-- `COMMAND_END` (R278). A command ends with a status and produces its result element. -/
  | commandEnd (engine : Nat) (i : Nat)
  /-- `GATHER_INDEX` (R280). A GATHER looks up one logical index and issues its copy or fill sub-command. -/
  | gatherIndex (region : Nat) (i : Nat)
  /-- `APPEND_PERFORM` (R281). An APPEND writes a token row and updates its block summary. -/
  | appendPerform (unit : Nat) (i : Nat)
  /-- `A2A_ARRIVAL` (R282). A2A flits arrive at a rank and are matched by VF and CID to its command. -/
  | a2aArrival (i : Nat)
  /-- `MAILBOX_COMMAND` (R283). A port-3 command is delivered to the supervisor mailbox. -/
  | mailboxCommand (core : Nat)
  /-- `GUESS_END` (R318). A guess routine ends when its slot fetches the body's first word. -/
  | guessEnd (thread : Nat)
  /-- `WINDOW_START` (R314). A speculation window starts its oldest iteration and its guess routines. -/
  | windowStart (owner : Nat)
  /-- `SPEC_COMMIT` (R320). A confirmed oldest iteration commits its stores and appends to the owner. -/
  | specCommit (owner : Nat)
  /-- `REPLAY_STALL` (R351). 2^24 cycles pass with the window full and nothing consumed, raising REPLAY_DIVERGE. -/
  | replayStall (region : Nat)
  /-- `LOGMODE_WRITE` (R339). A driver write of LOGMODE, checked as LOGCTL.MODE. -/
  | logmodeWrite (region : Nat) (value : BitVec 64)
  /-- `LOGPTR_TAIL_WRITE` (R347). A driver write of TAIL that can wake log-full parks. -/
  | logptrTailWrite (region : Nat) (value : BitVec 64)
  /-- `QUEUE_NOTIFY` (R370). A write of QPTR.TAIL submits records to a queue. -/
  | queueNotify (q : Nat) (value : BitVec 64)
  /-- `RECORD_FETCH` (R371). The scheduler fetches a queue record and accepts it if PHASE and CHECK match. -/
  | recordFetch (q : Nat)
  /-- `RECORD_REFETCH` (R371). The back-off of an unaccepted record expires and the record is fetched again. -/
  | recordRefetch (q : Nat)
  /-- `SUBMISSION_CHECK` (R366). An accepted launch is checked, and its ranges applied, or it is rejected with a status. -/
  | submissionCheck (vf : Nat) (launch : Nat)
  /-- `QCTL_WRITE` (R370). A write of QCTL; clearing EN empties the ring of unfetched records. -/
  | qctlWrite (q : Nat) (pf : Bool) (value : BitVec 64)
  /-- `QERR_CLEAR` (R370). Writing 1 clears VALID or LOST in QERR. -/
  | qerrClear (q : Nat) (value : BitVec 64)
  /-- `WINDOW_ALLOT` (R130). A local-store window is allotted and its words marked empty. -/
  | windowAllot (core : Nat) (vf : Nat) (launch : Nat)
  /-- `TASK_DISPATCH` (R367). A tile's task is placed into an empty slot with its initial state. -/
  | taskDispatch (thread : Nat) (vf : Nat) (launch : Nat) (tile : Nat)
  /-- `LAUNCH_COMPLETE` (R368). The launch's windows are freed, its completion word is written and MSIX is raised. -/
  | launchComplete (vf : Nat) (launch : Nat)
  /-- `PRIORITY_AGE` (R373). Each full millisecond at the head of its queue raises a launch's effective priority. -/
  | priorityAge (vf : Nat) (launch : Nat)
  /-- `PREEMPT` (R374). A higher-priority launch pre-empts a lower-priority task of the same VF. -/
  | preempt (vf : Nat) (launch : Nat)
  /-- `EVICTION_TEST` (R376). The scheduler's 1024-cycle test for stuck launches. -/
  | evictionTest (region : Nat)
  /-- `CONTEXT_SAVE` (R394). A slot's context is quiesced and saved to the cache and the save area. -/
  | contextSave (thread : Nat)
  /-- `CONTEXT_RESUME` (R397). The scheduler resumes a saved context in a slot and re-pushes returned descriptors on HOMECORE. -/
  | contextResume (thread : Nat) (area : Nat)
  /-- `LOAD_TABLE_REFRESH` (R377). The cluster load table and LOADREG are refreshed every 16 cycles. -/
  | loadTableRefresh (cluster : Nat)
  /-- `MIGRATION_INTERVAL` (R379). An overloaded core's migration interval expires and it may migrate a task to IDLE. -/
  | migrationInterval (core : Nat)
  /-- `MIGRATION_ARRIVE` (R379). A migration message arrives and the task becomes READY on the new core. -/
  | migrationArrive (i : Nat)
  /-- `TCINV_GO` (R124). Invalidates translation entries for a page or all; it completes when old accesses are performed. -/
  | tcinvGo (region : Nat) (value : BitVec 64)
  /-- `PTROOT_WRITE` (R120). A write of PTROOT flushes the translation cache. -/
  | ptrootWrite (region : Nat) (value : BitVec 64)
  /-- `REGION_RESET` (R417). An RGRST.GO starts the seven-step reset of a region. -/
  | regionReset (region : Nat) (pf : Bool) (value : BitVec 64)
  /-- `RAIL_FAULT` (R417). A rail fault in a region starts its reset. -/
  | railFault (region : Nat)
  /-- `CLOCK_FAULT` (R417). A PLL fault in a region starts its reset. -/
  | clockFault (region : Nat)
  /-- `HBM_STACK_FAULT` (R419). A base die or PHY fault resets both regions of the stack. -/
  | hbmStackFault (stack : Nat)
  /-- `COLLECTIVE_ENGINE_FAULT` (R419). A collective engine fault ends its active A2A commands GONE. -/
  | collectiveEngineFault (die : Nat)
  /-- `PACKAGE_RESET` (R436). Package reset reactivates all banks and loads and verifies the package firmware. -/
  | packageReset (image : FirmwareImage)
  /-- `WINDOW_WRITE` (R416). A write of WINn that completes once flits under the old contents are performed. -/
  | windowWrite (region : Nat) (n : Nat) (word : Nat) (value : BitVec 64)
  /-- `RGINT_CLEAR` (R423). Writing 1 clears region interrupt causes so their vectors can be raised again. -/
  | rgintClear (region : Nat) (value : BitVec 64)
  /-- `CUT_START` (R403). CUTCTL.GO starts summing SENT and RECV of the old colour. -/
  | cutStart (region : Nat) (value : BitVec 64)
  /-- `CUT_RESUM` (R403). The router tree re-sums the cut counters every 4096 cycles and may set CLOSED. -/
  | cutResum (vf : Nat)
  /-- `CUT_RESEND` (R424). CUTCTL.RESEND re-injects captured flits in capture order. -/
  | cutResend (region : Nat)
  /-- `CLOCK_REQUEST` (R431). An RGCLKREQ.GO request for a frequency and voltage step. -/
  | clockRequest (region : Nat) (value : BitVec 64)
  /-- `CLOCK_STEP_BEGIN` (R431). A request is checked and its ramp and retune begin, or it is denied. -/
  | clockStepBegin (region : Nat)
  /-- `CLOCK_STEP_END` (R432). A step's ramp and retune gap end and BUSY clears. -/
  | clockStepEnd (region : Nat)
  /-- `LINK_ENABLE` (R428). A write of LINKCTL.EN starts training of an Ifetis port. -/
  | linkEnable (port : Nat) (value : BitVec 64)
  /-- `LINK_UP` (R429). A port finishes training on all 8 lanes. -/
  | linkUp (port : Nat) (peer : BitVec 16)
  /-- `LANE_FAULT` (R429). A lane fault takes the port down and reroutes its flits. -/
  | laneFault (port : Nat)
  /-- `BREAKPOINT_WRITE` (R447). A write of BPn that completes when every core tests with the new contents. -/
  | breakpointWrite (n : Nat) (word : Nat) (value : BitVec 64)
  /-- `PROFCTL_WRITE` (R440). A write of PROFCTL; CLR zeroes every counter and histogram bin. -/
  | profctlWrite (core : Nat) (value : BitVec 64)
  /-- `TRIGGER_PULSE` (R443). A trigger-line pulse acts on the region's counters 64 ns after its event. -/
  | triggerPulse (die : Nat) (line : Nat)
  /-- `TRIGIN` (R442). An input pin TRIGIN pulses its trigger source. -/
  | trigin (pin : Nat)
  /-- `GET_VERSION` (R438). SPDM GET_VERSION over DOE. -/
  | getVersion (fn : Nat)
  /-- `GET_CAPABILITIES` (R438). SPDM GET_CAPABILITIES. -/
  | getCapabilities (fn : Nat)
  /-- `NEGOTIATE_ALGORITHMS` (R438). SPDM NEGOTIATE_ALGORITHMS. -/
  | negotiateAlgorithms (fn : Nat)
  /-- `GET_DIGESTS` (R438). SPDM GET_DIGESTS. -/
  | getDigests (fn : Nat)
  /-- `GET_CERTIFICATE` (R438). SPDM GET_CERTIFICATE. -/
  | getCertificate (fn : Nat)
  /-- `CHALLENGE` (R438). SPDM CHALLENGE. -/
  | challenge (fn : Nat)
  /-- `GET_MEASUREMENTS` (R438). SPDM GET_MEASUREMENTS, which waits for a region that is reloading. -/
  | getMeasurements (fn : Nat) (index : Nat)
  /-- `REGISTER_WRITE` (R427). A write to a control register that has no row of its own. -/
  | registerWrite (block : RegBlock) (index : Nat) (offset : Nat) (value : BitVec 64)
  /-- `ILLEGAL_WORD` (R56). Issue of a word that is no instruction (major 0x00, a reserved major or minor, or a nonzero reserved field) traps ILLEGAL and freezes the slot. -/
  | illegalWord (w : BitVec 32)
  /-- `ISSUE_TURN` (R439). In every region cycle the selector runs, and the turn is charged to one slot and class and counted in the ready histogram, even when no slot issues. -/
  | issueTurn (core : Nat)
  /-- `MEMORY_CONTROLLER_ACCESS` (R288). A region or package memory access is performed at the memory controller of the page's region and its reply or acknowledgement returns to the requester. -/
  | memoryControllerAccess (unit : Nat)
  /-- `HOST_READ_RETURN` (R296). Data of a device read of host memory, including the zero-length flushing read of a SYSTEM fence, returns through the host port. -/
  | hostReadReturn (core : Nat)
  /-- `MAILBOX_RESULT` (R283). Firmware returns a result element for a port-3 command, which enters the output FIFO or is set aside for a saved context. -/
  | mailboxResult (core : Nat) (slot : Nat) (element : BitVec 64)
  /-- `UNRESOLVED_PAGE_FAULT` (R122). The region supervisor, unable to resolve a page fault, makes the parked thread FROZEN with PAGE_FATAL and sends the fault packet. -/
  | unresolvedPageFault (region : Nat)
  /-- `RESETDONE` (R417). A region reset ends: the gate reopens, RSTCNT advances and RESETDONE is raised, or the region stays closed and RESETFAIL is raised. -/
  | resetdone (region : Nat) (image : FirmwareImage)
deriving DecidableEq, Repr

end Sys2Proof
end

