-- ==== Sys2Proof/Machine/State.lean ====
section
/-! DEFINITION. The state of the Pexis-9 package, as plain data: thread slots, cores, clusters, regions, virtual functions, work
queues, launches, engines, the network's traffic, memory, and the package's own registers. Each field's docstring names the rule
that gives it; a field marked MODEL is the model's own. -/

namespace Sys2Proof.Machine

/-- What stops the machine. -/
inductive Fault where
  /-- An event names a unit that the package does not have. No step raises it: such an event is discarded, as an access to a unit that is absent
  is (R5, R427), so it is safe. -/
  | noSuchUnit
deriving DecidableEq, Repr

/-- Why the model gives no meaning. -/
inductive Refusal where
  /-- Raised by a dispatch arm whose instruction has no meaning yet. Safe: the model stops where the hardware goes on. -/
  | notModelled (mnemonic : String)
deriving DecidableEq, Repr

/-- Slot states (04, Table 04-1). -/
inductive SlotSt where
  | empty | ready | parked | frozen | saving | idle
deriving DecidableEq, Repr

/-- The earlier work of a thread that an instruction waits for (Table 04-2). -/
inductive Work where
  /-- Reading accesses: FENCE.ACQ (Table 12-10). -/
  | reads
  /-- Writing accesses: FENCE.REL. -/
  | writes
  /-- Both: FENCE.FULL; and LAUNCH (R381). -/
  | accesses
  /-- The first beat of an EPUSH (R270). -/
  | beat
  /-- Vector forms, relaxed vector accesses included: VFENCE (R195). -/
  | vectors
  /-- Relaxed accesses and unit commands: TEXIT and SPECB (R96, R317). -/
  | all
deriving DecidableEq, Repr

/-- Why a slot is parked (04, Table 04-2), with what its release needs. -/
inductive Park where
  /-- Not parked. -/
  | none
  /-- Page fault on a DVA of a region (R122). -/
  | pageFault (region : Nat) (dva : Nat)
  /-- LDF 0, LDFE 1 or STF 2 on a word in the wrong state, with STF's value and the destination (R139). -/
  | fullEmpty (form : Nat) (key : Nat) (value : Word) (d : Nat) (lseg : Bool)
  /-- WAITGEN on a sync word that holds this GEN, with the pointer a poisoned word reports (R150, R152). -/
  | waitgen (key : Nat) (gen : Word32) (d : Nat) (lseg : Bool) (ptr : Word)
  /-- WWAIT for an inner phase, no earlier than a cycle (R182). -/
  | wwait (phase : Nat) (earliest : Nat)
  /-- RECV on an empty receive queue (R263). -/
  | recv (d v : Nat)
  /-- HSEND or HSENDV on a full successor buffer (R218). -/
  | hsend
  /-- HRECV, HRECVV or XSCAN on an empty buffer (R218). -/
  | hrecv
  /-- A seventeenth posted operation (R259). -/
  | posted
  /-- RLD, or RAMO with d not 0, until its reply (R264). -/
  | reply
  /-- FENCE.NET (R296). -/
  | fenceNet
  /-- A SYSTEM fence until the flushing read of host memory returns (R296). -/
  | hostFlush
  /-- The fourth EPUSH without FIFO space or a reservation, and a re-push after a save (R270, R397). -/
  | epush (port : Nat)
  /-- EPOP with no element of the slot (R271). -/
  | epop (port : Nat)
  /-- GANG n until every member has issued it (R247). -/
  | gang (n : Nat)
  /-- The owner of an open speculation group, or a group slot with nothing to run (R313); class none. -/
  | specIdle
  /-- An iteration holding a trap (R332); class none. -/
  | specTrap
  /-- An iteration that has retired SPCMP (R319); class none. -/
  | specDone
  /-- Waiting to become the oldest iteration (R323, R324, R328). -/
  | oldest
  /-- Waiting for a store-buffer entry (R325). -/
  | storeBuf
  /-- Log-full in a region (R347). -/
  | logFull (region : Nat)
  /-- Replay wait in a region (R349). -/
  | replay (region : Nat)
  /-- CTXSAVE of a slot of the core (R399), its register and its area (0 takes one from the pool). -/
  | ctxsave (d slot : Nat) (area : Nat)
  /-- BANKRET of a bank of a cluster, which completes as R176 states. -/
  | bankret (d cluster bank : Nat)
  /-- A strong access whose pieces have not all been performed (R164, R289). -/
  | access
  /-- A fifth relaxed operation (R146). -/
  | relaxed
  /-- FENCE of kind ACQ, REL or FULL, VFENCE, TEXIT, the first beat of EPUSH, SPECB and LAUNCH until the earlier work they wait for is done. -/
  | work (w : Work)
  /-- PROBE until the walk of a DVA of a region ends (R116). -/
  | probe (region dva : Nat)
  /-- CTXLOAD until the special-function results of the context have arrived (R400). -/
  | ctxload
  /-- An operation that binds its iteration, until the buffered stores and tentative appends have been performed (R323, R451). -/
  | flush
  /-- A built-in handler of slot 15 whose event waits for a region's log (R265, R347, R349). -/
  | handler (region : Nat)
deriving DecidableEq, Repr

/-- Park classes (R80). -/
inductive ParkClass where
  | none | memory | message
deriving DecidableEq, Repr

/-- The class of each cause (04, Table 04-2). -/
def Park.cls : Park → ParkClass
  | .none => .none
  | .pageFault _ _ => .memory
  | .fullEmpty _ _ _ _ _ => .memory
  | .waitgen _ _ _ _ _ => .memory
  | .wwait _ _ => .memory
  | .recv _ _ => .message
  | .hsend => .message
  | .hrecv => .message
  | .posted => .message
  | .reply => .message
  | .fenceNet => .message
  | .hostFlush => .memory
  | .epush _ => .message
  | .epop _ => .message
  | .gang _ => .message
  | .specIdle => .none
  | .specTrap => .none
  | .specDone => .none
  | .oldest => .memory
  | .storeBuf => .memory
  | .logFull _ => .memory
  | .replay _ => .memory
  | .ctxsave _ _ _ => .memory
  | .bankret _ _ _ => .memory
  | .access => .memory
  | .relaxed => .memory
  | .work _ => .memory
  | .probe _ _ => .memory
  | .ctxload => .memory
  | .flush => .memory
  | .handler _ => .memory

/-- REPST (03, Table 03-10). -/
structure Rep where
  act : Bool := false
  pass : Nat := 0
  idx : Nat := 0
  lenm1 : Nat := 0
  nm1 : Nat := 0
  sd : Nat := 0
  sa : Nat := 0
  sb : Nat := 0
deriving DecidableEq, Repr

/-- The registers of a thread. -/
structure Regs where
  /-- The program counter: a byte offset in the code image (R51). -/
  pc : Word := 0
  /-- s1 to s31 (R84); s0 is never listed. -/
  s : SMap Word := []
  /-- v0 to v31 (R190). -/
  v : SMap VReg := []
  /-- k1 to k7 (R191); an unlisted mask reads all ones. -/
  k : SMap Word32 := []
  /-- g0 to g7 (R108, R110). -/
  g : SMap (BitVec 256) := []
  /-- FPFLAGS (R43). -/
  fp : BitVec 4 := 0
  /-- RMODE.MODE (R38). -/
  rmode : BitVec 3 := 0
  /-- RNGSEED (R38). -/
  seed : Word := 0
  /-- REPST (R72). -/
  rep : Rep := {}
deriving DecidableEq, Repr

/-- What a task is (R86, R367). -/
structure Ident where
  /-- TASKID (Table 04-4). -/
  task : Word := 0
  /-- REGION.LOGICAL (Table 04-4). -/
  lregion : BitVec 5 := 0
  /-- The thread's privilege (R56). -/
  priv : Bool := false
  /-- SCOPE of the innermost level (R365). -/
  scope : Nat := 0
  /-- FLAGS.NOMIG of the launch (R379). -/
  nomig : Bool := false
  /-- The region cycle of dispatch, for the choice of a victim (R374). -/
  dispatched : Nat := 0
deriving DecidableEq, Repr

/-- A deferred trap (R384): code, PC and pointer of the operation that caused it, and a divergence's report (R351). -/
structure Deferred where
  code : BitVec 8
  pc : Word
  ptr : Word
  report : List Byte := []
deriving DecidableEq, Repr

/-- The issue state of a slot. -/
structure Issue where
  /-- LASTISS; none is "never" (R77). -/
  lastIss : Option Nat := none
  /-- GAP (R77). -/
  gap : Nat := 8
  /-- The word before the next one was RLX (R145). -/
  rlx : Bool := false
  /-- The 8-word instruction buffer: PC and word as fetched (R74). -/
  ibuf : List (Nat × BitVec 32) := []
  /-- The frame store: the captured words (R71). -/
  frame : List (BitVec 32) := []
  /-- A single step is under way, and whether its instruction has issued (R390). -/
  stepping : Bool := false
  stepped : Bool := false
  /-- Its gang has disbanded: it issues again once its queued bank requests have met (R184). -/
  settling : Bool := false
  /-- The next issue follows WAKE.RESUME, so no breakpoint is tested (R445). -/
  woken : Bool := false
  /-- Deferred traps in order of arrival (R384). -/
  deferred : List Deferred := []
  /-- In a gang: the word the leader has delivered and this thread has not issued yet (R248). -/
  delivered : Option (BitVec 32) := none
  /-- In a gang's leader: the word at its PC has been delivered (MODEL). -/
  sent : Bool := false
deriving DecidableEq, Repr

/-- What one memory operation of an instruction gave: where it lies, the bytes read, an atomic's value and flags, and whether it met
poison. -/
structure Got where
  pieces : List (Nat × Nat) := []
  bytes : List Byte := []
  value : Word := 0
  flags : BitVec 4 := 0
  poison : Bool := false
deriving DecidableEq, Repr

/-- The strong access under way of a parked thread (R164, R289; MODEL: its instruction is executed again from its journal once the access
has been performed). -/
structure Access where
  /-- The word of the instruction. -/
  word : BitVec 32 := 0
  /-- The number of the access among its core's, and the cycle before which its thread is not READY. -/
  no : Nat := 0
  due : Nat := 0
  /-- The pointer its packets carry. -/
  ptr : Word := 0
  /-- The bytes it reads, and what its pieces performed so far gave: bytes by key, and an atomic's value. -/
  want : List (Nat × Nat) := []
  cells : List Host.Cell := []
  got : Got := {}
  /-- The instruction's memory operations that are complete, in order, and how many of them this execution has used. -/
  jrn : List Got := []
  pos : Nat := 0
  /-- The instruction is executed again, outside an issue turn. -/
  redo : Bool := false
  /-- A relaxed access that was checked at its issue and goes on (R146, Table 05-11). -/
  held : Bool := false
deriving DecidableEq, Repr

/-- What a thread waits for, and what it has outstanding. -/
structure Waits where
  park : Park := .none
  /-- The parking cycle (R139, R376). -/
  since : Nat := 0
  acc : Access := {}
  /-- Posted operations unacknowledged (R259). -/
  posted : Nat := 0
  /-- Posted RAMO.FADDs whose flags have not arrived (R44, R264). -/
  fadds : Nat := 0
  /-- The thread has written host memory since its last SYSTEM fence (R296). -/
  hostDirty : Bool := false
deriving DecidableEq, Repr

/-- The role of a slot in a speculation group (R313). -/
inductive SpecRole where
  /-- No group slot. -/
  | none
  /-- A group slot with no iteration. -/
  | slot
  /-- A guess routine, at this distance from the oldest of its window (R318). -/
  | guess (m : Nat)
  /-- An iteration in its body (R319). -/
  | iter (j : Nat)
deriving DecidableEq, Repr

/-- One entry of the speculation store buffer: an aligned 32-byte block and its stored bytes (R324). -/
structure StoreEntry where
  block : Nat
  bytes : SMap (Option Byte)
  /-- The pointer of the entry's first store and the key it names, for the packet of R451. -/
  ptr : Word
  key : Nat
  /-- The regions whose tables translated its stores, plus 1; 0 for none (R124). -/
  vias : List Nat
deriving DecidableEq, Repr

/-- A tentative append (R327): the row's register, the descriptor's key and pointer, and the entries it holds. -/
structure Tentative where
  row : VReg
  desc : Nat
  ptr : Word
  entries : Nat
deriving DecidableEq, Repr

/-- Speculation state of a thread (15). -/
structure Spec where
  /-- SPSTAT.ACT, ABORT, WIDTH, N, C (Table 15-6). -/
  act : Bool := false
  bound : Bool := false
  abort : Bool := false
  width : Nat := 0
  n : Nat := 0
  c : Nat := 0
  /-- TOL and the counters of selectors 1 to 3 (R331). -/
  tol : Word32 := 0
  windows : Word := 0
  commits : Word := 0
  squashes : Word := 0
  /-- The SPECB word and its address (R317). -/
  specb : Word := 0
  specbPc : Word := 0
  /-- The group slots, in position order (R313). -/
  slots : List Nat := []
  /-- The first iteration of the open window, and the iterations of it that have committed (R320). -/
  winW : Nat := 0
  winA : Nat := 0
  /-- A window is open (R314). -/
  winOpen : Bool := false
  /-- The owner's registers at the start of the window: the committed state of R315. -/
  base : Option Regs := none
  /-- The generator state the last committed iteration left (R329). -/
  lastSeed : Word := 0
  /-- In a group slot: its owner's slot and its role. -/
  owner : Nat := 0
  role : SpecRole := .none
  /-- In a group slot: the guess registers once the routine has ended, or that it gave none (R318). -/
  guess : Option Regs := none
  noGuess : Bool := false
  /-- In an iteration: it has bound (R323). -/
  isBound : Bool := false
  /-- In an iteration that is not the oldest: the trap it holds, as code, ADDR and INFO (R332). -/
  held : Option (BitVec 8 × Word × Word) := none
  /-- The owner's own slot runs the group's iterations (R336). -/
  inOwner : Bool := false
  /-- The iteration's store-buffer entries and tentative appends, in order (R324, R327). -/
  buf : List StoreEntry := []
  app : List Tentative := []
  /-- They are being performed, for a commit or a binding, and the number of the request that performs the first entry (R451; MODEL). -/
  flushing : Bool := false
  flush : Nat := 0
deriving DecidableEq, Repr

/-- What a folded group keeps beside the save area (R335): the generator state of the last committed iteration and, for a bound one,
its own and the committed registers (MODEL: the save area has no place for them). -/
structure SpecSave where
  lastSeed : Word
  iterSeed : Option Word := none
  base : Option Regs := none
deriving DecidableEq, Repr

/-- A save under way (R394): the area's DVA, the kind of its placement record, whether the thread was FROZEN, and a folded group. -/
structure SaveJob where
  area : Nat
  kind : Nat
  frozen : Bool
  spec : Option SpecSave
  /-- Saved by the scheduler, which resumes it by itself (R374, R376). -/
  auto : Bool
  /-- A pre-emption that no record directs (R350). -/
  unrec : Bool
  /-- The group slots that the save has freed, whose queued requests it waits for (R184, R335). -/
  slots : List Nat := []
deriving DecidableEq, Repr

/-- A saved context (R394, R397), as the device knows it. -/
structure Saved where
  area : Nat
  task : Word
  home : Nat
  scope : Nat
  frozen : Bool
  auto : Bool
  unrec : Bool
  /-- Units or result elements bind it to its HOMECORE. -/
  bound : Bool
  /-- Saves of the task, mod 256 (R398). -/
  saves : BitVec 8
  spec : Option SpecSave
  /-- The thread has written host memory since its last SYSTEM fence (R296, R303). -/
  hostDirty : Bool
  /-- Deferred traps beyond the one of the area (R384). -/
  deferred : List Deferred
  /-- The slot it was evicted from, which its launch's next undispatched task takes (R376). -/
  kept : Option Nat
deriving DecidableEq, Repr

/-- Engine and gang state of a thread, and what its saves left. -/
structure Eng where
  /-- The assembly register of each port: beats as 128-bit values (R268). -/
  asm : SMap (List (BitVec 128)) := []
  /-- QUIET of each port (R272). -/
  quiet : SMap Bool := []
  /-- The gang's width, 0 outside a gang, and the leader's thread (R247). -/
  gangN : Nat := 0
  leader : Nat := 0
  /-- LOGSEQ.N (R346). -/
  logN : Word32 := 0
  /-- COLOUR.AREA, SAVES, MOVED (R398). -/
  area : Nat := 0
  saves : BitVec 8 := 0
  moved : Bool := false
  /-- The region whose memory holds the area (R393). -/
  areaReg : Nat := 0
  /-- The save under way, while the slot is SAVING. -/
  save : Option SaveJob := none
  /-- Returned commands to push again on HOMECORE, oldest first (R397). -/
  repush : List (List (BitVec 128)) := []
deriving DecidableEq, Repr

/-- One thread slot. -/
structure Thread where
  st : SlotSt := .empty
  r : Regs := {}
  id : Ident := {}
  is : Issue := {}
  w : Waits := {}
  sp : Spec := {}
  en : Eng := {}
deriving DecidableEq, Repr

/-- What a queued access does when it is performed (R145, R146, R163). -/
inductive Micro where
  /-- A store of bytes, in order: of two at one key the later is left. -/
  | write (cells : List Host.Cell)
  /-- A read of pieces: keys and lengths. -/
  | read (pieces : List (Nat × Nat))
  /-- A converting store (R450): the scale byte is read, the value converted with the generator state it took at issue, and the element
  written over its pieces. -/
  | conv (scale : Nat) (pieces : List (Nat × Nat)) (fmt : BitVec 6) (sat : Bool) (mode : Nat) (seed val : Word)
  /-- STFF 3, SETE 4, SETF 5. -/
  | fe (mode : Nat) (key : Nat) (val : Word)
  /-- An atomic; `amo op size8 key b cmp`. -/
  | amo (op : Nat) (size8 : Bool) (key : Nat) (b cmp : Word)
  /-- SYNCARM 0, SYNCADD 1. -/
  | sync (mode : Nat) (key : Nat) (val : Word32)
  /-- WAITGEN with the GEN it holds and its register (R150). -/
  | wait (key : Nat) (gen : Word32) (d : Nat)
  /-- The masked bytes of a store-buffer entry, with the pointer of its first store and the key that names (R451). -/
  | entry (cells : List Host.Cell) (ptr : Word) (first : Nat)
  /-- OFILL of an operand slot: the rows' pieces, and those of the scale bytes with their count for a row (R231). -/
  | fill (slot perRow : Nat) (data scales : List (Nat × Nat))
  /-- ODRAIN: the slot's bytes as they were at issue (R231). -/
  | drain (cells : List Host.Cell)
deriving DecidableEq, Repr

/-- A queued piece of an access: the thread and its task, the access it belongs to, what its deferred trap reports, and its action. -/
structure RelReq where
  who : Nat
  task : Word
  no : Nat
  pc : Word
  ptr : Word
  lseg : Bool
  /-- The thread is parked until it is performed (R289). -/
  strong : Bool
  /-- Placed in the wheel or far queue, not staged (R161), and the cycle in which it is queued (R163, R164). -/
  placed : Bool
  cycle : Nat
  /-- A vector memory form (R194). -/
  vec : Bool
  /-- The region whose tables translated it, plus 1; 0 for none (R124). -/
  via : Nat
  /-- A relaxed vector load's register, and the lanes it receives with the key of each (R192). -/
  dst : Option (Nat × List (Nat × Nat))
  op : Micro
  /-- A discarding converting load's format code, element pieces and scale byte, for its flags (R136). -/
  cvt : Option (BitVec 6 × List (Nat × Nat) × Nat) := none
  /-- The first key of the access that its record names, what its other pieces have given, and whether one of them met poison (R224, R344; MODEL). -/
  obj : Nat := 0
  seen : List Host.Cell := []
  bad : Bool := false
deriving DecidableEq, Repr

/-- A halyard entry (R217): kind 0 scalar, 1 vector, 2 composite. -/
structure HalEntry where
  kind : Nat := 0
  data : VReg := 0
  launch : Nat := 0
deriving DecidableEq, Repr

/-- A flit of the network (R256, R257). -/
structure Flit where
  /-- 0 SEND, 1 RST, 2 RLD, 3 RAMO, 4 AMSG (Table 11-1); 5 a halyard entry that a cut has captured, for slot `addr` (R404). -/
  kind : Nat := 0
  entry : HalEntry := {}
  header : Word := 0
  src : Nat := 0
  task : Word := 0
  dst : Nat := 0
  /-- Byte address in the target's local store, and the pointer's effective offset. -/
  addr : Nat := 0
  eo : Nat := 0
  size : Nat := 0
  op : Nat := 0
  payload : List Byte := []
  b : Word := 0
  cmp : Word := 0
  /-- Through a segment with right L (R154). -/
  lseg : Bool := false
  d : Nat := 0
  /-- The reply is awaited by a parked thread. -/
  strong : Bool := false
  pc : Word := 0
  ptr : Word := 0
  /-- The next back-off, and in a retry buffer the cycle at which this one ends (R258). -/
  backoff : Nat := 64
  due : Nat := 0
  /-- Re-injected after a cut: counted in neither colour (R424). -/
  resent : Bool := false
deriving DecidableEq, Repr

/-- A reply or acknowledgement on its way to a sender (R259, R264). -/
structure Reply where
  dst : Nat := 0
  task : Word := 0
  strong : Bool := false
  d : Nat := 0
  value : Word := 0
  flags : BitVec 4 := 0
  fadd : Bool := false
  /-- The trap code of a refusal or an error; 0 for none. -/
  code : BitVec 8 := 0
  pc : Word := 0
  ptr : Word := 0
  /-- A divergence's report (R351). -/
  report : List Byte := []
deriving DecidableEq, Repr

/-- A halyard entry in flight, for a slot of a core. -/
structure HalFlit where
  src : Nat := 0
  task : Word := 0
  dst : Nat := 0
  colour : Bool := false
  entry : HalEntry := {}
deriving DecidableEq, Repr

/-- A receive-queue entry (R258). -/
structure RxEntry where
  header : Word := 0
  payload : List Byte := []
  launch : Nat := 0
deriving DecidableEq, Repr

/-- What an engine is doing for a command: a chunk of a COPY (R277), a lookup (R280), an APPEND (R281), or 64 bytes of a collective (R282). Its
32-byte blocks are read and written one at a time. -/
structure Chunk where
  /-- The chunk, index, physical block or rank; for a collective the offset in the rank's block and, where the bytes are sent, the entry of the
  group table. -/
  no : Nat := 0
  off : Nat := 0
  dest : Nat := 0
  /-- 0 a lookup; 1 its reads are still to be planned; 2 it reads; 3 it writes. -/
  phase : Nat := 2
  /-- PEND of the sync word counts it (R151). -/
  pend : Bool := false
  /-- The pieces it reads in the order of its elements, the blocks still to be read, and what the others gave. -/
  want : List (Nat × Nat) := []
  left : List Nat := []
  got : List (Nat × List Byte) := []
  /-- The bytes it has still to write, how many it counts, and whether one fell on a poisoned word that it covers in part (R278). -/
  cells : List Host.Cell := []
  bytes : Nat := 0
  bad : Bool := false
  /-- A block of it has been written (R278). -/
  begun : Bool := false
  /-- The blocks it reads, and those it writes, through a segment with right L (R154). -/
  logR : List Nat := []
  logW : List Nat := []
deriving DecidableEq, Repr

/-- An engine command in a FIFO or active in an engine (R268, R277). -/
structure Cmd where
  thread : Nat := 0
  task : Word := 0
  port : Nat := 0
  beats : List (BitVec 128) := []
  quiet : Bool := false
  /-- The segment registers at the fourth EPUSH (R276). -/
  segs : SMap (BitVec 256) := []
  /-- The dimension descriptors 1 to 3 read at the push (R274). -/
  dims : List (BitVec 128) := []
  /-- A row carried in the command, for an append of a speculation commit, with its chain descriptor (R327). -/
  row : Option VReg := none
  desc : Nat := 0
  /-- It reserves a result element (R268). -/
  rsv : Bool := true
  /-- The next chunk to start, and the one started and not yet complete (R277). -/
  next : Nat := 0
  started : Option Chunk := none
  /-- It was the last of its engine to start a chunk (R277). -/
  last : Bool := false
  /-- PEND still counts a chunk that ended without a count (R278). -/
  owed : Bool := false
  /-- First chunk, index or block not completed, and the destination bytes counted (Table 11-7). -/
  done : Nat := 0
  bytes : Nat := 0
  /-- GATHER: the index being copied and the chunks of its block (R280). -/
  index : Nat := 0
  /-- The status it ends with, once decided (Table 11-9). -/
  status : Option Nat := none
  /-- A2A: the blocks sent, the flit of the next that is being read, and the bytes arrived from each rank (R282); `index` is the offset in the
  block being sent. -/
  sent : Nat := 0
  sending : Option Chunk := none
  arrived : SMap Nat := []
  /-- What tells the core's commands apart (MODEL). -/
  uid : Nat := 0
  /-- A GATHER's sub-command: the GATHER's `uid` (R280). -/
  parent : Option Nat := none
  /-- A GATHER whose sub-command is under way (R280). -/
  busy : Bool := false
deriving DecidableEq, Repr

/-- A result element of a slot (Table 11-7). `saved` is the save area's key when it is set aside for a saved context (R395). -/
structure Result where
  slot : Nat := 0
  task : Word := 0
  element : Word := 0
deriving DecidableEq, Repr

/-- A fault packet (19, Table 19-2), with the report of R351 when the code is REPLAY_DIVERGE. -/
structure Packet where
  task : Word := 0
  addr : Word := 0
  pc : Word32 := 0
  core : Nat := 0
  slot : Nat := 0
  deferred : Bool := false
  step : Bool := false
  frame : Bool := false
  specSlot : Bool := false
  code : BitVec 8 := 0
  info : Word := 0
  report : List Byte := []
deriving DecidableEq, Repr

/-- A command of the vector or special-function queue: the thread and task it belongs to, and the registers it marks pending, masks at 32 and
up (R191, R192). -/
structure UnitCmd where
  who : Nat := 0
  task : Word := 0
  regs : List Nat := []
deriving DecidableEq, Repr

/-- A command of the matrix intake: its thread and task, the accumulator it marks, whether it only stores it, and the operand slots and sk it
marks (R233, R234). A joint command lists the cores of its gang, and is ready once every member has issued it (R249). -/
structure MxCmd where
  who : Nat := 0
  task : Word := 0
  acc : Nat := 0
  store : Bool := false
  slots : List Nat := []
  sk : Bool := false
  joint : List Nat := []
  ready : Bool := true
deriving DecidableEq, Repr

/-- The queues and units of a core. -/
structure Units where
  /-- Holders of the claimable units: slot + 1; 16 is a saved context (R227, R229). -/
  hold : SMap Nat := []
  /-- sk (R226). -/
  skMask : Word := 0
  skPos : Nat := 0
  /-- Vector command queue (R193). -/
  vcq : List UnitCmd := []
  /-- Special-function queue (R209). -/
  sfq : List UnitCmd := []
  /-- Matrix intake (R233). -/
  intake : List MxCmd := []
  /-- Receive queue and handler queue (R258). -/
  rxq : List RxEntry := []
  hq : List Flit := []
  /-- Retry buffer (R258). -/
  retry : List Flit := []
  /-- Halyard inbound buffers of the slots (R217). -/
  hal : SMap (List HalEntry) := []
  /-- Engine input FIFOs and output FIFOs of ports 0 to 3 (R268). -/
  fifoIn : SMap (List Cmd) := []
  fifoOut : SMap (List Result) := []
  /-- Result elements reserved on each port (R268). -/
  rsv : SMap Nat := []
  /-- Commands pushed from the core so far (MODEL). -/
  cmdNo : Nat := 0
deriving DecidableEq, Repr

/-- Profiling registers of a core (23, Tables 23-1, 23-2). -/
structure Prof where
  en : Bool := false
  frz : Bool := false
  filt : Bool := false
  /-- ISSUED, MEM, MSG, VAC of slot s at 4 s + 0, 1, 2, 3. -/
  count : SMap Word := []
  /-- Histogram bins 0 to 16. -/
  hist : SMap Word := []
deriving DecidableEq, Repr

/-- One core. -/
structure Core where
  /-- LAST (R77). -/
  last : Nat := 15
  /-- The next region cycle whose issue turn has not been taken (MODEL). -/
  turn : Nat := 0
  /-- Local-store sequencer entries not yet performed (R126). -/
  seq : List RelReq := []
  /-- Wheel and far queues with their staging (R161, R170). -/
  wheel : List RelReq := []
  far : List RelReq := []
  /-- Accesses on their way to a memory controller or the host port (R288). -/
  mem : List RelReq := []
  /-- Accesses queued so far (MODEL), and the first cycles whose near and far meeting the port has not taken (R161). -/
  reqNo : Nat := 0
  met : Nat := 0
  farMet : Nat := 0
  /-- Flushing reads of SYSTEM fences in the host port's queue (R296). -/
  flush : List Nat := []
  u : Units := {}
  prof : Prof := {}
  /-- SLOTDBG.STEP (R390) and SLOTDBG.LASTCODE (Table 19-5) of its slots. -/
  steps : SMap Bool := []
  lastCode : SMap (BitVec 8) := []
  /-- LSERR (Table 06-1). -/
  lserr : Word := 0
  /-- RETRYCT (Table 19-4). -/
  retryCt : Word := 0
  /-- The core's colour and CUTCNT0, CUTCNT1 (R402, R403). -/
  colour : Bool := false
  sent0 : Word32 := 0
  recv0 : Word32 := 0
  sent1 : Word32 := 0
  recv1 : Word32 := 0
  /-- Fault packets held while the mailbox is full (R386). -/
  held : List Packet := []
  /-- Thread-context cache: area key and register part, oldest first (R392). -/
  cache : List (Nat × List Byte) := []
  /-- The first cycle of the running migration interval of an overloaded core (R379). -/
  loadSince : Nat := 0
  /-- READY threads at the last refresh (R377). -/
  own : Nat := 0
  /-- Code words that the core's fetch may still see as they were (R300; MODEL): of each launch, the words of its image when the core first
  fetched from it after an ICSYNC; and how often a fetch has met one that has changed since. -/
  code : SMap (List (Option (BitVec 32))) := []
  codeNo : Nat := 0
deriving DecidableEq, Repr

/-- One cluster. -/
structure Cluster where
  /-- Retired physical banks (R175, R176): N and bankmap follow from it. -/
  retired : List Nat := []
  /-- BKERR (Table 07-9). -/
  bkerr : Word := 0
  /-- MIGCTL (R379). -/
  migEn : Bool := true
  migInt : BitVec 32 := 4096
  /-- The load table as last refreshed: READY count of each core port (R377). -/
  load : SMap Nat := []
  /-- The bank-memory windows allotted: launch, start and size (R160). -/
  windows : List (Nat × Nat × Nat) := []
deriving DecidableEq, Repr

/-- A set of wheel tables; none for the inner tables is the default rows (R162, R168). -/
structure Wheel where
  pi : Nat := 64
  po : Nat := 8
  /-- Owner code of group g in step s at 4 s + g; unlisted rows of the default table are given by `Wheel.owner`. -/
  outer : Option (List Nat) := none
  /-- Physical bank of port c in row r of cluster j at (j * pi + r) * 64 + c. -/
  inner : Option (List Nat) := none
deriving DecidableEq, Repr

/-- A translation-cache entry: region-relative DVA base, page bits, leaf and what it remembers of D (R120, R121). -/
structure TEntry where
  base : Nat
  shift : Nat
  pa : Nat
  w : Bool
  d : Bool
  rem : Bool
  pte : Nat
deriving DecidableEq, Repr

/-- A page-fault request (R122): kind 0 read, 1 write, 2 atomic, 3 engine, 4 the scheduler's (R366). -/
structure FaultReq where
  task : Word
  core : Nat
  slot : Nat
  dva : Nat
  kind : Nat
deriving DecidableEq, Repr

/-- A black-box record (21, Table 21-6). -/
structure BoxRec where
  kind : Nat := 0
  time : Word := 0
  arg : Nat := 0
  cycle : Word32 := 0
  data : Word := 0
  task : Word := 0
deriving DecidableEq, Repr

/-- The order log of a region (16). -/
structure Log where
  ring : Word := 0
  head : Word32 := 0
  tail : Word32 := 0
  mode : Nat := 0
  lost : Bool := false
  div : Bool := false
  full : Bool := false
  /-- Records of the replay window consumed out of order: their numbers (R348). -/
  consumed : List Nat := []
  /-- Streams stopped by a divergence (R351): class, and object or task. -/
  stopped : List (Nat × Word) := []
deriving DecidableEq, Repr

/-- Cross-region window (21, Table 21-3). -/
structure Win where
  w0 : Word := 0
  w1 : Word := 0
deriving DecidableEq, Repr

/-- Ownership and reset state of a region (21, Table 21-2). -/
structure Own where
  gate : Bool := true
  phase : Nat := 0
  rstcnt : BitVec 16 := 0
  cause : Nat := 0
  assigned : Bool := false
  vf : Nat := 0
deriving DecidableEq, Repr

/-- Consistent-cut state of a region (R403, R404). -/
structure Cut where
  col : Bool := false
  going : Bool := false
  closed : Bool := false
  ovf : Bool := false
  diff : Word32 := 0
  ring : Word := 0
  /-- Records in the spill ring; and whether a cut has begun, or its records have been delivered, since CUTRING was written (R424). -/
  ringN : Nat := 0
  ringUsed : Bool := true
  /-- The router's save buffer, and flits that wait because the ring is full. -/
  saved : List Flit := []
  stalled : List Flit := []
deriving DecidableEq, Repr

/-- Clock control of a region (22, Table 22-4). -/
structure Clk where
  vreq : Nat := 750
  freq : Nat := 14
  busy : Bool := false
  pending : Option (Nat × Nat) := none
  status : Nat := 0
  vcur : Nat := 750
  fcur : Nat := 14
  denied : BitVec 16 := 0
  /-- The step under way. -/
  stepV : Nat := 750
  stepF : Nat := 14
  /-- RGPWR (R431). -/
  pwr : BitVec 16 := 0
deriving DecidableEq, Repr

/-- Whether a retune gap holds the region's clock (R432): the frequency of the step under way is to fall, or to rise at the voltage reached. -/
def Clk.held (c : Clk) : Bool := c.busy && (decide (c.stepF < c.fcur) || (decide (c.fcur < c.stepF) && decide (c.vcur = c.stepV)))

/-- One region. -/
structure Region where
  /-- The region cycle count t (R7, R87). -/
  clock : Nat := 0
  ptroot : Word := 0
  tcinv : Word := 0
  dirtyctl : Word := 0
  tcache : List TEntry := []
  /-- Walks under way for a PROBE: the thread and the DVA (R116). -/
  walks : List (Nat × Nat) := []
  wheel : Wheel := {}
  /-- The shadow and its swap cycle (R172, R173). -/
  shadow : Option Wheel := none
  swapAt : Nat := 0
  log : Log := {}
  /-- SAVEPOOL BASE and COUNT, and the DVAs of the areas held (R393). -/
  poolBase : Word := 0
  poolCount : BitVec 16 := 0
  poolHeld : List Nat := []
  /-- The supervisor's mailbox of fault packets (R386). -/
  mailbox : List Packet := []
  /-- Page-fault requests sent to the supervisor (R122). -/
  faults : List FaultReq := []
  /-- Port-3 commands delivered to the supervisor (R283). -/
  port3 : List Cmd := []
  /-- Block translation cache: VF, resolved TABP key, index and block number, least recent first (R280). -/
  btc : List (Nat × Nat × Nat × Nat) := []
  own : Own := {}
  win : SMap Win := []
  /-- Writes of its windows that wait for what was accepted under the old contents: window, word and value, oldest first (R416). -/
  winPend : List (Nat × Nat × Word) := []
  /-- RGINT (R423). -/
  rgint : BitVec 4 := 0
  cut : Cut := {}
  clk : Clk := {}
  /-- Black-box records, and BBCNT (R425). -/
  box : SMap BoxRec := []
  bbcnt : Word32 := 0
  /-- TASKFILT value and mask (R441), PROFTRIG (R443). -/
  filtV : Word := 0
  filtM : Word := 0
  proftrig : Word := 0
  /-- Trigger pulses under way: line and the cycle at which each acts (R443). -/
  pulses : List (Nat × Nat) := []
  /-- Contexts saved in areas of this region (R397). -/
  contexts : List Saved := []
  /-- The lanes of its far ports, as 64 * group + lane, that have served an engine in a cycle (R169; MODEL). -/
  laneAt : Nat := 0
  lanes : List Nat := []
deriving DecidableEq, Repr

/-- A virtual function (R370, R372, R411). -/
structure VF where
  regtab : SMap Byte := []
  weights : SMap Byte := []
  nextLaunch : Nat := 0
  /-- Deficit-round-robin credit of each process (R373). -/
  credit : SMap Nat := []
  /-- Its SPDM answers, latest first: request code and measurement (R438; MODEL records the answers). -/
  spdm : List (Nat × List Byte) := []
  /-- SPDM requests that wait for a region to reload (R438): their codes and indices, oldest first. -/
  spdmWait : List (Nat × Nat) := []
deriving DecidableEq, Repr

/-- A work queue (Table 18-5). -/
structure Queue where
  qbase : Word := 0
  qctl : Word := 0
  head : Word32 := 0
  tail : Word32 := 0
  qerr : Word := 0
  /-- Back-off of a record not accepted; 0 when none is under way; and the cycle of the VF's first region at which it has passed (R371). -/
  backoff : Nat := 0
  due : Nat := 0
deriving DecidableEq, Repr

/-- One level of a launch (Table 18-2). -/
structure Level where
  domain : Nat := 0
  scope : Nat := 0
  cores : Bool := false
  width : Nat := 0
  extent : Nat := 1
  first : Nat := 0
deriving DecidableEq, Repr

/-- The kernel of a launch (03, Table 03-6). -/
structure Kernel where
  /-- Address of the first code word, and whether it is a host address. -/
  code : Nat := 0
  host : Bool := false
  words : Nat := 0
  entry : Nat := 0
  handler : Nat := 0xFFFFFFFF
  guess : List Nat := []
  carryS : BitVec 32 := 0
  carryV : BitVec 32 := 0
  slots : Nat := 15
  /-- Patch list: word offset, parameter and kind (R65). -/
  patches : List (Nat × Nat × Nat) := []
  /-- HALTAB, or none for the default chain (R216). -/
  haltab : Option (List Nat) := none
  data : List Byte := []
deriving DecidableEq, Repr

/-- A launch accepted by the scheduler (R360 to R372). -/
structure Launch where
  /-- 0 unused, 1 accepted, 2 checked and dispatching, 3 rejected, 4 complete. -/
  phase : Nat := 0
  record : List Byte := []
  queue : Nat := 0
  recNo : Word32 := 0
  prio : Nat := 0
  /-- Full milliseconds waited at the head of its queue (R373). -/
  aged : Nat := 0
  priv : Bool := false
  kernel : Kernel := {}
  params : List Word := []
  levels : List Level := []
  /-- Segment descriptors of g0 to g7, before relocation; per-tile arrays by entry and tile (R362). -/
  segs : SMap (BitVec 256) := []
  tileSegs : SMap (BitVec 256) := []
  tiles : Nat := 0
  /-- Tiles dispatched, ended and abandoned. -/
  dispatched : List Nat := []
  ended : Nat := 0
  abandoned : Nat := 0
  /-- Local-store windows: core, start (R130). -/
  lsWin : List (Nat × Nat) := []
  /-- Tasks whose saved context holds the window of a core until they end (R130, R397). -/
  holds : List (Word × Nat) := []
  /-- A page of the record's data cannot be resolved (R366, R369). -/
  noPage : Bool := false
  /-- Replica pages to free at completion: region and DVA (R125). -/
  replicas : List (Nat × Nat) := []
  /-- A task or saved context was lost to a region reset (R418). -/
  lost : Bool := false
  status : Nat := 0
deriving DecidableEq, Repr

/-- A migration message (R379). -/
structure MigrMsg where
  thread : Thread := {}
  dst : Nat := 0
deriving DecidableEq, Repr

/-- A flit of a collective (R282): 64 bytes at an offset of a block, for a rank's package and die. -/
structure A2AFlit where
  vf : Nat := 0
  cid : Nat := 0
  srcRank : Nat := 0
  dstRank : Nat := 0
  pkg : Nat := 0
  die : Nat := 0
  offset : Nat := 0
  payload : List Byte := []
  /-- The region it was sent from; its next back-off, and the cycle there before which it is not sent again (R258, R282). -/
  src : Nat := 0
  backoff : Nat := 64
  due : Nat := 0
deriving DecidableEq, Repr

/-- The package's own registers (21, 22, 23). -/
structure Package where
  /-- Which part the package is (R1): false a KJ-PX9A, true a KJ-PX9C. No instruction or event changes it. -/
  partC : Bool := false
  linkwt : SMap Byte := []
  pwrshare : SMap (BitVec 32) := []
  pkgid : BitVec 16 := 0
  route : SMap (BitVec 16) := []
  linkctl : SMap Bool := []
  /-- LINKST UP, FAULT, RETRIES and PEER. -/
  linkst : SMap Word := []
  /-- Flits that an Ifetis port has carried (MODEL). -/
  linkFlits : SMap Nat := []
  fwReady : Bool := false
  fwFail : Nat := 0
  fwSvn : BitVec 32 := 0
  /-- MEAS1 to MEAS33; MEAS0 measures the boot ROM, which nothing changes (R438). -/
  meas : SMap (BitVec 384) := []
  trigsel : SMap Word := []
  /-- BPn words 0 and 1 at 2 n and 2 n + 1. -/
  bp : SMap Word := []
  /-- MSI-X vectors pending: function (0 to 31 VFs, 32 the PF) times 64 plus the vector (R423). -/
  msix : SMap Bool := []
  /-- Words of the MSI-X tables: function times 128 plus twice the vector for the message address, and one more for its data and the mask bit, which
  is held inverted, since a vector is masked at reset (R427). -/
  msixTab : SMap Word := []
  /-- Trigger-line pulses on TRIGOUT pins, counted (R442). -/
  trigout : SMap Nat := []
  /-- Deficit round robin between VFs: the VF served and what is left of its turn, for the collective engine of die `d` at `d` and for Ifetis
  port `p` at 8 + p (R282, R422). -/
  share : SMap (Nat × Nat) := []
  /-- Ranges of host memory, as address and length, that the host port refuses (R366, R369). No instruction or event changes them. -/
  hostHoles : List (Nat × Nat) := []
  /-- Package reference count in 10 ns units, as the last black-box record found it (Table 21-6), and how many records have been written (MODEL). -/
  refTime : Word := 0
  refNo : Nat := 0
  /-- Pages and tables taken for ranges so far (MODEL). -/
  pages : Nat := 0
deriving DecidableEq, Repr

/-- The whole machine. -/
structure State where
  /-- Environment events waiting to take place, in order (MODEL). -/
  inputs : List Instr
  /-- A turn has been granted to the current thread and its word has not issued yet (MODEL). -/
  issuing : Bool
  /-- The core whose issue turns the model takes (MODEL). -/
  focus : Nat
  /-- The current thread's key, 16 * core + slot, and its slot (MODEL). -/
  cur : Nat
  th : Thread
  /-- The word being executed, as fetched (R57). -/
  word : BitVec 32
  /-- The other slots, by key. -/
  threads : SMap Thread
  cores : SMap Core
  clusters : SMap Cluster
  regions : SMap Region
  vfs : SMap VF
  queues : SMap Queue
  launches : SMap Launch
  /-- Active commands of each engine, in arrival order (R277). -/
  engines : SMap (List Cmd)
  net : List Flit
  hal : List HalFlit
  reps : List Reply
  acks : List Reply
  migr : List MigrMsg
  a2a : List A2AFlit
  /-- All memory: local store, bank memory, region memory, host memory, operand memory and accumulators, by key. -/
  mem : SMap Byte
  /-- Full/empty bit of each local-store word, by key / 8 (R138). -/
  full : SMap Bool
  /-- Poison of each 64-bit word of local store and bank memory, by key / 8 (R133, R178). -/
  poison : SMap Bool
  /-- Memory errors that no read has met yet, in a 64-bit word of local store or bank memory, by key / 8: 1 a single-bit error, 2 an
  uncorrectable one (R132, R178). -/
  upsets : SMap Nat
  pkg : Package
deriving DecidableEq, Repr

/-- The package right after package reset (R16, R77, R84; each register at the value its table gives). -/
def State.reset : State where
  inputs := []
  issuing := false
  focus := 0
  cur := 0
  th := {}
  word := 0
  threads := []
  cores := []
  clusters := []
  regions := []
  vfs := []
  queues := []
  launches := []
  engines := []
  net := []
  hal := []
  reps := []
  acks := []
  migr := []
  a2a := []
  mem := []
  full := []
  poison := []
  upsets := []
  pkg := {}

end Sys2Proof.Machine
end

