-- ==== Sys2Proof/Machine/Ops.lean ====
section
/-! DEFINITION. The operations every meaning is built from: the current thread and the other slots, the scalar, vector, mask and
segment registers, retiring an instruction, parking, taking a trap (19, R385) and leaving it, and the units a thread holds. -/

namespace Sys2Proof.Machine

/-- Why an instruction does not retire: a trap with its code, ADDR and INFO (R383), or a park after which it is issued again. -/
inductive Stop where
  | trap (code : BitVec 8) (addr : Word) (info : Word)
  | park (p : Park)
  /-- REPLAY_DIVERGE with the presented record's OBJECT and the report of R351. -/
  | diverge (object : Word) (report : List Byte)
deriving DecidableEq, Repr

/-- A computation on the machine that may stop. What it changed before it stops is kept. -/
abbrev M (α : Type) := ExceptT Stop (StateM State) α

def tIllegal : BitVec 8 := 0x01
def tPrivileged : BitVec 8 := 0x02
def tSegLimit : BitVec 8 := 0x03
def tSegRights : BitVec 8 := 0x04
def tMisalign : BitVec 8 := 0x05
def tFormat : BitVec 8 := 0x06
def tBreakpoint : BitVec 8 := 0x08
def tSoftware : BitVec 8 := 0x09
def tEngine : BitVec 8 := 0x0A
def tGang : BitVec 8 := 0x0B
def tSpec : BitVec 8 := 0x0C
def tDiverge : BitVec 8 := 0x0D
def tRegionGone : BitVec 8 := 0x0E
def tBankPoison : BitVec 8 := 0x0F
def tOperandSlot : BitVec 8 := 0x10
def tPageFatal : BitVec 8 := 0x11

/-! Slots, cores, clusters, regions (R8). -/

def State.getT (s : State) (k : Nat) : Thread := if k = s.cur then s.th else SMap.get {} s.threads k

def State.setT (s : State) (k : Nat) (t : Thread) : State :=
  if k = s.cur then { s with th := t } else { s with threads := SMap.set {} s.threads k t }

/-- Makes a slot the current one. -/
def State.switchTo (s : State) (k : Nat) : State :=
  if k = s.cur then s
  else { s with threads := SMap.set {} (SMap.set {} s.threads s.cur s.th) k {}, th := SMap.get {} s.threads k, cur := k }

def State.updT (s : State) (k : Nat) (f : Thread → Thread) : State := s.setT k (f (s.getT k))

def State.core (s : State) (c : Nat) : Core := SMap.get {} s.cores c
def State.setCore (s : State) (c : Nat) (x : Core) : State := { s with cores := SMap.set {} s.cores c x }
def State.updCore (s : State) (c : Nat) (f : Core → Core) : State := s.setCore c (f (s.core c))
def State.cluster (s : State) (k : Nat) : Cluster := SMap.get {} s.clusters k
def State.setCluster (s : State) (k : Nat) (x : Cluster) : State := { s with clusters := SMap.set {} s.clusters k x }
def State.region (s : State) (r : Nat) : Region := SMap.get {} s.regions r
def State.setRegion (s : State) (r : Nat) (x : Region) : State := { s with regions := SMap.set {} s.regions r x }
def State.updRegion (s : State) (r : Nat) (f : Region → Region) : State := s.setRegion r (f (s.region r))
def State.vf (s : State) (v : Nat) : VF := SMap.get {} s.vfs v
def State.setVf (s : State) (v : Nat) (x : VF) : State := { s with vfs := SMap.set {} s.vfs v x }
def State.queue (s : State) (q : Nat) : Queue := SMap.get {} s.queues q
def State.setQueue (s : State) (q : Nat) (x : Queue) : State := { s with queues := SMap.set {} s.queues q x }
def State.launch (s : State) (l : Nat) : Launch := SMap.get {} s.launches l
def State.setLaunch (s : State) (l : Nat) (x : Launch) : State := { s with launches := SMap.set {} s.launches l x }

/-- The core of a thread key, and the region and cluster of a core (R8). -/
def coreOf (k : Nat) : Nat := k / 16
def slotOf (k : Nat) : Nat := k % 16
def clusterOf (c : Nat) : Nat := c / 64
def regionOf (c : Nat) : Nat := c / 256

def State.coreNo (s : State) : Nat := coreOf s.cur
def State.slotNo (s : State) : Nat := slotOf s.cur
def State.regionNo (s : State) : Nat := regionOf s.coreNo
def State.clusterNo (s : State) : Nat := clusterOf s.coreNo

/-- The cycle count of a core's region (R87). -/
def State.clockAt (s : State) (c : Nat) : Nat := (s.region (regionOf c)).clock

/-- The VF and launch number of a task identifier (Table 04-4). -/
def taskVf (t : Word) : Nat := (t >>> 56).toNat
def taskLaunch (t : Word) : Nat := (t >>> 32).toNat % 2 ^ 24
/-- The key of a launch: its VF and number. -/
def launchKey (vf n : Nat) : Nat := vf * 2 ^ 24 + n
def taskKey (t : Word) : Nat := launchKey (taskVf t) (taskLaunch t)

/-- Slot 15 without a handler is IDLE, any other slot without a thread EMPTY (Table 04-1). -/
def slotState (k : Nat) (t : Thread) : SlotSt := if t.st = .empty ∧ k % 16 = 15 then .idle else t.st

/-- The state of a slot: slot 15 is READY from the arrival of what it will handle (Table 04-1). -/
def State.slotSt (s : State) (k : Nat) : SlotSt :=
  if k % 16 = 15 ∧ (s.getT k).st = .empty ∧ (s.core (coreOf k)).u.hq ≠ [] then .ready else slotState k (s.getT k)

/-- READY slots of a core (R82, R440). -/
def State.readySlots (s : State) (core : Nat) : List Nat := ((List.range 16).map (fun i => 16 * core + i)).filter (fun k => s.slotSt k = .ready)

/-! Registers of the current thread. -/

/-- s0 reads as zero (R84). -/
def Regs.rdS (r : Regs) (n : Nat) : Word := if n = 0 then 0 else SMap.get 0 r.s n
/-- A write to s0 is discarded (R84). -/
def Regs.wrS (r : Regs) (n : Nat) (v : Word) : Regs := if n = 0 then r else { r with s := SMap.set 0 r.s n v }
def Regs.rdV (r : Regs) (n : Nat) : VReg := SMap.get 0 r.v n
def Regs.wrV (r : Regs) (n : Nat) (v : VReg) : Regs := { r with v := SMap.set 0 r.v n v }
/-- k0 reads as all ones (R191). -/
def Regs.rdK (r : Regs) (n : Nat) : Word32 := if n = 0 then 0xFFFFFFFF#32 else SMap.get 0xFFFFFFFF#32 r.k n
/-- A write to k0 is discarded (R191). -/
def Regs.wrK (r : Regs) (n : Nat) (v : Word32) : Regs :=
  if n = 0 then r else { r with k := SMap.set 0xFFFFFFFF#32 r.k n v }
def Regs.rdG (r : Regs) (n : Nat) : BitVec 256 := SMap.get 0 r.g n
def Regs.wrG (r : Regs) (n : Nat) (v : BitVec 256) : Regs := { r with g := SMap.set 0 r.g n v }

def State.rdS (s : State) (n : BitVec 5) : Word := s.th.r.rdS n.toNat
def State.wrS (s : State) (n : BitVec 5) (v : Word) : State := { s with th.r := s.th.r.wrS n.toNat v }
def State.rdV (s : State) (n : BitVec 5) : VReg := s.th.r.rdV n.toNat
def State.wrV (s : State) (n : BitVec 5) (v : VReg) : State := { s with th.r := s.th.r.wrV n.toNat v }
def State.rdK (s : State) (n : BitVec 3) : Word32 := s.th.r.rdK n.toNat
def State.wrK (s : State) (n : BitVec 3) (v : Word32) : State := { s with th.r := s.th.r.wrK n.toNat v }
def State.rdG (s : State) (n : BitVec 3) : BitVec 256 := s.th.r.rdG n.toNat
def State.wrG (s : State) (n : BitVec 3) (v : BitVec 256) : State := { s with th.r := s.th.r.wrG n.toNat v }
/-- Flags are ORed into FPFLAGS (R43). -/
def State.orFlags (s : State) (f : BitVec 4) : State := { s with th.r.fp := s.th.r.fp ||| f }

/-! Retiring. -/

/-- The registers after an instruction that falls through: the next word, or the next instruction of the frame (R70). -/
def Regs.next (r : Regs) : Regs :=
  if r.rep.act then
    if r.rep.idx < r.rep.lenm1 then { r with pc := r.pc + 4, rep.idx := r.rep.idx + 1 }
    else if r.rep.pass < r.rep.nm1 then
      { r with pc := r.pc - 4 * BitVec.ofNat 64 r.rep.idx, rep.idx := 0, rep.pass := r.rep.pass + 1 }
    else { r with pc := r.pc + 4, rep := {} }
  else { r with pc := r.pc + 4 }

/-- The issue state after any instruction has retired. -/
def Issue.done (i : Issue) : Issue :=
  { i with rlx := false, woken := false, stepped := i.stepping, delivered := none, sent := false }

/-- What a thread waits for once its instruction is over: no cause, and no access under way. -/
def Waits.over (w : Waits) : Waits := { w with park := .none, acc := {} }

/-- The instruction retires and the thread goes on at the next one. -/
def State.retire (s : State) : State := { s with th.r := s.th.r.next, th.is := s.th.is.done, th.w := s.th.w.over }

/-- The instruction retires and the thread goes on at a target; a taken branch empties the buffer (R300). -/
def State.jump (s : State) (t : Word) : State :=
  { s with th.r.pc := t, th.is := { s.th.is.done with ibuf := [] }, th.w := s.th.w.over }

/-- The PC the instruction is reported at: that of its RLX word when it is marked (R58). -/
def Thread.reportPc (t : Thread) : Word := if t.is.rlx then t.r.pc - 4 else t.r.pc

/-- The instruction will be issued again, from its RLX word when it is marked (R58). -/
def Thread.rewind (t : Thread) : Thread :=
  { t with r.pc := t.reportPc, is.rlx := false, is.delivered := none, is.sent := false, w.acc := {} }

/-! Ending a slot, units and gangs. -/

/-- Every unit a slot holds becomes free (R96, R227). -/
def Units.release (u : Units) (slot : Nat) : Units := { u with hold := u.hold.filter (fun p => p.2 ≠ slot + 1) }

/-- The units a slot holds, as a mask of unit codes (R227). -/
def Units.held (u : Units) (slot : Nat) : Nat :=
  ((u.hold.filter (fun p => p.2 = slot + 1)).map (fun p => 2 ^ p.1)).foldl (· + ·) 0

/-- The thread keys of a gang: the aligned group of n cores of the torus row, same slot (R247). -/
def gangMembers (k n : Nat) : List Nat :=
  let c := coreOf k
  let base := c - c % 8 + (c % 8 / n) * n
  (List.range n).map (fun i => 16 * (base + i) + slotOf k)

/-- A member of a gang that parked with another's page fault, and has no request of its own, goes on when its gang disbands. -/
def State.ungang (s : State) (m : Nat) (t : Thread) : Thread :=
  match t.w.park with
  | .pageFault r _ =>
    if t.st = .parked && !(s.region r).faults.any (fun q => q.task = t.id.task && 16 * q.core + q.slot = m) then { t with st := .ready, w.park := .none } else t
  | _ => t

/-- The gang of a thread disbands: every member fetches from its own PC (R250), once its own queued bank requests have met (R184). A joint
command that some member has not issued starts in none (R249). -/
def State.disbandGang (s : State) (k : Nat) : State :=
  let n := (s.getT k).en.gangN
  let l := (s.getT k).en.leader
  if n = 0 then s
  else (gangMembers k n).foldl (fun s m =>
    if (s.getT m).en.gangN = n ∧ (s.getT m).en.leader = l then
      (s.updT m (fun t =>
        let t := if m = k then t else s.ungang m t
        { t with en.gangN := 0, en.leader := 0, is.delivered := none, is.sent := false, is.ibuf := [], is.settling := true })).updCore (coreOf m) (fun c =>
        { c with u.intake := c.u.intake.filter (fun q => q.ready || q.who ≠ m) })
    else s) s

/-! Interrupts and trigger lines. -/

/-- An MSI-X vector of a function is raised; one already pending is not raised again (R423). Function 32 is the PF. -/
def State.raise (s : State) (fn vec : Nat) : State := { s with pkg.msix := SMap.set false s.pkg.msix (64 * fn + vec) true }

/-- The logical number of a physical region in a VF's table (R411). -/
def State.logicalOf (s : State) (v r : Nat) : Option Nat :=
  (List.range 32).find? (fun n =>
    let e := (SMap.get 0 (s.vf v).regtab n).toNat
    e / 128 = 1 ∧ e / 64 % 2 = 0 ∧ e % 32 = r)

/-- Whether a VF is enabled (R426, R437): regions are assigned to it, and no package image has been refused. -/
def State.vfEnabled (s : State) (v : Nat) : Bool :=
  s.regions.any (fun p => p.2.own.assigned && p.2.own.vf = v) && (s.pkg.fwReady || s.pkg.fwFail = 0)

/-- Whether a region answers in the window that its owner has for it (R427): the VF is enabled, owns it and names it in an own entry. -/
def State.answersVf (s : State) (v r : Nat) : Bool :=
  s.vfEnabled v && (s.region r).own.assigned && decide ((s.region r).own.vf = v) && (s.logicalOf v r).isSome && decide (r < Config.regions s.pkg.partC)

/-- A region cause rises: 0 RESETDONE, 1 RESETFAIL, 2 LOG, 3 CUT (R423). -/
def State.cause (s : State) (r bit : Nat) : State :=
  let g := s.region r
  if g.rgint.getLsbD bit then s
  else
    let s := s.setRegion r { g with rgint := g.rgint ||| (1#4 <<< bit) }
    let s := match s.logicalOf g.own.vf r with
      | some n => if g.own.assigned then s.raise g.own.vf n else s
      | none => s
    s.raise 32 (32 + r)

/-- A black-box record is written (R425): the reference count has run on since the last one. -/
def State.blackBox (s : State) (r kind arg : Nat) (data task : Word) : State :=
  let now := s.pkg.refTime + BitVec.ofNat 64 (Config.elapsed s.pkg.refNo)
  let s := { s with pkg.refTime := now, pkg.refNo := s.pkg.refNo + 1 }
  s.updRegion r (fun g =>
    { g with
      box := SMap.set {} g.box (g.bbcnt.toNat % 128)
        { time := now, kind := kind, arg := arg,
          cycle := if 4 ≤ g.own.phase ∧ g.own.phase ≤ 6 then 0 else BitVec.ofNat 32 g.clock, data := data, task := task },
      bbcnt := g.bbcnt + 1 })

/-- Whether a source selects a line: kind and argument of TRIGSEL, with the region of the die for kinds 2 to 4 (Table 23-3). -/
def trigMatches (w : Word) (kind arg rgn : Nat) : Bool :=
  w.getLsbD 63 && (w.toNat % 256 = kind) &&
  (if kind = 2 then (w.toNat / 256 % 256 = arg || w.toNat / 256 % 256 = 0) && w.toNat / 2 ^ 16 % 4 = rgn
   else if kind = 3 then w.toNat / 2 ^ 16 % 4 = rgn
   else if kind = 4 then w.toNat / 256 % 256 = arg && w.toNat / 2 ^ 16 % 4 = rgn
   else if kind = 5 then true
   else w.toNat / 256 % 256 = arg)

/-- Cycles in 64 ns at a frequency code, rounded up, with the cycle that begins after it (R443). -/
def pulseDelay (fcur : Nat) : Nat := (64 * (350 + 25 * fcur) + 999) / 1000

/-- A pulse on a line of a die: it is noted for every region that takes the line as a sink (R442, R443). -/
def State.pulse (s : State) (die line : Nat) : State :=
  let dies := if 56 ≤ line then List.range (Config.dies s.pkg.partC) else [die]
  let s := if 60 ≤ line then { s with pkg.trigout := SMap.set 0 s.pkg.trigout (line - 60) (SMap.get 0 s.pkg.trigout (line - 60) + 1) } else s
  dies.foldl (fun s d => (List.range 4).foldl (fun s i =>
    s.updRegion (4 * d + i) (fun g =>
      if g.proftrig = 0 then g else { g with pulses := g.pulses ++ [(line, g.clock + pulseDelay g.clk.fcur)] })) s) s

/-- An event fires its trigger source on the lines of some dies: kind, argument and region within the die (R442). For a shared line the copy in die
0 governs, and it pulses once. -/
def State.fireOn (s : State) (on : Nat → Bool) (kind arg rgn : Nat) : State :=
  s.pkg.trigsel.foldl (fun s p =>
    let d := p.1 / 64
    let l := p.1 % 64
    if (if l < 56 then on d = true else d = 0) ∧ trigMatches p.2 kind arg rgn then s.pulse d l else s) s

/-- An event fires a trigger source on a die (R442). -/
def State.fire (s : State) (die kind arg rgn : Nat) : State := s.fireOn (fun d => d = die) kind arg rgn

/-! Fault packets and freezing (R385, R386). -/

/-- A fault packet goes to the region supervisor, or is held while its mailbox is full (R386). -/
def State.sendPacket (s : State) (p : Packet) : State :=
  let r := regionOf p.core
  let g := s.region r
  if g.mailbox.length < 256 ∧ (s.core p.core).held = [] then s.setRegion r { g with mailbox := g.mailbox ++ [p] }
  else (s.updCore p.core (fun c => { c with held := c.held ++ [p] })).blackBox r 11 0 0 p.task

/-- The task a slot's packets name: in a speculation group the owner's (R333). -/
def State.groupTask (s : State) (k : Nat) : Word :=
  let t := s.getT k
  if t.sp.role = .none then t.id.task else (s.getT t.sp.owner).id.task

/-- A group slot that loses its iteration: registers, flags, entries and held trap are dropped (R320). -/
def Thread.squashed (t : Thread) : Thread :=
  { t with st := .parked, r := {}, is := { lastIss := t.is.lastIss, gap := t.is.gap }, w := { park := .specIdle },
           sp := { owner := t.sp.owner, role := .slot }, en := {} }

/-- The position of a group slot's iteration in its window: its distance from the oldest possible iteration. -/
def SpecRole.pos (w : Nat) : SpecRole → Option Nat
  | .none => .none
  | .slot => .none
  | .guess m => some m
  | .iter j => some (j - w)

/-- A key that is no slot's: what a squashed iteration had queued belongs to it. -/
def nobody : Nat := 2 ^ 17

/-- The task of an access whose thread has given it up. -/
def lostTask : Word := 0xFFFFFFFFFFFFFFFF#64

/-- What a squashed iteration or an ended guess routine has queued goes on for nobody: its commands complete into registers that vanish, and
what its accesses read is dropped; each still takes its meeting (R161, R209, R223, R318, R320). -/
def Core.forget (c : Core) (k : Nat) : Core :=
  let unit := fun (q : UnitCmd) => if q.who = k then { q with who := nobody, regs := [] } else q
  let lost := fun (q : RelReq) => if q.who = k then { q with task := lostTask } else q
  { c with
    u.vcq := c.u.vcq.map unit
    u.sfq := c.u.sfq.map unit
    u.intake := c.u.intake.map (fun q => if q.who = k then { q with who := nobody } else q)
    seq := c.seq.map lost
    wheel := c.wheel.map lost
    far := c.far.map lost
    mem := c.mem.map lost }

/-- A slot's iteration is squashed: nothing of it stays behind (R320). -/
def State.squash (s : State) (k : Nat) : State := (s.updT k Thread.squashed).updCore (coreOf k) (fun c => c.forget k)

/-- The iterations of an owner's window from a position on are squashed (R320). The count of squashes is the owner's. -/
def State.squashFrom (s : State) (owner pos : Nat) : State :=
  let o := s.getT owner
  o.sp.slots.foldl (fun s k =>
    match (s.getT k).sp.role.pos o.sp.winW with
    | some m =>
      if pos ≤ m then (s.squash k).updT owner (fun o => { o with sp.squashes := o.sp.squashes + 1 }) else s
    | none => s) s

/-- A thread stops on a trap: its slot is FROZEN, or, in a save, the context that is being saved is (R385, R394). -/
def Thread.froze (t : Thread) : Thread :=
  { t with
    st := if t.st = .saving then .saving else .frozen
    w := t.w.over
    is.stepping := false
    is.stepped := false
    en.save := if t.st = .saving then t.en.save.map (fun j => { j with frozen := true }) else t.en.save }

/-- SLOTDBG.LASTCODE of a slot (Table 19-5). -/
def State.lastCode (s : State) (k : Nat) : BitVec 8 := SMap.get 0 (s.core (coreOf k)).lastCode (slotOf k)
def State.setLastCode (s : State) (k : Nat) (code : BitVec 8) : State :=
  s.updCore (coreOf k) (fun c => { c with lastCode := SMap.set 0 c.lastCode (slotOf k) code })

/-- SLOTDBG.STEP of a slot (R390). -/
def State.stepBit (s : State) (k : Nat) : Bool := SMap.get false (s.core (coreOf k)).steps (slotOf k)

/-- A slot freezes with a trap: its packet reports `pc`, ADDR and INFO (R385); the gang disbands (R250); an iteration's younger
siblings are squashed (R333). -/
def State.freeze (s : State) (k : Nat) (code : BitVec 8) (addr info pc : Word) (deferred step : Bool) (report : List Byte) : State :=
  let t := s.getT k
  let task := s.groupTask k
  let spec := t.sp.role ≠ .none
  let s := if spec then
      match t.sp.role.pos (s.getT t.sp.owner).sp.winW with
      | some m => s.squashFrom t.sp.owner (m + 1)
      | none => s
    else s
  let s := s.disbandGang k
  let s := (s.updT k Thread.froze).setLastCode k code
  let s := s.fire (regionOf (coreOf k) / 4) 2 code.toNat (regionOf (coreOf k) % 4)
  s.sendPacket { task := task, addr := addr, pc := pc.setWidth 32, core := coreOf k, slot := slotOf k, deferred := deferred, step := step,
                 frame := t.r.rep.act, specSlot := spec, code := code, info := info, report := report }

/-- Whether the current thread is the oldest iteration of its group, or no iteration (R320). -/
def State.isOldest (s : State) (k : Nat) : Bool :=
  let t := s.getT k
  match t.sp.role with
  | .iter j =>
    let o := s.getT t.sp.owner
    decide (j = o.sp.winW + o.sp.winA)
  | .guess _ => false
  | .slot => false
  | .none => true

/-- Taking a trap at the current instruction (R385): nothing of the instruction remains, the slot is FROZEN with its PC at the
word, or at its RLX word. In an iteration that is not the oldest the trap is held (R332); in a guess routine it ends the routine
without a guess (R318). -/
def State.takeTrap (s : State) (code : BitVec 8) (addr info : Word) : State :=
  let s := { s with th := s.th.rewind }
  match s.th.sp.role with
  | .guess _ => { s with th.st := .parked, th.w.park := .specIdle, th.sp.noGuess := true }
  | .iter _ =>
    if s.isOldest s.cur then s.freeze s.cur code addr info s.th.r.pc false false []
    else { s with th.st := .parked, th.w.park := .specTrap, th.w.since := s.clockAt s.coreNo, th.sp.held := some (code, addr, info) }
  | _ => s.freeze s.cur code addr info s.th.r.pc false false []

def Thread.isIter (t : Thread) : Bool :=
  match t.sp.role with
  | .iter _ => true
  | _ => false

def Thread.isGuess (t : Thread) : Bool :=
  match t.sp.role with
  | .guess _ => true
  | _ => false

/-- Whether the current instruction is performed relaxed: it is marked, and its thread is no iteration (R155, R323) and no guess routine, whose
carry must not depend on timing (R318). -/
def State.relaxed (s : State) : Bool := s.th.is.rlx && !s.th.isIter && !s.th.isGuess

/-- A deferred trap joins a thread's list (R384). -/
def State.defer (s : State) (k : Nat) (code : BitVec 8) (pc ptr : Word) : State :=
  s.updT k (fun t => { t with is.deferred := t.is.deferred ++ [{ code := code, pc := pc, ptr := ptr }] })

/-- Whether an instruction that parks on a cause keeps what its memory operations have given. -/
def Park.keepsAccess : Park → Bool
  | .access => true
  | .replay _ => true
  | _ => false

/-- The current thread parks; its instruction is issued again on release, marked as it was, or completed by the releasing event. One that
was only tried again keeps its parking cycle (`Thread.retry`). A slot that is being saved stays SAVING. -/
def State.parkAt (s : State) (p : Park) : State :=
  { s with
    th.st := if s.th.st = .saving then .saving else .parked
    th.w := { s.th.w with
      park := p
      since := if s.th.w.park = p then s.th.w.since else s.clockAt s.coreNo
      acc := if p.keepsAccess then { s.th.w.acc with word := s.word, pos := 0, redo := false }
        else { word := s.word, held := s.relaxed } } }

/-- The current thread parks after its instruction has retired. -/
def State.parkAfter (s : State) (p : Park) : State :=
  let s := s.retire
  { s with th.st := .parked, th.w.park := p, th.w.since := s.clockAt s.coreNo }

/-- A parked slot becomes READY. -/
def Thread.wake (t : Thread) : Thread := { t with st := .ready, w.park := .none }

/-- A slot parked on a page fault goes on: its instruction is issued again (R122); a relaxed access its port performs itself (Table 05-11). -/
def Thread.unfault (t : Thread) : Thread := if t.w.acc.held then { t with w.park := .relaxed } else t.wake

def State.wakeT (s : State) (k : Nat) : State := s.updT k Thread.wake

/-- A parked slot tries its instruction again; should it park on the same cause, its parking cycle stays (MODEL). -/
def Thread.retry (t : Thread) : Thread := { t with st := .ready }

/-- Keys of all slots that hold something. -/
def State.threadKeys (s : State) : List Nat := s.cur :: (s.threads.map (fun p => p.1)).filter (fun k => k ≠ s.cur)

/-- What a stop does to the current thread. -/
def State.takeStop (s : State) : Stop → State
  | .trap code addr info => s.takeTrap code addr info
  | .park p => s.parkAt p
  | .diverge object report =>
    let s := { s with th := s.th.rewind }
    s.freeze s.cur tDiverge object 0 s.th.r.pc false false report

/-- The outcome of a computation: a next state, whether it retires, traps or parks. A replay wait leaves nothing of what came before
it in the instruction (R349); a park on a strong access leaves its requests queued and the registers as they were. -/
def finish (m : M Unit) (s : State) : Host.Outcome State Fault Refusal :=
  match m.run s with
  | (.ok _, s') => .next s'
  | (.error (.park (.replay r)), _) => .next (s.parkAt (.replay r))
  | (.error (.park .access), s') => .next ({ s' with th.r := s.th.r }.parkAt .access)
  | (.error e, s') => .next (s'.takeStop e)

def trap {α : Type} (code : BitVec 8) (addr : Word) : M α := throw (.trap code addr 0)
/-- ILLEGAL: ADDR is the word as fetched (R57). -/
def illegal {α : Type} : M α := do
  let s ← get
  throw (.trap tIllegal (s.word.setWidth 64) 0)
def privileged {α : Type} : M α := do
  let s ← get
  throw (.trap tPrivileged (s.word.setWidth 64) 0)
/-- FORMAT: ADDR is the pointer, INFO the code used (Table 19-1). -/
def formatTrap {α : Type} (p : Word) (code : BitVec 6) : M α := throw (.trap tFormat p (code.setWidth 64))
def parkM {α : Type} (p : Park) : M α := throw (.park p)
/-- A check of the instruction's own operands (R56, step 5). -/
def need (c : Bool) : M Unit := if c then pure () else illegal
/-- The privilege check (R56, step 4). -/
def needPriv : M Unit := do
  let s ← get
  if s.th.id.priv then pure () else privileged
/-- The form is not allowed in slot 15. -/
def notHandler : M Unit := do
  let s ← get
  if s.slotNo = 15 then illegal else pure ()
def retireM : M Unit := modify State.retire
def getS (n : BitVec 5) : M Word := do return (← get).rdS n
def setS (n : BitVec 5) (v : Word) : M Unit := modify (fun s => s.wrS n v)
def getV (n : BitVec 5) : M VReg := do return (← get).rdV n
def setV (n : BitVec 5) (v : VReg) : M Unit := modify (fun s => s.wrV n v)
def orFlagsM (f : BitVec 4) : M Unit := modify (fun s => s.orFlags f)

/-- The outcome of an instruction that writes one scalar register. -/
def writesS (d : BitVec 5) (v : Word) (s : State) : Host.Outcome State Fault Refusal := .next (s.wrS d v).retire

end Sys2Proof.Machine
end

