-- ==== Sys2Proof/Machine/Memory.lean ====
section
/-! DEFINITION. Memory: the one key space of all the package's memories, little-endian access, poison, segments (05, R104 to R110),
the check of an access (R106), paging (R118 to R124) and windows (R415). -/

namespace Sys2Proof.Machine

/-! The key space (MODEL): where each memory's bytes lie in `State.mem`. -/

/-- Byte `a` of the local store of core `c` (R129). -/
def lsKey (c a : Nat) : Nat := c * 2 ^ 18 + a
/-- Byte `a` of the bank memory of package cluster `k` (R157). -/
def bankKey (k a : Nat) : Nat := 2 ^ 32 + k * 2 ^ 23 + a
/-- Byte of operand slot `o` of a core, and of its scale table (R225). -/
def opKey (c o a : Nat) : Nat := 2 ^ 33 + c * 2 ^ 16 + o * 8192 + a
def scaleKey (c o row e : Nat) : Nat := 2 ^ 34 + c * 2 ^ 12 + o * 512 + row * 8 + e
/-- First byte of cell (i, j) of an accumulator (R226). -/
def accKey (c a i j : Nat) : Nat := 2 ^ 35 + c * 2 ^ 15 + a * 16384 + 256 * i + 4 * j
/-- Region memory by 40-bit physical address (R119). -/
def hbmKey (pa : Nat) : Nat := 2 ^ 40 + pa
/-- Host memory by 56-bit bus address (R109). -/
def hostKey (a : Nat) : Nat := 2 ^ 56 + a

def isLs (k : Nat) : Bool := k < 2 ^ 31
def isBank (k : Nat) : Bool := 2 ^ 32 ≤ k && k < 2 ^ 33
def isHbm (k : Nat) : Bool := 2 ^ 40 ≤ k && k < 2 ^ 56
def isHost (k : Nat) : Bool := 2 ^ 56 ≤ k

/-- What a byte that nothing has written reads as: zero, as R16 says of SRAM; for region and host memory the model's choice. -/
def memDefault : Byte := 0

def State.byte (s : State) (k : Nat) : Byte := SMap.get memDefault s.mem k
def State.setByte (s : State) (k : Nat) (v : Byte) : State := { s with mem := SMap.set memDefault s.mem k v }

def State.bytes (s : State) (k : Nat) : Nat → List Byte
  | 0 => []
  | n + 1 => s.byte k :: State.bytes s (k + 1) n

def State.setBytes (s : State) (k : Nat) : List Byte → State
  | [] => s
  | b :: r => State.setBytes (s.setByte k b) (k + 1) r

/-- Little-endian value of bytes. -/
def leNat : List Byte → Nat
  | [] => 0
  | b :: r => b.toNat + 256 * leNat r

/-- The low `n` bytes of a number, little-endian. -/
def leBytes : Nat → Nat → List Byte
  | 0, _ => []
  | n + 1, x => BitVec.ofNat 8 x :: leBytes n (x / 256)

def State.readLE (s : State) (k n : Nat) : Nat := leNat (s.bytes k n)
def State.writeLE (s : State) (k n x : Nat) : State := s.setBytes k (leBytes n x)

def Memory.wf (m : SMap Byte) : Bool := SMap.wf memDefault m

/-! Full/empty bits and poison (R133, R138, R178). -/

def State.isFull (s : State) (k : Nat) : Bool := SMap.get false s.full (k / 8)
def State.setFull (s : State) (k : Nat) (f : Bool) : State := { s with full := SMap.set false s.full (k / 8) f }
def State.isPoison (s : State) (k : Nat) : Bool := SMap.get false s.poison (k / 8)
def State.setPoison (s : State) (k : Nat) (f : Bool) : State := { s with poison := SMap.set false s.poison (k / 8) f }

/-- The first poisoned word met by `n` bytes at a key, if any. -/
def State.poisonedAt (s : State) (k n : Nat) : Option Nat :=
  if n = 0 then none
  else ((List.range ((k % 8 + n + 7) / 8)).map (fun i => k - k % 8 + 8 * i)).find? (fun w => s.isPoison w)

/-- Numbers without repeats. -/
def dedup : List Nat → List Nat
  | [] => []
  | x :: r => if r.contains x then dedup r else x :: dedup r

/-- Consecutive bytes as cells. -/
def cellsOf (k : Nat) : List Byte → List Host.Cell
  | [] => []
  | b :: r => (k, b) :: cellsOf (k + 1) r

/-- Bytes laid over located pieces, as cells. -/
def layOver : List (Nat × Nat) → List Byte → List Host.Cell
  | [], _ => []
  | p :: r, b => cellsOf p.1 (b.take p.2) ++ layOver r (b.drop p.2)

/-- The 64-bit words that cells touch. -/
def cellWords (l : List Host.Cell) : List Nat := dedup (l.map (fun c => c.1 - c.1 % 8))

def State.setCells (s : State) (l : List Host.Cell) : State := l.foldl (fun s c => s.setByte c.1 c.2) s

/-- Whether cells cover all eight bytes of a word. -/
def coversWord (l : List Host.Cell) (w : Nat) : Bool := (List.range 8).all (fun i => l.any (fun c => c.1 = w + i))

/-- A write that covers a word replaces it, error and all; another write leaves the error for the next read (R132, R178). -/
def State.clearErrors (s : State) (l : List Host.Cell) : State :=
  if s.upsets = [] then s else { s with upsets := s.upsets.filter (fun p => !coversWord l (8 * p.1)) }

/-- Writing bytes, with the poison rules of R133: a poisoned word covered whole is cleared and becomes empty, and of one covered in
part no byte is written. The flag says that some poisoned word was covered only in part. -/
def State.writeCells (s : State) (l : List Host.Cell) : State × Bool :=
  let s := s.clearErrors l
  if s.poison = [] then (s.setCells l, false)
  else
    let bad := (cellWords l).filter (fun w => s.isPoison w)
    let whole := bad.filter (fun w => coversWord l w)
    let part := bad.filter (fun w => !coversWord l w)
    let s1 := whole.foldl (fun s w => (s.setPoison w false).setFull w false) s
    (s1.setCells (l.filter (fun c => !part.contains (c.1 - c.1 % 8))), part ≠ [])

/-! Segments (05, Table 05-2). -/

def segBase (g : BitVec 256) : Nat := (g.extractLsb' 0 56).toNat
def segLimit (g : BitVec 256) : Nat := (g.extractLsb' 64 48).toNat
def segSpace (g : BitVec 256) : Nat := (g.extractLsb' 112 4).toNat
def segRights (g : BitVec 256) : Nat := (g.extractLsb' 116 6).toNat
def segScale (g : BitVec 256) : Nat := (g.extractLsb' 128 56).toNat
def segCore (g : BitVec 256) : Nat := (g.extractLsb' 192 8).toNat
def segLregion (g : BitVec 256) : Nat := (g.extractLsb' 200 5).toNat
def segCluster (g : BitVec 256) : Nat := (g.extractLsb' 208 2).toNat
def segWindow (g : BitVec 256) : Nat := (g.extractLsb' 210 2).toNat

/-- A descriptor from its fields. -/
def segMake (base limit space rights scale core lregion cluster window : Nat) : BitVec 256 :=
  BitVec.ofNat 256 (base + limit * 2 ^ 64 + space * 2 ^ 112 + rights * 2 ^ 116 + scale * 2 ^ 128 + core * 2 ^ 192 +
    lregion * 2 ^ 200 + cluster * 2 ^ 208 + window * 2 ^ 210)

def rR : Nat := 32
def rW : Nat := 16
def rX : Nat := 8
def rA : Nat := 4
def rL : Nat := 2
def rS : Nat := 1

/-- The active banks of a cluster (R157, R176). -/
def Cluster.n (c : Cluster) : Nat := 64 - c.retired.length
/-- bankmap: the active banks in increasing physical order (R158, R176). -/
def Cluster.bankmap (c : Cluster) : List Nat := (List.range 64).filter (fun b => !c.retired.contains b)

/-! Memory errors (R132, R178). -/

/-- LSERR or BKERR with one more corrected or uncorrectable error: its count saturates, and SAT is set once it has. -/
def countError (w : Word) (ue : Bool) : Word :=
  let sh := if ue then 16 else 0
  let old := w.toNat / 2 ^ sh % 2 ^ 16
  let new := min 0xFFFF (old + 1)
  BitVec.ofNat 64 (w.toNat - old * 2 ^ sh + new * 2 ^ sh) ||| (if new = 0xFFFF then 0x8000000000000000#64 else 0)

/-- An error of the word at a key counted in the LSERR of its core or the BKERR of its group; an uncorrectable word leaves its place there
and a black-box record (R425, Table 21-6). -/
def State.countErrorAt (s : State) (task : Word) (w : Nat) (ue : Bool) : State :=
  if isLs w then
    let c := w / 2 ^ 18
    let e := countError (s.core c).lserr ue
    if ue then
      let e := (e &&& 0xFFFF8000FFFFFFFF#64) ||| BitVec.ofNat 64 (w % 2 ^ 18 / 8 * 2 ^ 32)
      (s.updCore c (fun x => { x with lserr := e })).blackBox (regionOf c) 8 0 e task
    else s.updCore c (fun x => { x with lserr := e })
  else
    let k := (w - 2 ^ 32) / 2 ^ 23
    let a := (w - 2 ^ 32) % 2 ^ 23
    let x := s.cluster k
    let e := countError x.bkerr ue
    if ue then
      let bank := (x.bankmap.drop (a / 32 % x.n)).headD 0
      let e := (e &&& 0xFFF00000FFFFFFFF#64) |||
        BitVec.ofNat 64 (bank * 2 ^ 46 + a / 32 / x.n * 2 ^ 34 + a / 8 % 4 * 2 ^ 32)
      (s.setCluster k { x with bkerr := e }).blackBox (k / 4) 8 0 e task
    else s.setCluster k { x with bkerr := e }

/-- A read meets the error of a word: a single-bit error is corrected, an uncorrectable one poisons the word; both are counted. -/
def State.readWord (task : Word) (s : State) (w : Nat) : State :=
  match SMap.get 0 s.upsets (w / 8) with
  | 0 => s
  | n + 1 =>
    let s := { s with upsets := SMap.set 0 s.upsets (w / 8) 0 }
    let s := s.countErrorAt task w (n ≠ 0)
    if n ≠ 0 then s.setPoison w true else s

/-- A read of ranges meets the errors of the words in them (R132, R178). -/
def State.readErrors (s : State) (task : Word) (l : List (Nat × Nat)) : State :=
  if s.upsets = [] then s
  else (dedup (l.flatMap (fun p => if p.2 = 0 then [] else
    (List.range ((p.1 % 8 + p.2 + 7) / 8)).map (fun i => p.1 - p.1 % 8 + 8 * i)))).foldl (State.readWord task) s

/-- A VF's region-table entry: physical region and whether it is foreign, if valid and its region exists (R5, R411). -/
def State.regEntry (s : State) (v l : Nat) : Option (Nat × Bool) :=
  let e := (SMap.get 0 (s.vf v).regtab l).toNat
  if e / 128 = 1 ∧ e % 32 < Config.regions s.pkg.partC then some (e % 32, e / 64 % 2 = 1) else none

/-- The end of a window's range: DVA of its first byte plus its pages (R414). -/
def Win.limit (w : Win) : Nat := w.w0.toNat / 2 ^ 16 % 2 ^ 40 * 2 ^ 16 + 2 ^ 16 * (w.w1.toNat % 2 ^ 32)

/-- The extent of a space (Table 05-3); `own` is the cluster of the core, `v` the VF whose LREGION entry names a window's region. -/
def State.extent (s : State) (own v : Nat) (g : BitVec 256) : Nat :=
  match segSpace g with
  | 0 => 196608
  | 1 => (s.cluster own).n * 131072
  | 2 => (s.cluster (own - own % 4 + segCluster g)).n * 131072
  | 4 => match s.regEntry v (segLregion g) with
    | some (r, _) => min (2 ^ 56) (SMap.get {} (s.region r).win (segWindow g)).limit
    | none => 2 ^ 56
  | 5 => 196608
  | _ => 2 ^ 56

/-- Whether a descriptor is valid (R109). -/
def State.segValid (s : State) (own v : Nat) (g : BitVec 256) : Bool :=
  let sp := segSpace g
  decide (sp ≤ 6) &&
  decide (g = segMake (segBase g) (segLimit g) sp (segRights g) (segScale g)
    (if sp = 5 then segCore g else 0) (if sp = 4 ∨ sp = 5 then segLregion g else 0)
    (if sp = 2 then segCluster g else 0) (if sp = 4 then segWindow g else 0)) &&
  decide (segBase g % 128 = 0) && decide (segBase g + segLimit g ≤ s.extent own v g)

/-- The fields of a fat pointer (Table 05-1). -/
def ptrFmt (p : Word) : BitVec 6 := p.extractLsb' 58 6
def ptrBl (p : Word) : Nat := (p.extractLsb' 55 3).toNat
def ptrSeg (p : Word) : Nat := (p.extractLsb' 52 3).toNat
def ptrOff (p : Word) : Nat := (p.extractLsb' 0 52).toNat
/-- A pointer with OFFSET replaced by eo[51:0] (R106). -/
def ptrWith (p : Word) (eo : Int) : Word := (p &&& 0xFFF0000000000000#64) ||| (BitVec.ofInt 52 eo).setWidth 64

/-- A checked access: its segment, its effective offset, and the pointer its packets carry. -/
structure Loc where
  seg : BitVec 256
  eo : Nat
  ptr : Word
deriving DecidableEq, Repr

/-- Whether the LREGION entry a segment names can be used by its space (R411). -/
def State.lregionOk (s : State) (v : Nat) (g : BitVec 256) : Bool :=
  match segSpace g with
  | 4 => (s.regEntry v (segLregion g)).isSome
  | 5 => match s.regEntry v (segLregion g) with
    | some (_, foreign) => !foreign
    | none => false
  | _ => true

/-- The limit check of R106 and R159. -/
def State.limitOk (s : State) (own : Nat) (g : BitVec 256) (eo : Int) (n : Nat) : Bool :=
  decide (0 ≤ eo) && decide (eo + n ≤ segLimit g) &&
  (if segSpace g = 1 ∨ segSpace g = 2 then decide (segBase g + eo + n ≤ s.extent own 0 g) else true)

/-- The checks of R106 from SEG_RIGHTS on, with segments given: code of the first that fails. -/
def State.checkSeg (s : State) (own v : Nat) (g : BitVec 256) (eo : Int) (n align rights : Nat) (spaceOk : Bool) : Option (BitVec 8) :=
  if segRights g &&& rights ≠ rights ∨ spaceOk = false ∨ s.lregionOk v g = false then some tSegRights
  else if s.limitOk own g eo n = false then some tSegLimit
  else if eo % align ≠ 0 then some tMisalign
  else none

/-- The spaces an access accepts. -/
def anySpace (sp : Nat) : Bool := sp ≤ 4 || sp = 6
def only0 (sp : Nat) : Bool := sp = 0
def only12 (sp : Nat) : Bool := sp = 1 || sp = 2
def only012 (sp : Nat) : Bool := sp ≤ 2
def only5 (sp : Nat) : Bool := sp = 5

/-- The check of an access of `n` bytes through the pointer `p` (R106), made at issue: an instruction that goes on after its access has
been performed is not checked again. -/
def check (p : Word) (disp : Int) (n align rights : Nat) (space : Nat → Bool) : M Loc := do
  let s ← get
  let g := s.th.r.rdG (ptrSeg p)
  let eo : Int := ptrOff p + disp
  if s.th.w.acc.pos < s.th.w.acc.jrn.length ∨ (s.th.w.acc.redo && s.th.w.acc.held) then return { seg := g, eo := eo.toNat, ptr := ptrWith p eo }
  else match s.checkSeg s.clusterNo (taskVf s.th.id.task) g eo n align rights (space (segSpace g)) with
  | some code => trap code (ptrWith p eo)
  | none => return { seg := g, eo := eo.toNat, ptr := ptrWith p eo }

/-! Paging (R118 to R124). -/

/-- What a translation finds. -/
inductive TRes where
  | ok (pa : Nat)
  | fault
  | fatal
  /-- The page lies in a region in reset (R418). -/
  | gone
  /-- The page lies in a region that has changed its owner since its entry was cached (R119, R412). -/
  | refused
deriving DecidableEq, Repr

/-- What a walk finds: a leaf with its page shift, page address, W, D, REM and the key of its entry. -/
inductive WRes where
  | leaf (shift pa : Nat) (w d rem : Bool) (pte : Nat)
  | fault
  | fatal
deriving DecidableEq, Repr

def bit (x i : Nat) : Bool := x / 2 ^ i % 2 = 1

/-- The levels of a walk: level, lowest DVA bit, index bits (Table 05-8). -/
def walkLevels : List (Nat × Nat × Nat) := [(0, 46, 10), (1, 31, 15), (2, 21, 10), (3, 16, 5)]

/-- Whether a valid entry is in one of the fatal cases of R119. -/
def State.pteFatal (s : State) (r level shift e : Nat) : Bool :=
  let leaf := bit e 1
  let region := e / 2 ^ 35 % 32
  e / 2 ^ 40 % 2 ^ 16 ≠ 0 || e / 2 ^ 6 % 4 ≠ 0 || (level = 0 && leaf) || (level = 3 && !leaf) ||
  (leaf && (e % 2 ^ shift / 2 ^ 8 ≠ 0 ||
    (!bit e 5 && region ≠ r) ||
    (bit e 5 && !((s.region region).own.assigned && (s.region region).own.vf = (s.region r).own.vf))))

/-- A walk from a table at physical address `table` (R118, R119, R121). `setA` is false for PROBE. -/
def State.walk (s : State) (r dva : Nat) (setA : Bool) : List (Nat × Nat × Nat) → Nat → State × WRes
  | [], _ => (s, .fatal)
  | (level, shift, bits) :: rest, table =>
    let k := hbmKey (table + 8 * (dva / 2 ^ shift % 2 ^ bits))
    let e := s.readLE k 8
    if !bit e 0 then (s, .fault)
    else
      let s' := if setA && !bit e 3 then s.setByte k (s.byte k ||| 8) else s
      if s.pteFatal r level shift e then (s', .fatal)
      else if bit e 1 then (s', .leaf shift (e / 2 ^ 16 % 2 ^ 24 * 2 ^ 16) (bit e 2) (bit e 4) (bit e 5) k)
      else State.walk s' r dva setA rest (e / 2 ^ 8 % 2 ^ 32 * 2 ^ 8)

/-- The dirty-bitmap bit of a physical page is set in its home region, by the write that sets D (R121). -/
def State.markDirty (s : State) (pa : Nat) : State :=
  let d := (s.region (pa / 2 ^ 35 % 32)).dirtyctl.toNat
  if d % 2 = 1 then
    let i := pa / 2 ^ 16 % 2 ^ 19
    let k := hbmKey (d / 2 ^ 16 % 2 ^ 24 * 2 ^ 16 + i / 8)
    s.setByte k (s.byte k ||| (1#8 <<< (i % 8)))
  else s

/-- A leaf entered in the translation cache (R120). DESIGN CHOICE (log 42): of a full cache the leaf entered first leaves. -/
def State.cacheLeaf (s : State) (r : Nat) (e : TEntry) : State :=
  s.updRegion r (fun g =>
    let l := g.tcache.filter (fun x => !(x.base = e.base && x.shift = e.shift))
    { g with tcache := (if l.length < 4096 then l else l.drop 1) ++ [e] })

/-- The translation of a DVA in a region by a fresh walk. -/
def State.translateWalk (s : State) (r dva : Nat) (write : Bool) : State × TRes :=
  let root := (s.region r).ptroot.toNat
  match s.walk r dva true walkLevels (root / 2 ^ 13 % 2 ^ 27 * 2 ^ 13) with
  | (s, .fault) => (s, .fault)
  | (s, .fatal) => (s, .fatal)
  | (s, .leaf shift page w d rem k) =>
    if write && !w then (s, .fault)
    else
      let pa := page + dva % 2 ^ shift
      let s := if write && !d then (s.setByte k (s.byte k ||| 16)).markDirty pa else s
      (s.cacheLeaf r { base := dva / 2 ^ shift * 2 ^ shift, shift := shift, pa := page, w := w, d := d || write, rem := rem, pte := k }, .ok pa)

/-- The translation of a DVA in a region, for a read or a write (R118 to R121). -/
def State.translate (s : State) (r dva : Nat) (write : Bool) : State × TRes :=
  let g := s.region r
  if !g.ptroot.getLsbD 0 then (s, .fatal)
  else
    let res : State × TRes :=
      match g.tcache.find? (fun e => decide (e.base = dva / 2 ^ e.shift * 2 ^ e.shift)) with
      | some e =>
        let pa := e.pa + dva % 2 ^ e.shift
        if !write then (s, .ok pa)
        else if !e.w then (s, .fault)
        else if e.d then (s, .ok pa)
        else
          let pte := s.readLE e.pte 8
          if bit pte 0 && bit pte 2 then
            (((s.setByte e.pte (s.byte e.pte ||| 16)).markDirty pa).cacheLeaf r { e with d := true }, .ok pa)
          else (s.setRegion r { g with tcache := g.tcache.filter (fun x => x ≠ e) }).translateWalk r dva write
      | none => s.translateWalk r dva write
    match res with
    | (s, .ok pa) =>
      let q := pa / 2 ^ 35 % 32
      if q ≠ r ∧ (s.region q).own.phase ≠ 0 then (s, .gone)
      else if q ≠ r ∧ ¬((s.region q).own.assigned = true ∧ (s.region q).own.vf = g.own.vf) then (s, .refused)
      else (s, .ok pa)
    | x => x

/-- The cached leaf of a region that covers a DVA. -/
def State.cached (s : State) (r dva : Nat) : Option TEntry :=
  (s.region r).tcache.find? (fun e => decide (e.base = dva / 2 ^ e.shift * 2 ^ e.shift))

/-- The write that sets D in a leaf marks every 64 KiB page that it writes through the leaf (R121): `s0` is the state before its translation, and
the list holds the DVAs of what it writes. -/
def State.markSpan (s s0 : State) (r : Nat) (dvas : List Nat) : State :=
  dvas.foldl (fun s a =>
    match s.cached r a with
    | some e =>
      if e.d && !(match s0.cached r a with
        | some x => x.d
        | none => bit (s0.readLE e.pte 8) 4) then s.markDirty (e.pa + a % 2 ^ e.shift)
      else s
    | none => s) s

/-- A page-fault request is sent to a region's supervisor (R122). -/
def State.requestPage (s : State) (r : Nat) (q : FaultReq) : State :=
  s.updRegion r (fun g => { g with faults := g.faults ++ [q] })

/-- A page fault of a gang member parks every member that is READY, to issue the word again on the wake (Table 05-11). DEDUCED (log 25): one that has
retired it already issues it a second time. -/
def State.parkGang (s : State) (r dva : Nat) : State :=
  let n := s.th.en.gangN
  let l := s.th.en.leader
  if n = 0 then s
  else
    let again := fun (m : Nat) (t : Thread) =>
      if m = l then { t with is.sent := true, is.ibuf := [] } else { t with is.delivered := some s.word }
    ((gangMembers s.cur n).filter (fun m => m ≠ s.cur && (s.getT m).st = .ready)).foldl (fun s m =>
      s.updT m (fun t => again m { t with
        st := .parked, w := { t.w with park := .pageFault r dva, since := s.clockAt (coreOf m) }
        r := { t.r with pc := s.th.r.pc, rep := s.th.r.rep }, is.rlx := s.th.is.rlx })) s

/-- The members of a gang that parked with a faulting one go on with it (Table 05-11). -/
def State.wakeGang (s : State) (k n r dva : Nat) : State :=
  if n = 0 then s
  else (gangMembers k n).foldl (fun s m =>
    if m ≠ k ∧ (s.getT m).en.gangN = n ∧ (s.getT m).st = .parked ∧ (s.getT m).w.park = .pageFault r dva then s.wakeT m else s) s

/-- A refused access of the current thread (R415): a strong one traps at its PC; a relaxed one is over, its pieces none, and its trap is deferred
(R259, R384). -/
def refuseM (code : BitVec 8) (ptr : Word) : M (List (Nat × Nat)) := do
  let s ← get
  if s.relaxed then do
    set (s.defer s.cur code s.th.reportPc ptr)
    return []
  else trap code ptr

/-- Translation for the current thread: a page fault parks it, the fatal cases trap (R119, R122), and an access that is refused gives its code.
Kind: 0 read, 1 write, 2 atomic. -/
def translateAt (r dva : Nat) (write : Bool) (kind : Nat) : M (Except (BitVec 8) Nat) := do
  let s ← get
  let (s', t) := s.translate r dva write
  set s'
  match t with
  | .ok pa => return .ok (hbmKey pa)
  | .fatal => trap tPageFatal (BitVec.ofNat 64 dva)
  | .gone => return .error tRegionGone
  | .refused => return .error tSegRights
  | .fault =>
    set ((s'.parkGang r dva).requestPage r { task := s.th.id.task, core := s.coreNo, slot := s.slotNo, dva := dva, kind := kind })
    parkM (.pageFault r dva)

/-- The same where a refusal traps at once. -/
def translateM (r dva : Nat) (write : Bool) (kind : Nat) (ptr : Word) : M Nat := do
  match ← translateAt r dva write kind with
  | .ok k => return k
  | .error code => trap code ptr

/-- The window check of R415: refusal code, if any. A region that no VF owns refuses every flit (R410, R412). -/
def State.windowCheck (s : State) (r v w dva n need : Nat) : Option (BitVec 8) :=
  let x := SMap.get {} (s.region r).win w
  let base := x.w0.toNat / 2 ^ 16 % 2 ^ 40 * 2 ^ 16
  let rights := x.w0.toNat / 2 ^ 59 % 8
  let want := (if need &&& rR ≠ 0 then 4 else 0) + (if need &&& rW ≠ 0 then 2 else 0) + (if need &&& rA ≠ 0 then 1 else 0)
  if x.w0.getLsbD 62 then some tRegionGone
  else if !x.w0.getLsbD 63 || x.w0.toNat % 32 ≠ v then some tSegRights
  else if dva < base ∨ x.limit < dva + n then some tSegLimit
  else if rights &&& want ≠ want ∨ (s.region r).own.assigned = false then some tSegRights
  else none

/-- The pieces of `n` bytes at a DVA that lie in one 64 KiB page each. -/
def pagePieces (dva n : Nat) : List (Nat × Nat) :=
  (List.range ((dva % 2 ^ 16 + n + 2 ^ 16 - 1) / 2 ^ 16)).map (fun i =>
    let lo := if i = 0 then dva else dva - dva % 2 ^ 16 + 2 ^ 16 * i
    (lo, min (dva + n) (dva - dva % 2 ^ 16 + 2 ^ 16 * (i + 1)) - lo))

/-- Every piece translated, in order; none when one is refused late. -/
def translatePieces (r : Nat) (write : Bool) (kind : Nat) (ptr : Word) : List (Nat × Nat) → M (List (Nat × Nat))
  | [] => return []
  | (dva, n) :: rest => do
    match ← translateAt r dva write kind with
    | .error code => refuseM code ptr
    | .ok k => do
      let l ← translatePieces r write kind ptr rest
      return if rest ≠ [] ∧ l = [] then [] else (k, n) :: l

/-- The next of the instruction's memory operations that is complete already, if any. -/
def nextGot : M (Option Got) := do
  let s ← get
  match s.th.w.acc.jrn[s.th.w.acc.pos]? with
  | some g => do
    set { s with th.w.acc.pos := s.th.w.acc.pos + 1 }
    return some g
  | none => return none

/-- A memory operation of the instruction is complete: it is kept for the case that the instruction parks on a later one. -/
def keepGot (g : Got) : M Unit :=
  modify (fun s => { s with th.w.acc := { s.th.w.acc with jrn := s.th.w.acc.jrn ++ [g], pos := s.th.w.acc.pos + 1 } })

/-- The pieces of a DVA range translated for the current thread. -/
def translateRange (r : Nat) (write : Bool) (kind : Nat) (ptr : Word) (l : List (Nat × Nat)) : M (List (Nat × Nat)) := do
  let s0 ← get
  let p ← translatePieces r write kind ptr l
  if write then modify (fun s => s.markSpan s0 r (l.map (fun q => q.1)))
  return p

/-- The region whose tables translate a segment's addresses, for spaces 3 and 4. -/
def State.pagedRegion (s : State) (g : BitVec 256) : Option Nat :=
  match segSpace g with
  | 3 => some s.regionNo
  | 4 => (s.regEntry (taskVf s.th.id.task) (segLregion g)).map (fun p => p.1)
  | _ => none

/-- Where a checked access of `n` bytes lies: keys and lengths of its pieces, after translation and the window check. -/
def placeOf (l : Loc) (n rights : Nat) (write : Bool) : M (List (Nat × Nat)) := do
  let s ← get
  let a := segBase l.seg + l.eo
  let kind := if rights &&& rA ≠ 0 then 2 else if write then 1 else 0
  match segSpace l.seg with
  | 0 => return [(lsKey s.coreNo a, n)]
  | 1 => return [(bankKey s.clusterNo a, n)]
  | 2 => return [(bankKey (4 * s.regionNo + segCluster l.seg) a, n)]
  | 3 => translateRange s.regionNo write kind l.ptr (pagePieces a n)
  | 4 =>
    match s.regEntry (taskVf s.th.id.task) (segLregion l.seg) with
    | none => trap tSegRights l.ptr
    | some (r, _) =>
      if (s.region r).own.phase ≠ 0 ∨ (s.region r).own.gate = false then refuseM tRegionGone l.ptr
      else match s.windowCheck r (taskVf s.th.id.task) (segWindow l.seg) a n rights with
        | some code => refuseM code l.ptr
        | none => translateRange r write kind l.ptr (pagePieces a n)
  | _ => return [(hostKey (a % 2 ^ 56), n)]

/-- The same for an instruction, which translates once (R118). -/
def locate (l : Loc) (n rights : Nat) (write : Bool) : M (List (Nat × Nat)) := do
  match ← nextGot with
  | some g => return g.pieces
  | none => do
    let p ← placeOf l n rights write
    keepGot { pieces := p }
    return p

/-- The bytes of located pieces. -/
def State.piecesBytes (s : State) (l : List (Nat × Nat)) : List Byte := l.flatMap (fun p => s.bytes p.1 p.2)

/-- A scale byte's segment offset for a byte offset (R105). -/
def scaleOffset (fmtSize : Nat) (e2m1 : Bool) (bl : Nat) (g : BitVec 256) (o : Nat) : Nat :=
  let i := if e2m1 then 2 * o else o / fmtSize
  segScale g + i / 2 ^ (bl + 2)

/-- CRC-32C of bytes (R342): reflected Castagnoli polynomial, initial and final value all ones. -/
def crcBit : Nat → Nat → Nat
  | 0, c => c
  | n + 1, c => crcBit n (if c % 2 = 1 then (c / 2) ^^^ 0x82F63B78 else c / 2)

def crc32c (l : List Byte) : Word32 :=
  BitVec.ofNat 32 ((l.foldl (fun c b => crcBit 8 (c ^^^ b.toNat)) 0xFFFFFFFF) ^^^ 0xFFFFFFFF)

end Sys2Proof.Machine
end

