-- ==== Sys2Proof/Machine/Log.lean ====
section
/-! DEFINITION. The order log and replay (16): records, the ring in record mode, the replay window, and divergence. -/

namespace Sys2Proof.Machine

/-- An event of the order log (16, Table 16-2). -/
structure Ev where
  kind : Nat
  task : Word
  object : Word
  digest : Word32
  aux : Word32
  wide : Bool := false
  lseg : Bool := false
  async : Bool := false
  remote : Bool := false
  resume : Bool := false
deriving DecidableEq, Repr

/-- The 32 bytes of a record (Table 16-2). -/
def Ev.bytes (e : Ev) (seq : Word32) : List Byte :=
  leBytes 4 seq.toNat ++
  leBytes 4 (e.kind + (if e.lseg then 2 ^ 8 else 0) + (if e.wide then 2 ^ 9 else 0) + (if e.remote then 2 ^ 10 else 0) +
    (if e.async then 2 ^ 11 else 0) + (if e.resume then 2 ^ 12 else 0)) ++
  leBytes 8 e.task.toNat ++ leBytes 8 e.object.toNat ++ leBytes 4 e.digest.toNat ++ leBytes 4 e.aux.toNat

/-- CAP of a ring (R339). -/
def Log.cap (l : Log) : Nat := 2 ^ (l.ring.toNat % 64 - 5)
/-- Free records (R339). -/
def Log.free (l : Log) : Nat := l.cap - (l.head - l.tail).toNat
/-- DVA of record `n` (R339). -/
def Log.recDva (l : Log) (n : Word32) : Nat := l.ring.toNat / 2 ^ 16 % 2 ^ 40 * 2 ^ 16 + 32 * (n.toNat % l.cap)

def State.log (s : State) (r : Nat) : Log := (s.region r).log
def State.setLog (s : State) (r : Nat) (l : Log) : State := s.updRegion r (fun g => { g with log := l })

/-- FULL is set when fewer than 64 records are free: the log interrupt is raised once for each setting (R347). DESIGN CHOICE (log 31): it is kept in
record mode only; in modes 0 and 2 it reads 0, and leaving mode 1 clears it. -/
def State.logFullCheck (s : State) (r : Nat) : State :=
  let l := s.log r
  if l.mode = 1 ∧ l.free < 64 then
    if l.full then s else ((s.setLog r { l with full := true }).cause r 2).fire (r / 4) 3 0 (r % 4)
  else s.setLog r { l with full := false }

/-- LOGSEQ.N counts the kinds of R346 with ASYNC = 0. -/
def Ev.counted (e : Ev) : Bool :=
  !e.async && ((1 ≤ e.kind && e.kind ≤ 5) || (9 ≤ e.kind && e.kind ≤ 12))

def State.countLog (s : State) (k : Nat) (e : Ev) : State :=
  let k := if (s.getT k).sp.role = .none then k else (s.getT k).sp.owner
  if e.counted && s.groupTask k = e.task then s.updT k (fun t => { t with en.logN := t.en.logN + 1 }) else s

/-- A record written in record mode, and whether it was: a write that fails translation switches logging off (R340, R341). -/
def State.writeRecord (s : State) (r : Nat) (e : Ev) : State × Bool :=
  let l := s.log r
  match s.translate r (l.recDva l.head) true with
  | (s, .ok pa) =>
    (((s.setBytes (hbmKey pa) (e.bytes l.head)).setLog r { s.log r with head := l.head + 1 }).logFullCheck r, true)
  | (s, _) => ((s.setLog r { s.log r with mode := 0, lost := true }).cause r 2, false)

/-- The slot reserved for an event of a task whose instruction then traps is written as padding (R344). -/
def State.pad (s : State) (task : Word) (r : Nat) : State :=
  if (s.log r).mode = 1 ∧ (s.log r).free ≠ 0 then (s.writeRecord r { kind := 15, task := task, object := 0, digest := 0, aux := 0 }).1 else s

/-- Record `n` of a replay ring. DESIGN CHOICE (log 31): one whose page does not translate reads as kind 0, which is consumed as padding is. -/
def State.readRecord (s : State) (r : Nat) (n : Word32) : List Byte :=
  match s.translate r ((s.log r).recDva n) false with
  | (s, .ok pa) => s.bytes (hbmKey pa) 32
  | _ => []

def recField (b : List Byte) (off n : Nat) : Nat := leNat ((b.drop off).take n)
def recKind (b : List Byte) : Nat := recField b 4 1
def recTask (b : List Byte) : Word := BitVec.ofNat 64 (recField b 8 8)
def recObject (b : List Byte) : Word := BitVec.ofNat 64 (recField b 16 8)
def recDigest (b : List Byte) : Word32 := BitVec.ofNat 32 (recField b 24 4)
def recAux (b : List Byte) : Word32 := BitVec.ofNat 32 (recField b 28 4)

/-- The stream of a kind: 1 per object, 2 per task, 3 placement, 0 consumed at once (R348). -/
def streamClass (kind : Nat) : Nat :=
  if (1 ≤ kind ∧ kind ≤ 5) ∨ kind = 11 ∨ kind = 12 then 1
  else if kind = 9 ∨ kind = 10 then 2
  else if kind = 6 ∨ kind = 7 ∨ kind = 8 ∨ kind = 13 then 3 else 0

/-- The stream of a class for an object and a task: one per object, or one per task (R348). -/
def streamKey (cls : Nat) (object task : Word) : Nat × Word := (cls, if cls = 1 then object else task)

/-- The stream of a record. -/
def recStream (b : List Byte) : Nat × Word := streamKey (streamClass (recKind b)) (recObject b) (recTask b)

/-- Whether a record is of the stream of a class with this object and task. -/
def inStream (b : List Byte) (cls : Nat) (object task : Word) : Bool :=
  streamClass (recKind b) = cls && (if cls = 1 then recObject b = object else recTask b = task)

/-- The window of up to 4096 records from TAIL (R348). -/
def Log.window (l : Log) : List Nat := List.range (min 4096 (l.head - l.tail).toNat)

/-- The first unconsumed record of a stream in the window: its number and bytes (R348). -/
def State.presented (s : State) (r cls : Nat) (object task : Word) : Option (Word32 × List Byte) :=
  let l := s.log r
  (l.window.filterMap (fun i =>
    let n := l.tail + BitVec.ofNat 32 i
    if l.consumed.contains n.toNat then none
    else
      let b := s.readRecord r n
      if inStream b cls object task then some (n, b) else none)).head?

/-- TAIL advances over the consumed prefix; padding and unwritten kinds are consumed at once (R348). -/
def State.advanceTail (r : Nat) : Nat → State → State
  | 0, s => s
  | n + 1, s =>
    let l := s.log r
    if (l.head - l.tail) = 0 then s
    else if l.consumed.contains l.tail.toNat ∨ streamClass (recKind (s.readRecord r l.tail)) = 0 then
      State.advanceTail r n (s.setLog r { l with tail := l.tail + 1, consumed := l.consumed.filter (fun x => x ≠ l.tail.toNat) })
    else s

/-- TAIL moved over everything that is consumed. -/
def State.settleTail (s : State) (r : Nat) : State := State.advanceTail r ((s.log r).head - (s.log r).tail).toNat s

def State.consume (s : State) (r : Nat) (n : Word32) : State :=
  let l := s.log r
  (s.setLog r { l with consumed := l.consumed ++ [n.toNat] }).settleTail r

/-- What replay says of an event (R349). -/
inductive Verdict where
  | perform (s : State)
  | wait
  | diverge (s : State) (object : Word) (report : List Byte)

/-- Whether a task has ended: it was dispatched, and neither a slot, a saved context nor a migration message holds it. -/
def State.taskEnded (s : State) (task : Word) : Bool :=
  let l := s.launch (taskKey task)
  (l.phase = 4 || l.dispatched.contains (task.toNat % 2 ^ 32)) &&
  !s.threadKeys.any (fun k => (s.getT k).st ≠ .empty && (s.getT k).id.task = task) &&
  !s.regions.any (fun p => p.2.contexts.any (fun c => c.task = task)) && !s.migr.any (fun m => m.thread.id.task = task)

/-- A report whose second half is zero except KIND (R351). -/
def kindReport (b : List Byte) (kind : Nat) : List Byte := b ++ leBytes 4 0 ++ leBytes 4 kind ++ List.replicate 24 0#8

/-- The match of an event against its stream's presented record (R349, R351). -/
def State.replayEvent (s : State) (r : Nat) (e : Ev) : Verdict :=
  match s.presented r (streamClass e.kind) e.object e.task with
  | none => .wait
  | some (n, b) =>
    let stop := fun (s : State) => s.setLog r { s.log r with
      div := true
      stopped := (s.log r).stopped ++ [streamKey (streamClass e.kind) e.object e.task] }
    if (s.log r).stopped.contains (streamKey (streamClass e.kind) e.object e.task) then .wait
    else if recTask b ≠ e.task then
      if s.taskEnded (recTask b) then .diverge (stop s) (recObject b) (kindReport b 0xFE) else .wait
    else if recKind b ≠ e.kind ∨ recDigest b ≠ e.digest ∨ ((e.kind = 9 ∨ e.kind = 10) ∧ recAux b ≠ e.aux) then
      .diverge (stop s) (recObject b) (b ++ e.bytes 0xFFFFFFFF#32)
    else .perform (s.consume r n)

/-- The object of placement records (Table 16-3). -/
def placeObject : Word := 0xB000000000000000#64

/-- The next placement record of a task in a region's replay, while its stream goes on (R348, R351): kind, core, AUX and RESUME. -/
def State.nextPlacement (s : State) (r : Nat) (task : Word) : Option (Nat × Nat × Word32 × Bool) :=
  if (s.log r).mode ≠ 2 ∨ (s.log r).stopped.contains (streamKey 3 placeObject task) then none
  else (s.presented r 3 placeObject task).map (fun p => (recKind p.2, (recDigest p.2).toNat, recAux p.2, recField p.2 5 1 / 16 % 2 = 1))

/-- Whether a thread's task has come to a placement record that moves or saves it: it is held from its next counted event until that has been done
(R350). -/
def State.mustMove (s : State) (k : Nat) : Bool :=
  let k := if (s.getT k).sp.role = .none then k else (s.getT k).sp.owner
  (s.nextPlacement (regionOf (coreOf k)) (s.getT k).id.task).any (fun p => p.1 ≠ 6 && p.2.2.1 = (s.getT k).en.logN)

/-- An event about to be performed by the thread `k` in a home region: recorded, matched, or passed by (R345, R349). A ring with no free record
makes it wait (R347). -/
def State.event (s : State) (r k : Nat) (e : Ev) : Verdict :=
  match (s.log r).mode with
  | 1 =>
    if (s.log r).free = 0 then .wait
    else
      let w := s.writeRecord r e
      .perform (if w.2 then w.1.countLog k e else w.1)
  | 2 =>
    if e.counted && s.groupTask k = e.task && s.mustMove k then .wait
    else match s.replayEvent r e with
      | .perform s => .perform (s.countLog k e)
      | v => v
  | _ => .perform s

/-- The event of the current thread's instruction: one that must wait parks it, for a given cause, and a divergence traps it. -/
def eventOrM (p : Park) (r : Nat) (e : Ev) : M Unit := do
  let s ← get
  match s.event r s.cur e with
  | .perform s => set s
  | .wait => parkM p
  | .diverge s object report => do
    set s
    throw (.diverge object report)

/-- The same with the replay wait of R349. -/
def eventM (r : Nat) (e : Ev) : M Unit := eventOrM (.replay r) r e

/-- The log-full check at issue of an instruction whose event will be logged (R347). -/
def logGuard (r : Nat) : M Unit := do
  let s ← get
  if (s.log r).mode = 1 ∧ (s.log r).free < 64 then do
    set (s.logFullCheck r)
    parkM (.logFull r)
  else pure ()

/-- The object of an access by its key (Table 16-3). -/
def keyObject (k : Nat) : Word :=
  if isLs k then BitVec.ofNat 64 (k / 2 ^ 18 * 2 ^ 32 + k % 2 ^ 18)
  else if isBank k then BitVec.ofNat 64 (2 ^ 60 + (k - 2 ^ 32) / 2 ^ 23 * 2 ^ 32 + k % 2 ^ 23)
  else if isHbm k then BitVec.ofNat 64 (2 * 2 ^ 60 + (k - 2 ^ 40))
  else BitVec.ofNat 64 (3 * 2 ^ 60 + (k - 2 ^ 56))

/-- The home region of an object's key; host memory belongs to the issuer's region (R345). -/
def keyRegion (k issuer : Nat) : Nat :=
  if isLs k then k / 2 ^ 18 / 256
  else if isBank k then (k - 2 ^ 32) / 2 ^ 23 / 4
  else if isHbm k then (k - 2 ^ 40) / 2 ^ 35
  else issuer

/-- The objects of queues, result FIFOs and halyard buffers (Table 16-3). -/
def rxObject (core launch : Nat) : Word := BitVec.ofNat 64 (8 * 2 ^ 60 + core * 2 ^ 32 + launch)
def fifoObject (core port slot : Nat) : Word := BitVec.ofNat 64 (9 * 2 ^ 60 + core * 2 ^ 32 + port * 2 ^ 8 + slot)
def halObject (core slot : Nat) : Word := BitVec.ofNat 64 (10 * 2 ^ 60 + core * 2 ^ 32 + slot)

/-- The digest of a value by its bytes: the value itself up to 4 bytes, otherwise CRC-32C, and WIDE (R342, R344). -/
def valueDigest (l : List Byte) : Word32 × Bool :=
  if l.length ≤ 4 then (BitVec.ofNat 32 (leNat l), false) else (crc32c l, true)

/-- The event of a full/empty access, an atomic or an L access, at a key. -/
def accessEv (s : State) (kind key : Nat) (digest : Word32) (wide : Bool) (aux : Nat) (lseg : Bool) : Ev :=
  { kind := kind, task := s.groupTask s.cur, object := keyObject key, digest := digest, wide := wide,
    aux := BitVec.ofNat 32 aux, lseg := lseg, remote := keyRegion key s.regionNo ≠ s.regionNo }

/-- A placement of a task (R344, R345, R347, R350): recorded in the ring of the region of the core named, or matched against the task's next placement
record, a dispatch against a record without RESUME; none while it must wait. DESIGN CHOICE (log 31): the tasks that are replayed are those in a
region in MODE 2, all of them, so one without a record waits. -/
def State.placement (s : State) (task : Word) (logN : Word32) (kind core : Nat) (resume : Bool) : Option State :=
  let r := regionOf core
  let l := s.log r
  match l.mode with
  | 1 =>
    if l.free = 0 then none
    else some (s.writeRecord r { kind := kind, task := task, object := placeObject, digest := BitVec.ofNat 32 core, aux := logN, resume := resume }).1
  | 2 =>
    match s.nextPlacement r task, s.presented r 3 placeObject task with
    | some p, some (n, _) =>
      if p.1 = kind ∧ p.2.1 = core ∧ (if kind = 6 then p.2.2.2 = resume else p.2.2.1 = logN) then some (s.consume r n) else none
    | _, _ => none
  | _ => some s

end Sys2Proof.Machine
end

