-- ==== Sys2Proof/Machine/Placement.lean ====
section
/-! DEFINITION. Where a launch places its tiles (18, R361, R364, R365), the halyard chain (R12, R216), what the areas of saved contexts
say, and which cores a saved context may resume on (R365, R397). -/

namespace Sys2Proof.Machine

/-- The physical regions of a VF's partition, in logical order (R411). -/
def State.vfRegions (s : State) (v : Nat) : List Nat :=
  (List.range 32).filterMap (fun n => match s.regEntry v n with
    | some (r, false) => some r
    | _ => none)

/-- A VF's own entries by logical region number, as levels count them (R361, R411); 32 stands for an entry that names no region of the partition, or
one that the part does not have (R5). -/
def State.vfTable (s : State) (v : Nat) : List Nat :=
  (List.range 32).map (fun n => match s.regEntry v n with
    | some (r, false) => r
    | _ => 32)

/-- The position of a value in a list. -/
def position (x : Nat) : List Nat → Option Nat
  | [] => none
  | y :: r => if x = y then some 0 else (position x r).map (· + 1)

/-- Cores of one instance of a domain (Table 01-7); `w` is a gang's width. -/
def domainSize (dm w : Nat) : Nat :=
  match dm with
  | 0 => 8192
  | 1 => 1024
  | 2 => 256
  | 3 => 64
  | 4 => 8
  | 7 => w
  | _ => 1

/-- The number of a core within an enclosing instance: by logical region in the package, by the VF's regions of its die in a die. `regs` is the
VF's table. -/
def coreWithin (regs : List Nat) (enc w c : Nat) : Option Nat :=
  match enc with
  | 0 => (position (c / 256) regs).map (fun n => 256 * n + c % 256)
  | 1 => (position (c / 256) (regs.filter (fun r => r / 4 = c / 1024))).map (fun n => 256 * n + c % 256)
  | _ => some (c % domainSize enc w)

/-- Numbers without repeats, first occurrences kept. -/
def dedupFirst : List Nat → List Nat
  | [] => []
  | x :: r => x :: (dedupFirst r).filter (fun y => y ≠ x)

/-- The dies of a VF's table, in the order of their first logical region. -/
def diesOf (regs : List Nat) : List Nat := dedupFirst ((regs.filter (fun r => decide (r < 32))).map (fun r => r / 4))

/-- The instance of a level that holds a core, counted within the enclosing instance (R364). A DIE level counts the dies of the VF's partition in
the order of their first logical region, as its regions are counted (DESIGN CHOICE: the spec numbers regions, R361, and says nothing of dies). -/
def Level.instanceOf (l : Level) (regs : List Nat) (enc w c : Nat) : Option Nat :=
  if l.domain = 0 then some 0
  else if l.domain = 1 then position (c / 1024) (diesOf regs)
  else if l.domain = 5 ∧ l.width ≠ 0 then
    if enc = 3 then some (c % 64)
    else some (16 * (8 * (c % 256 / 128) + c % 64 / 8) + 8 * (c % 128 / 64) + c % 8)
  else (coreWithin regs enc w c).map (fun n => n / domainSize l.domain l.width)

/-- The offset of a sub-index from FIRST: a grid for a CORE level with a width (R364). -/
def Level.offset (l : Level) (enc u : Nat) : Nat :=
  if l.domain = 5 ∧ l.width ≠ 0 then u / l.width * (if enc = 3 then 8 else 16) + u % l.width else u

def anyFirst : Nat := 0xFFFFFFFF

/-- Instances of a domain in one enclosing instance (R364, Table 01-7). -/
def domainCount (enc w dm n : Nat) : Nat :=
  let coresIn := domainSize enc w
  if dm = 6 then anyFirst else coresIn / domainSize dm n

/-- The last cell of a CORE grid of some extent and width that begins at `first` (R364). -/
def lastCell (enc width extent first : Nat) : Nat := first + (extent - 1) / width * (if enc = 3 then 8 else 16) + (extent - 1) % width

/-- Whether a VF's partition has an instance of a level's domain, by its number within the enclosing instance of a core (R5). -/
def Level.has (l : Level) (regs : List Nat) (enc c i : Nat) : Bool :=
  if l.domain = 0 then i = 0
  else if l.domain = 1 then decide (i < (diesOf regs).length)
  else if enc = 0 then decide ((regs[i * domainSize l.domain l.width / 256]?).getD 32 < 32)
  else if enc = 1 then decide (i * domainSize l.domain l.width / 256 < (regs.filter (fun r => r / 4 = c / 1024)).length)
  else true

/-- Whether a level may begin at an instance (R364): its cells lie in the grid, or it stays within the count of its domain and all that it names is
there. -/
def Level.startsAt (l : Level) (regs : List Nat) (enc w c first : Nat) : Bool :=
  if l.domain = 5 ∧ l.width ≠ 0 then decide (lastCell enc l.width l.extent first < domainSize enc w)
  else decide (first + l.extent ≤ domainCount enc w l.domain l.width) &&
    (List.range l.extent).all (fun u => l.has regs enc c (first + u))

/-- The FIRST under which a level places a sub-index on a core; none when it does not (R364). Where the scheduler chooses, every instance that the
level then names must be there. -/
def Level.firstFor (l : Level) (regs : List Nat) (enc w u c : Nat) : Option Nat :=
  if l.domain = 6 then some l.first
  else match l.instanceOf regs enc w c with
    | none => none
    | some n =>
      let o := l.offset enc u
      if l.first = anyFirst then (if o ≤ n ∧ l.startsAt regs enc w c (n - o) = true then some (n - o) else none)
      else if n = l.first + o then some l.first else none

/-- The sub-indices of a tile, the last level running fastest (R364). -/
def subIndices (levels : List Level) (tile : Nat) : List Nat :=
  (levels.foldr (fun l (acc : Nat × List Nat) => (acc.1 / l.extent, acc.1 % l.extent :: acc.2)) (tile, [])).2

/-- The levels with every FIRST resolved by placing a tile on a core; none when the tile may not go there (R364). -/
def resolveLevels (regs : List Nat) (c : Nat) : Nat → Nat → List Level → List Nat → Option (List Level)
  | enc, w, l :: ls, u :: us =>
    (l.firstFor regs enc w u c).bind (fun f =>
      (resolveLevels regs c (if l.domain = 6 then enc else l.domain) l.width ls us).map (fun r => { l with first := f } :: r))
  | _, _, _, _ => some []

/-- The levels after a tile is placed on a core. -/
def Launch.place (l : Launch) (regs : List Nat) (tile c : Nat) : Option (List Level) :=
  if regs.contains (c / 256) then resolveLevels regs c 0 0 l.levels (subIndices l.levels tile) else none

/-- Whether a launch's levels may place a task in a region: levels that enclose regions meet it (R365). -/
def meetsRegion (regs : List Nat) (r : Nat) : Nat → List Level → Bool
  | _, [] => true
  | enc, l :: ls =>
    if 2 ≤ enc then true
    else
      (match l.instanceOf regs enc 0 (256 * r), l.instanceOf regs enc 0 (256 * r + 255) with
        | some lo, some hi => l.domain = 6 || l.first = anyFirst || (decide (lo < l.first + l.extent) && decide (l.first ≤ hi))
        | _, _ => false) && meetsRegion regs r (if l.domain = 6 then enc else l.domain) ls

/-- Whether a saved context with a scope and HOMECORE may resume on a core (R365, R397); `bound` holds when units or results bind it. -/
def State.scopeAdmits (s : State) (task : Word) (scope home : Nat) (bound : Bool) (c : Nat) : Bool :=
  if bound then c = home
  else match scope with
    | 4 => c = home
    | 3 => c / 64 = home / 64
    | 2 => c / 256 = home / 256
    | _ =>
      let regs := s.vfTable (taskVf task)
      regs.contains (c / 256) && meetsRegion regs (c / 256) 0 (s.launch (taskKey task)).levels

/-! Saved contexts. -/

/-- A little-endian field of a table in memory. -/
def fieldAt (b : List Byte) (off n : Nat) : Nat := leNat ((b.drop off).take n)

/-- The keys of `n` bytes at a DVA of a region, when every page translates. -/
def State.dvaKeys (s : State) (r dva n : Nat) (write : Bool) : State × Option (List (Nat × Nat)) :=
  (pagePieces dva n).foldl (fun (acc : State × Option (List (Nat × Nat))) p =>
    match acc with
    | (s, none) => (s, none)
    | (s, some l) =>
      match s.translate r p.1 write with
      | (s, .ok pa) => (s, some (l ++ [(hbmKey pa, p.2)]))
      | (s, _) => (s, none)) (s, some [])

/-- Bytes written at a DVA of a region; none when a page does not translate. -/
def State.writeDva (s : State) (r dva : Nat) (b : List Byte) : Option State :=
  match s.dvaKeys r dva b.length true with
  | (s, some l) => some (s.setCells (layOver l b))
  | (_, none) => none

/-- Bytes read at a DVA of a region; none when a page does not translate. -/
def State.readDva (s : State) (r dva n : Nat) : State × Option (List Byte) :=
  match s.dvaKeys r dva n false with
  | (s, some l) => (s, some (s.piecesBytes l))
  | (s, none) => (s, none)

/-- A saved context with what the bytes of its area say of it (Table 19-6): HOMECORE, UNITS and RESULTS, FROZEN. -/
def State.readSaved (s : State) (r : Nat) (c : Saved) : Saved :=
  match s.readDva r (c.area + 0x1208) 8 with
  | (_, some b) =>
    { c with home := fieldAt b 2 2 % 2 ^ 13, bound := decide (fieldAt b 0 2 ≠ 0) || bit (fieldAt b 4 1) 2, frozen := bit (fieldAt b 4 1) 1 }
  | (_, none) => c

/-- Whether a context saved in a region may resume on a core (R365, R397). -/
def State.ctxAdmits (s : State) (r : Nat) (c : Saved) (core : Nat) : Bool :=
  let x := s.readSaved r c
  s.scopeAdmits x.task x.scope x.home x.bound core

/-- Whether the scheduler may resume a context by itself: it saved it, and it is not FROZEN (R374, R397). -/
def State.resumable (s : State) (r : Nat) (c : Saved) : Bool := c.auto && !(s.readSaved r c).frozen

/-! Slots. -/

/-- The EMPTY slots of a core among 0 to 14. -/
def State.emptySlots (s : State) (core : Nat) : List Nat :=
  ((List.range 15).map (fun i => 16 * core + i)).filter (fun k => (s.getT k).st = .empty)

/-- The launch for whose next undispatched task a slot is kept after an eviction (R376), while it has such a task for the core. -/
def State.keptFor (s : State) (k : Nat) : Option Nat :=
  ((s.region (regionOf (coreOf k))).contexts.find? (fun c => c.kept = some k &&
    (let l := s.launch (taskKey c.task)
     l.phase = 2 && (List.range l.tiles).any (fun t =>
      !l.dispatched.contains t && (l.place (s.vfTable (taskVf c.task)) t (coreOf k)).isSome)))).map (fun c => taskKey c.task)

/-- The lowest EMPTY slots of a core that no eviction has freed for another task (R313, R376). -/
def State.openSlots (s : State) (core : Nat) : List Nat := (s.emptySlots core).filter (fun k => (s.keptFor k).isNone)

/-! The halyard chain. -/

/-- The core index at position `p` of the default chain (R12). -/
def snake (p : Nat) : Nat := if p / 8 % 2 = 0 then p else p / 8 * 8 + (7 - p % 8)

/-- A launch's chain (R216). -/
def Kernel.chain (k : Kernel) : List Nat := k.haltab.getD ((List.range 64).map snake)

/-- Torus neighbours in a cluster (R11). -/
def torusNext (a b : Nat) : Bool :=
  let dr := (a / 8 + 8 - b / 8) % 8
  let dc := (a % 8 + 8 - b % 8) % 8
  (dr = 0 && (dc = 1 || dc = 7)) || (dc = 0 && (dr = 1 || dr = 7))

/-- A valid HALTAB (R216). -/
def chainValid (l : List Nat) : Bool :=
  l.length = 64 && (List.range 64).all (fun c => l.contains c) &&
  (List.range 63).all (fun p => torusNext ((l.drop p).headD 0) ((l.drop (p + 1)).headD 0))

end Sys2Proof.Machine
end

