-- ==== Sys2Proof/Machine/Float.lean ====
section
/-! DEFINITION. The number formats, the rounding modes, the conversions and the order of sums (02, R26 to R50). Every operation
computes its exact result on unbounded integers and rounds once at the end. -/

namespace Sys2Proof.Machine

/-- An exact value: a NaN, an infinity, or `(-1)^neg * m * 2^e` (zero is `m = 0`, with its sign). -/
inductive FV where
  | nan
  | inf (neg : Bool)
  | fin (neg : Bool) (m : Nat) (e : Int)
deriving DecidableEq, Repr

/-- The floating formats (02, Table 02-1). `b8` carries signedness, extendedness and precision (R30). -/
inductive FFmt where
  | f32 | f16 | bf16 | e2m1
  | b8 (signed ext : Bool) (p : Nat)
deriving DecidableEq, Repr

/-- The integer formats (02, Table 02-1). -/
inductive IFmt where
  | i8 | u8 | i16 | i32 | i64
deriving DecidableEq, Repr

/-- What a format code names (02, Table 02-1). -/
inductive Format where
  | bytes
  | int (f : IFmt)
  | flt (f : FFmt)
  | reserved
deriving DecidableEq, Repr

/-- The format of a 6-bit code (R26, R27, R30). -/
def formatOf (c : BitVec 6) : Format :=
  let n := c.toNat
  if n = 0x00 then .bytes
  else if n = 0x01 then .int .i8
  else if n = 0x02 then .int .u8
  else if n = 0x03 then .int .i16
  else if n = 0x04 then .int .i32
  else if n = 0x05 then .int .i64
  else if n = 0x08 then .flt .f32
  else if n = 0x09 then .flt .f16
  else if n = 0x0A then .flt .bf16
  else if n = 0x0C then .flt .e2m1
  else if 0x20 ≤ n ∧ n % 8 ≠ 0 then .flt (.b8 (n / 16 % 2 = 0) (n / 8 % 2 = 0) (n % 8))
  else .reserved

/-- Bytes of one element; an E2M1 pair takes one byte (R134, R275). -/
def Format.size : Format → Nat
  | .bytes => 1
  | .int .i8 => 1
  | .int .u8 => 1
  | .int .i16 => 2
  | .int .i32 => 4
  | .int .i64 => 8
  | .flt .f32 => 4
  | .flt .f16 => 2
  | .flt .bf16 => 2
  | .flt .e2m1 => 1
  | .flt (.b8 _ _ _) => 1
  | .reserved => 1

/-- Trailing significand bits (R29, R31, R32, R34). -/
def FFmt.t : FFmt → Nat
  | .f32 => 23
  | .f16 => 10
  | .bf16 => 7
  | .e2m1 => 1
  | .b8 _ _ p => p - 1

/-- Exponent bias (R29, R31, R32, R34). -/
def FFmt.bias : FFmt → Nat
  | .f32 => 127
  | .f16 => 15
  | .bf16 => 127
  | .e2m1 => 1
  | .b8 true _ p => 2 ^ (7 - p)
  | .b8 false _ p => 2 ^ (8 - p)

/-- Bits below the sign. -/
def FFmt.magBits : FFmt → Nat
  | .f32 => 31
  | .f16 => 15
  | .bf16 => 15
  | .e2m1 => 3
  | .b8 true _ _ => 7
  | .b8 false _ _ => 8

/-- Whether the format has a sign bit. -/
def FFmt.signed : FFmt → Bool
  | .b8 s _ _ => s
  | _ => true

/-- The largest finite code, sign excluded (R29, R34, Table 02-2). -/
def FFmt.maxCode : FFmt → Nat
  | .f32 => 0x7F7FFFFF
  | .f16 => 0x7BFF
  | .bf16 => 0x7F7F
  | .e2m1 => 7
  | .b8 true true _ => 0x7E
  | .b8 true false _ => 0x7F
  | .b8 false true _ => 0xFD
  | .b8 false false _ => 0xFE

/-- The canonical NaN code; E2M1 has none (R29, R34, Table 02-2). -/
def FFmt.nanCode : FFmt → Nat
  | .f32 => 0x7FC00000
  | .f16 => 0x7E00
  | .bf16 => 0x7FC0
  | .e2m1 => 0
  | .b8 true _ _ => 0x80
  | .b8 false _ _ => 0xFF

/-- The infinity code, sign excluded, where the format has one (Table 02-2). -/
def FFmt.infCode : FFmt → Option Nat
  | .f32 => some 0x7F800000
  | .f16 => some 0x7C00
  | .bf16 => some 0x7F80
  | .e2m1 => none
  | .b8 true true _ => some 0x7F
  | .b8 false true _ => some 0xFE
  | .b8 _ false _ => none

/-- Whether the format keeps a negative zero: no binary8 variant does (Table 02-2). -/
def FFmt.hasNegZero : FFmt → Bool
  | .b8 _ _ _ => false
  | _ => true

/-- The exponent of the least normal magnitude. -/
def FFmt.emin (f : FFmt) : Int := 1 - (f.bias : Int)

/-- The value of a magnitude code by the formula of R31. -/
def FFmt.magValue (f : FFmt) (c : Nat) : Nat × Int :=
  let e := c / 2 ^ f.t
  let m := c % 2 ^ f.t
  if e = 0 then (m, f.emin - f.t) else (2 ^ f.t + m, (e : Int) - f.bias - f.t)

/-- The exact value of an element (R29, R31, R32, R34, Table 02-2). -/
def FFmt.value (f : FFmt) (c : Nat) : FV :=
  let mag := c % 2 ^ f.magBits
  let neg := f.signed && (c / 2 ^ f.magBits % 2 = 1)
  match f with
  | .b8 _ _ _ =>
    if c = f.nanCode then .nan
    else if f.infCode = some mag then .inf neg
    else .fin neg (f.magValue mag).1 (f.magValue mag).2
  | .e2m1 => .fin neg (f.magValue mag).1 (f.magValue mag).2
  | _ =>
    if f.infCode = some mag then .inf neg
    else if f.maxCode < mag then .nan
    else .fin neg (f.magValue mag).1 (f.magValue mag).2

/-- The bits of FPFLAGS (02, Table 02-8): NX 3, UF 2, OF 1, IV 0. -/
abbrev Flags := BitVec 4

def flagIV : Flags := 1
def flagOF : Flags := 2
def flagUF : Flags := 4
def flagNX : Flags := 8

/-- The rounding modes (02, Table 02-6); SR carries its 16 random bits (R40). -/
inductive RM where
  | rne | rtz | rdn | rup
  | sr (rnd : Nat)
deriving DecidableEq, Repr

/-- Position of the highest set bit of a nonzero number. -/
def ilog2 (m : Nat) : Nat := m.log2

/-- Whether rounding moves the magnitude up from `lo` when `rem` of `2^s` is cut off; `odd` says that `lo` is not the even choice. -/
def roundsUp (rm : RM) (neg odd : Bool) (rem s : Nat) : Bool :=
  if rem = 0 then false
  else match rm with
    | .rne => decide (2 ^ s < 2 * rem) || (decide (2 * rem = 2 ^ s) && odd)
    | .rtz => false
    | .rdn => neg
    | .rup => !neg
    | .sr rnd => decide (2 ^ 16 ≤ 2 ^ 16 * rem / 2 ^ s + rnd)

/-- The magnitude `m * 2^e` rounded to a multiple of `2^q`: the multiple and whether it is inexact. A tie goes to the
even multiple; with one digit of precision that is the larger magnitude, as in IEEE 754. -/
def roundQuantum (rm : RM) (neg : Bool) (m : Nat) (e q : Int) : Nat × Bool :=
  if q ≤ e then (m * 2 ^ (e - q).toNat, false)
  else
    let s := (q - e).toNat
    let lo := m / 2 ^ s
    let rem := m % 2 ^ s
    (if roundsUp rm neg (decide (lo % 2 = 1)) rem s then lo + 1 else lo, decide (rem ≠ 0))

/-- Comparison of magnitudes `a * 2^ea < b * 2^eb`. -/
def magLt (a : Nat) (ea : Int) (b : Nat) (eb : Int) : Bool :=
  if ea ≤ eb then decide (a < b * 2 ^ (eb - ea).toNat) else decide (a * 2 ^ (ea - eb).toNat < b)

/-- The code of the magnitude `r * 2^q`, known to be representable and finite. -/
def FFmt.codeOf (f : FFmt) (r : Nat) (q : Int) : Nat :=
  if r = 0 then 0
  else
    let lead := (ilog2 r : Int) + q
    if lead < f.emin then
      let sh := q - (f.emin - f.t)
      if 0 ≤ sh then r * 2 ^ sh.toNat else r / 2 ^ (-sh).toNat
    else
      let sh := q - (lead - f.t)
      let sig := if 0 ≤ sh then r * 2 ^ sh.toNat else r / 2 ^ (-sh).toNat
      ((lead + f.bias).toNat) * 2 ^ f.t + (sig - 2 ^ f.t)

/-- A code with its sign; a format without negative zero writes +0 (Table 02-2). -/
def FFmt.signedCode (f : FFmt) (neg : Bool) (c : Nat) : Nat :=
  if neg && f.signed && (c ≠ 0 || f.hasNegZero) then c + 2 ^ f.magBits else c

/-- The result of an overflow of a finite value (Table 02-7). -/
def FFmt.overflow (f : FFmt) (rm : RM) (sat neg : Bool) : Nat :=
  let maxf := f.signedCode neg f.maxCode
  match f.infCode with
  | none => if f = .e2m1 || sat then maxf else f.nanCode
  | some ic =>
    if sat then maxf
    else match rm with
      | .rtz => maxf
      | .rdn => if neg then f.signedCode neg ic else maxf
      | .rup => if neg then maxf else f.signedCode neg ic
      | _ => f.signedCode neg ic

/-- Whether the nonzero magnitude is tiny (R39): judged on the value rounded with an unbounded exponent; under SR, on the exact
magnitude and the final result `r * 2^q`. -/
def FFmt.tiny (f : FFmt) (rm : RM) (neg : Bool) (m : Nat) (e : Int) (r : Nat) (q : Int) : Bool :=
  let lead := (ilog2 m : Int) + e
  if f.emin ≤ lead then false
  else match rm with
    | .sr _ => magLt r q 1 f.emin
    | _ =>
      let q' := lead - f.t
      let r' := (roundQuantum rm neg m e q').1
      magLt r' q' 1 f.emin

/-- Rounding of an exact nonzero finite value to a format (R39, R40, R42, R43): code and flags. -/
def FFmt.roundFin (f : FFmt) (rm : RM) (sat neg : Bool) (m : Nat) (e : Int) : Nat × Flags :=
  if neg && !f.signed then (if sat then 0 else f.nanCode, flagIV)
  else
    let lead := (ilog2 m : Int) + e
    let q := max (lead - f.t) (f.emin - f.t)
    let rx := roundQuantum rm neg m e q
    let mx := f.magValue f.maxCode
    if magLt mx.1 mx.2 rx.1 q then (f.overflow rm sat neg, flagOF ||| flagNX)
    else
      let code := f.signedCode neg (f.codeOf rx.1 q)
      if rx.2 then
        (code, if f.tiny rm neg m e rx.1 q then flagUF ||| flagNX else flagNX)
      else (code, 0)

/-- Conversion of a value to a floating format (R42, Table 02-7): code and flags. -/
def FFmt.convert (f : FFmt) (rm : RM) (sat : Bool) (v : FV) : Nat × Flags :=
  match v with
  | .nan => if f = .e2m1 then (0, flagIV) else (f.nanCode, 0)
  | .inf neg =>
    if f = .e2m1 then (f.signedCode neg f.maxCode, flagIV)
    else if neg && !f.signed then (if sat then 0 else f.nanCode, flagIV)
    else match f.infCode with
      | some ic => if sat then (f.signedCode neg f.maxCode, flagNX) else (f.signedCode neg ic, 0)
      | none => (if sat then f.signedCode neg f.maxCode else f.nanCode, flagNX)
  | .fin neg m e => if m = 0 then (f.signedCode neg 0, 0) else f.roundFin rm sat neg m e

/-- The least value of an integer format. -/
def IFmt.lo : IFmt → Int
  | .i8 => -(2 ^ 7)
  | .u8 => 0
  | .i16 => -(2 ^ 15)
  | .i32 => -(2 ^ 31)
  | .i64 => -(2 ^ 63)

/-- The greatest value of an integer format. -/
def IFmt.hi : IFmt → Int
  | .i8 => 2 ^ 7 - 1
  | .u8 => 2 ^ 8 - 1
  | .i16 => 2 ^ 15 - 1
  | .i32 => 2 ^ 31 - 1
  | .i64 => 2 ^ 63 - 1

/-- Clamp to an integer format's range. -/
def IFmt.clamp (f : IFmt) (x : Int) : Int := if x < f.lo then f.lo else if f.hi < x then f.hi else x

/-- Conversion of a value to an integer format (R42, Table 02-7): rounded by the mode, then clamped. -/
def IFmt.convert (f : IFmt) (rm : RM) (v : FV) : Int × Flags :=
  match v with
  | .nan => (0, flagIV)
  | .inf neg => (if neg then f.lo else f.hi, flagIV)
  | .fin neg m e =>
    let rx := roundQuantum rm neg m e 0
    let x : Int := if neg then -(rx.1 : Int) else rx.1
    if x < f.lo ∨ f.hi < x then (f.clamp x, flagIV)
    else (x, if rx.2 then flagNX else 0)

/-- The exact value of an integer. -/
def FV.ofInt (x : Int) : FV := .fin (decide (x < 0)) x.natAbs 0

/-- An FP32 element as a value. -/
def f32 (x : Word32) : FV := FFmt.f32.value x.toNat

/-- Negation of a value. -/
def FV.neg : FV → FV
  | .nan => .nan
  | .inf n => .inf (!n)
  | .fin n m e => .fin (!n) m e

/-- Exact product (R45, exact_mul): no rounding, no exponent limit. The flag is IV for 0 times infinity (R43). -/
def FV.mul : FV → FV → FV × Flags
  | .nan, .inf _ => (.nan, 0)
  | .nan, _ => (.nan, 0)
  | _, .nan => (.nan, 0)
  | .inf a, .inf b => (.inf (xor a b), 0)
  | .inf a, .fin b m _ => if m = 0 then (.nan, flagIV) else (.inf (xor a b), 0)
  | .fin a m _, .inf b => if m = 0 then (.nan, flagIV) else (.inf (xor a b), 0)
  | .fin a m e, .fin b n g => (.fin (xor a b) (m * n) (e + g), 0)

/-- Exact sum; an exact zero takes the IEEE 754 sign, negative under RDN (R98). The flag is IV for opposite infinities (R43). -/
def FV.add (rdn : Bool) : FV → FV → FV × Flags
  | .nan, _ => (.nan, 0)
  | _, .nan => (.nan, 0)
  | .inf a, .inf b => if a = b then (.inf a, 0) else (.nan, flagIV)
  | .inf a, .fin _ _ _ => (.inf a, 0)
  | .fin _ _ _, .inf b => (.inf b, 0)
  | .fin a m e, .fin b n g =>
    let q := min e g
    let x : Int := (if a then -1 else 1) * ((m * 2 ^ (e - q).toNat : Nat) : Int)
    let y : Int := (if b then -1 else 1) * ((n * 2 ^ (g - q).toNat : Nat) : Int)
    let z := x + y
    if z = 0 then (.fin (if m = 0 ∧ n = 0 ∧ a = b then a else rdn) 0 0, 0)
    else (.fin (decide (z < 0)) z.natAbs q, 0)

/-- Whether a mode rounds toward minus infinity. -/
def RM.isRdn : RM → Bool
  | .rdn => true
  | _ => false

/-- Rounding of an exact result to the format of the operation, without SAT (R196). -/
def FFmt.round (f : FFmt) (rm : RM) (v : FV × Flags) : Nat × Flags :=
  let r := f.convert rm false v.1
  (r.1, r.2 ||| v.2)

/-- Sum rounded once to `f`. -/
def FFmt.add (f : FFmt) (rm : RM) (a b : Nat) : Nat × Flags :=
  f.round rm (FV.add rm.isRdn (f.value a) (f.value b))

/-- Difference rounded once to `f`. -/
def FFmt.sub (f : FFmt) (rm : RM) (a b : Nat) : Nat × Flags :=
  f.round rm (FV.add rm.isRdn (f.value a) (f.value b).neg)

/-- Product rounded once to `f`. -/
def FFmt.mul (f : FFmt) (rm : RM) (a b : Nat) : Nat × Flags :=
  f.round rm ((f.value a).mul (f.value b))

/-- `a * b + c` rounded once to `f`. -/
def FFmt.fma (f : FFmt) (rm : RM) (a b c : Nat) : Nat × Flags :=
  let p := (f.value a).mul (f.value b)
  let s := FV.add rm.isRdn p.1 (f.value c)
  f.round rm (s.1, s.2 ||| p.2)

/-- FP32 operations on words. -/
def f32Of (r : Nat × Flags) : Word32 × Flags := (BitVec.ofNat 32 r.1, r.2)

def f32Add (rm : RM) (a b : Word32) : Word32 × Flags := f32Of (FFmt.f32.add rm a.toNat b.toNat)
def f32Mul (rm : RM) (a b : Word32) : Word32 × Flags := f32Of (FFmt.f32.mul rm a.toNat b.toNat)
def f32Fma (rm : RM) (a b c : Word32) : Word32 × Flags := f32Of (FFmt.f32.fma rm a.toNat b.toNat c.toNat)

/-- A value rounded to FP32 by RNE (round_rne_fp32 of R45). -/
def rneF32 (v : FV × Flags) : Word32 × Flags := f32Of (FFmt.f32.round .rne v)

/-- The canonical NaN of FP32 (R29). -/
def nan32 : Word32 := 0x7FC00000#32

/-- IEEE comparison of two values: `none` when either is a NaN, otherwise the order, with +0 = -0 (R100). -/
def FV.cmp : FV → FV → Option Ordering
  | .nan, _ => none
  | _, .nan => none
  | .inf a, .inf b => some (if a = b then .eq else if a then .lt else .gt)
  | .inf a, .fin _ _ _ => some (if a then .lt else .gt)
  | .fin _ _ _, .inf b => some (if b then .gt else .lt)
  | .fin a m e, .fin b n g =>
    let q := min e g
    let x : Int := (if a then -1 else 1) * ((m * 2 ^ (e - q).toNat : Nat) : Int)
    let y : Int := (if b then -1 else 1) * ((n * 2 ^ (g - q).toNat : Nat) : Int)
    some (if x < y then .lt else if x = y then .eq else .gt)

/-- IEEE order with -0 below +0 (R198), on values that are not NaN. -/
def FV.below (a b : FV) : Bool :=
  match a.cmp b with
  | some .lt => true
  | some .eq =>
    match a, b with
    | .fin true 0 _, .fin false 0 _ => true
    | _, _ => false
  | _ => false

/-- Minimum of two elements of a floating format; a NaN gives the canonical NaN (R198). -/
def FFmt.vmin (f : FFmt) (a b : Nat) : Nat :=
  if f.value a = .nan ∨ f.value b = .nan then f.nanCode
  else if (f.value b).below (f.value a) then b else a

/-- Maximum of two elements of a floating format; a NaN gives the canonical NaN (R198). -/
def FFmt.vmax (f : FFmt) (a b : Nat) : Nat :=
  if f.value a = .nan ∨ f.value b = .nan then f.nanCode
  else if (f.value a).below (f.value b) then b else a

/-- `v * 2^n`, exact. -/
def FV.scale (v : FV) (n : Int) : FV :=
  match v with
  | .fin s m e => .fin s m (e + n)
  | x => x

/-- Widening of an element to FP32 with an E8M0 scale code `k` (R36): exact, rounded RNE only on overflow or underflow. -/
def widenScaled (v : FV) (k : Nat) : Word32 × Flags :=
  if k = 0xFF then (nan32, 0) else f32Of (FFmt.f32.convert .rne false (v.scale ((k : Int) - 127)))

/-- Exact widening to FP32 (R33, R37). -/
def widen (v : FV) : Word32 := (f32Of (FFmt.f32.convert .rne false v)).1

/-- One level of the tree of R45: neighbouring nodes added and rounded RNE to FP32. -/
def treeLevel : List FV → List FV × Flags
  | a :: b :: rest =>
    let s := rneF32 (FV.add false a b)
    let r := treeLevel rest
    (f32 s.1 :: r.1, s.2 ||| r.2)
  | l => (l, 0)

/-- The five-level tree over 32 values (R45, R47): FP32 sum and flags. -/
def tree32 (p : List FV) : Word32 × Flags :=
  let l1 := treeLevel p
  let l2 := treeLevel l1.1
  let l3 := treeLevel l2.1
  let l4 := treeLevel l3.1
  let l5 := treeLevel l4.1
  (widen (l5.1.headD (.fin false 0 0)), l1.2 ||| l2.2 ||| l3.2 ||| l4.2 ||| l5.2)

/-- The 32 exact products of a block, padded with +0 (R45). -/
def blockProducts : Nat → List (FV × FV) → List FV × Flags
  | 0, _ => ([], 0)
  | n + 1, [] =>
    let r := blockProducts n []
    (.fin false 0 0 :: r.1, r.2)
  | n + 1, ab :: rest =>
    let p := ab.1.mul ab.2
    let r := blockProducts n rest
    (p.1 :: r.1, p.2 ||| r.2)

/-- The sum of one block of 32 products by the tree (R45). -/
def blockSum (ab : List (FV × FV)) : Word32 × Flags :=
  let p := blockProducts 32 ab
  let s := tree32 p.1
  (s.1, s.2 ||| p.2)

/-- scale_fp32 of R45: multiply by `2^n` exactly, rounding RNE only on FP32 overflow or underflow; NaN if either scale is 0xFF. -/
def scaleF32 (s : Word32) (ka kb : Nat) : Word32 × Flags :=
  if ka = 0xFF ∨ kb = 0xFF then (nan32, 0)
  else f32Of (FFmt.f32.convert .rne false ((f32 s).scale ((ka : Int) + kb - 254)))

/-- One block added into a floating accumulator cell (R45): `mx` carries the two scale codes of the block. -/
def accumulateBlock (acc : Word32) (ab : List (FV × FV)) (mx : Option (Nat × Nat)) : Word32 × Flags :=
  let s := blockSum ab
  let t := match mx with
    | some k => scaleF32 s.1 k.1 k.2
    | none => (s.1, 0)
  let r := rneF32 (FV.add false (f32 acc) (f32 t.1))
  (r.1, r.2 ||| t.2 ||| s.2)

/-- dot_accumulate of R45 over the blocks of 32 elements, in increasing order. The number counts the blocks left. -/
def dotAccumulate : Nat → Word32 → List (FV × FV) → Word32 × Flags
  | 0, acc, _ => (acc, 0)
  | n + 1, acc, ab =>
    let r := accumulateBlock acc (ab.take 32) none
    let r' := dotAccumulate n r.1 (ab.drop 32)
    (r'.1, r.2 ||| r'.2)

/-- Integer dot product, wrapping mod 2^32 (R46). -/
def dotInt (acc : Word32) (ab : List (Int × Int)) : Word32 :=
  BitVec.ofInt 32 (ab.foldl (fun s p => s + p.1 * p.2) acc.toInt)

/-- One step of the stochastic-rounding generator (R40): the new state, whose low 16 bits are drawn. -/
def srStep (st : Word) : Word :=
  let x0 := if st = 0 then 0x9E3779B97F4A7C15#64 else st
  let x1 := x0 ^^^ (x0 <<< 13)
  let x2 := x1 ^^^ (x1 >>> 7)
  x2 ^^^ (x2 <<< 17)

/-- The rounding mode of a code 0 to 4 (Table 02-6), with the generator's state for SR. -/
def rmOfCode (c : Nat) (seed : Word) : RM :=
  if c = 1 then .rtz else if c = 2 then .rdn else if c = 3 then .rup
  else if c = 4 then .sr ((srStep seed).toNat % 2 ^ 16) else .rne

/-- The mode an arithmetic instruction rounds under (R37): code 7 takes RMODE, and SR there rounds RNE. -/
def arithRM (rm : Nat) (rmode : Nat) : RM :=
  let c := if rm = 7 then rmode else rm
  if c = 4 then .rne else rmOfCode c 0

/-- The code of the mode a conversion rounds under (R37): code 7 takes RMODE, SR included. -/
def convCode (rm : Nat) (rmode : Nat) : Nat := if rm = 7 then rmode else rm

/-- The composition of pair scans (R49): `(a1, b1)` is the lower lane's pair. -/
def composePair (lo hi : Word32 × Word32) : (Word32 × Word32) × Flags :=
  let a := f32Mul .rne lo.1 hi.1
  let b := f32Fma .rne hi.1 lo.2 hi.2
  ((a.1, b.1), a.2 ||| b.2)

end Sys2Proof.Machine
end

