-- ==== Sys2Proof/Machine/Operands.lean ====
section
/-! DEFINITION. Operand forms: immediates and displacements (R54), the checks an instruction makes of its own operands (R56, step 5),
and the operands of the vector forms (R197). -/

namespace Sys2Proof.Machine

/-- A signed displacement in units of the access size (Table 03-2). -/
def disp (n : Nat) (off : BitVec n) (size : Nat) : Int := off.toInt * size

/-- A PC-relative target (R52). -/
def pcRel (pc : Word) (n : Nat) (off : BitVec n) : Word := pc + 4 * off.signExtend 64

/-- The rounding field of an arithmetic instruction (R37, R98): codes 4, 5 and 6 trap. -/
def rmArithOk (r : BitVec 3) : Bool := r.toNat < 4 || r.toNat = 7
/-- The rounding field of a conversion (R37): codes 5 and 6 trap. -/
def rmConvOk (r : BitVec 3) : Bool := r.toNat ≠ 5 && r.toNat ≠ 6

/-- The kind of FCVT (R99): SAT where the table allows it, and b only in kinds 8 and 9. -/
def fcvtOk (b k : BitVec 5) : Bool :=
  let kind := k.toNat % 16
  kind < 12 && (k.toNat < 16 || kind = 4 || kind = 6 || kind = 8 || kind = 10) && (b = 0 || kind = 8 || kind = 9)

end Sys2Proof.Machine
end

