-- ==== Sys2Proof/Machine/Branch.lean ====
section
/-! DEFINITION. Control transfer (04, R93, R94) and TRAP and BRK (19, R387). -/

namespace Sys2Proof.Machine

/-- The leader of the current thread's gang, when the thread is a follower (R247). -/
def State.follows (s : State) : Option Nat :=
  if s.th.en.gangN ≠ 0 ∧ s.th.en.leader ≠ s.cur then some s.th.en.leader else none

/-- The thread goes on at a target, or at the next word. A follower takes the path its leader took (R94); the leader has issued the
branch already. -/
def State.branchTo (s : State) (taken : Bool) (t : Word) : State :=
  match s.follows with
  | some l =>
    let p := (s.getT l).r.pc
    if p = s.th.r.pc + 4 then s.retire else s.jump p
  | none => if taken then s.jump t else s.retire

/-- The link register after BL and BLR (R93). -/
def State.link (s : State) : State := s.wrS 31 (s.th.r.pc + 4)

/-- B (R93). -/
def execB (o : BitVec 26) (s : State) : Host.Outcome State Fault Refusal := .next (s.branchTo true (pcRel s.th.r.pc 26 o))

/-- BL (R93). -/
def execBl (o : BitVec 26) (s : State) : Host.Outcome State Fault Refusal := .next (s.link.branchTo true (pcRel s.th.r.pc 26 o))

/-- A conditional branch (R93): the PC-relative target when the condition holds. -/
def condBranch (c : Bool) (o : BitVec 13) (s : State) : Host.Outcome State Fault Refusal :=
  .next (s.branchTo c (pcRel s.th.r.pc 13 o))

/-- BEQ (R93). -/
def execBeq (a b : BitVec 5) (o : BitVec 13) (s : State) : Host.Outcome State Fault Refusal := condBranch (s.rdS a = s.rdS b) o s
/-- BNE (R93). -/
def execBne (a b : BitVec 5) (o : BitVec 13) (s : State) : Host.Outcome State Fault Refusal := condBranch (s.rdS a ≠ s.rdS b) o s
/-- BLT (R93). -/
def execBlt (a b : BitVec 5) (o : BitVec 13) (s : State) : Host.Outcome State Fault Refusal := condBranch ((s.rdS a).slt (s.rdS b)) o s
/-- BGE (R93). -/
def execBge (a b : BitVec 5) (o : BitVec 13) (s : State) : Host.Outcome State Fault Refusal := condBranch ((s.rdS b).sle (s.rdS a)) o s
/-- BLTU (R93). -/
def execBltu (a b : BitVec 5) (o : BitVec 13) (s : State) : Host.Outcome State Fault Refusal := condBranch (s.rdS a < s.rdS b) o s
/-- BGEU (R93). -/
def execBgeu (a b : BitVec 5) (o : BitVec 13) (s : State) : Host.Outcome State Fault Refusal := condBranch (s.rdS b ≤ s.rdS a) o s

/-- A register target: bits 1 and 0 set trap MISALIGN with the target as ADDR, and nothing is written (R93). -/
def indirect (link : Bool) (a : BitVec 5) : M Unit := do
  let s ← get
  let t := s.rdS a
  if s.follows = none ∧ t &&& 3 ≠ 0 then trap tMisalign t
  else set ((if link then s.link else s).branchTo true t)

/-- BR (R93). -/
def execBr (a : BitVec 5) (s : State) : Host.Outcome State Fault Refusal := finish (indirect false a) s
/-- BLR (R93): sa is read before s31 is written. -/
def execBlr (a : BitVec 5) (s : State) : Host.Outcome State Fault Refusal := finish (indirect true a) s

end Sys2Proof.Machine
end

