-- ==== Sys2Proof/Decode.lean ====
section
/-! DEFINITION. The decoder of 32-bit instruction words (03, R53 to R59, and the encoding tables of the owning chapters), total on
every word, and the encoder written from the same tables. A word is read as a natural number below 2^32 whose bit 0 is the
word's least significant bit (R51). The decoder checks what R56 checks in its first three steps: the major, the minor code and
the reserved bits. What a form's own operand checks refuse is left to its meaning. -/

namespace Sys2Proof

/-- Why a word is no instruction (R56, steps 1 to 3). Each of them traps ILLEGAL. -/
inductive DecodeError where
  /-- Step 1: major 0x00, or a major that Table 03-3 marks reserved. -/
  | reservedMajor
  /-- Steps 2 and 3: a minor code no chapter defines, or a reserved bit that is not zero. -/
  | undefinedMinorOrReservedBit
  /-- Fewer than four bytes were given. -/
  | shortWord
deriving DecidableEq, Repr

/-- Field of `n` bits of the word `w`, lowest bit `lo`, as a number. -/
def fld (w lo n : Nat) : Nat := w / 2 ^ lo % 2 ^ n

/-- Field of `n` bits of the word `w`, lowest bit `lo`, as bits. -/
def bits (w lo : Nat) (n : Nat) : BitVec n := BitVec.ofNat n (w / 2 ^ lo)

/-- The majors that Table 03-3 gives to an instruction (03). -/
def definedMajor (m : Nat) : Bool :=
  [0x01, 0x02, 0x03, 0x04, 0x05, 0x06, 0x07, 0x08, 0x09, 0x0A, 0x10, 0x11, 0x12, 0x13, 0x14, 0x15, 0x16, 0x18, 0x19, 0x1A, 0x1B, 0x1C, 0x1D, 0x1E, 0x1F, 0x20, 0x21, 0x22, 0x23, 0x24, 0x25, 0x28, 0x29, 0x2A, 0x2B, 0x2C, 0x2D, 0x2E, 0x2F, 0x30, 0x31].contains m

/-- The rows of major 0x01 (03, Table 03-3). -/
def decodeMajor01 (w : Nat) : Option Instr :=
  if fld w 0 11 = 0x0 then some (.add (bits w 21 5) (bits w 16 5) (bits w 11 5))
  else if fld w 0 11 = 0x1 then some (.sub (bits w 21 5) (bits w 16 5) (bits w 11 5))
  else if fld w 0 11 = 0x2 then some (.mul (bits w 21 5) (bits w 16 5) (bits w 11 5))
  else if fld w 0 11 = 0x3 then some (.mulh (bits w 21 5) (bits w 16 5) (bits w 11 5))
  else if fld w 0 11 = 0x4 then some (.mulhu (bits w 21 5) (bits w 16 5) (bits w 11 5))
  else if fld w 0 11 = 0x5 then some (.div (bits w 21 5) (bits w 16 5) (bits w 11 5))
  else if fld w 0 11 = 0x6 then some (.divu (bits w 21 5) (bits w 16 5) (bits w 11 5))
  else if fld w 0 11 = 0x7 then some (.rem (bits w 21 5) (bits w 16 5) (bits w 11 5))
  else if fld w 0 11 = 0x8 then some (.remu (bits w 21 5) (bits w 16 5) (bits w 11 5))
  else if fld w 0 11 = 0x10 then some (.and (bits w 21 5) (bits w 16 5) (bits w 11 5))
  else if fld w 0 11 = 0x11 then some (.or (bits w 21 5) (bits w 16 5) (bits w 11 5))
  else if fld w 0 11 = 0x12 then some (.xor (bits w 21 5) (bits w 16 5) (bits w 11 5))
  else if fld w 0 11 = 0x18 then some (.shl (bits w 21 5) (bits w 16 5) (bits w 11 5))
  else if fld w 0 11 = 0x19 then some (.shr (bits w 21 5) (bits w 16 5) (bits w 11 5))
  else if fld w 0 11 = 0x1A then some (.sar (bits w 21 5) (bits w 16 5) (bits w 11 5))
  else if fld w 0 11 = 0x1B then some (.rol (bits w 21 5) (bits w 16 5) (bits w 11 5))
  else if fld w 0 11 = 0x20 then some (.min (bits w 21 5) (bits w 16 5) (bits w 11 5))
  else if fld w 0 11 = 0x21 then some (.max (bits w 21 5) (bits w 16 5) (bits w 11 5))
  else if fld w 0 11 = 0x22 then some (.minu (bits w 21 5) (bits w 16 5) (bits w 11 5))
  else if fld w 0 11 = 0x23 then some (.maxu (bits w 21 5) (bits w 16 5) (bits w 11 5))
  else if fld w 0 16 = 0x28 then some (.clz (bits w 21 5) (bits w 16 5))
  else if fld w 0 16 = 0x29 then some (.ctz (bits w 21 5) (bits w 16 5))
  else if fld w 0 16 = 0x2A then some (.popc (bits w 21 5) (bits w 16 5))
  else if fld w 0 16 = 0x2B then some (.bswap (bits w 21 5) (bits w 16 5))
  else none

/-- The rows of major 0x02 (03, Table 03-3). -/
def decodeMajor02 (w : Nat) : Option Instr :=
  some (.addi (bits w 21 5) (bits w 16 5) (bits w 0 16))

/-- The rows of major 0x03 (03, Table 03-3). -/
def decodeMajor03 (w : Nat) : Option Instr :=
  some (.andi (bits w 21 5) (bits w 16 5) (bits w 0 16))

/-- The rows of major 0x04 (03, Table 03-3). -/
def decodeMajor04 (w : Nat) : Option Instr :=
  some (.ori (bits w 21 5) (bits w 16 5) (bits w 0 16))

/-- The rows of major 0x05 (03, Table 03-3). -/
def decodeMajor05 (w : Nat) : Option Instr :=
  some (.xori (bits w 21 5) (bits w 16 5) (bits w 0 16))

/-- The rows of major 0x06 (03, Table 03-3). -/
def decodeMajor06 (w : Nat) : Option Instr :=
  if fld w 6 10 = 0x0 then some (.shli (bits w 21 5) (bits w 16 5) (bits w 0 6))
  else if fld w 6 10 = 0x100 then some (.shri (bits w 21 5) (bits w 16 5) (bits w 0 6))
  else if fld w 6 10 = 0x200 then some (.sari (bits w 21 5) (bits w 16 5) (bits w 0 6))
  else none

/-- The rows of major 0x07 (03, Table 03-3). -/
def decodeMajor07 (w : Nat) : Option Instr :=
  some (.limm (bits w 21 5) (bits w 0 21))

/-- The rows of major 0x08 (03, Table 03-3). -/
def decodeMajor08 (w : Nat) : Option Instr :=
  if fld w 18 3 = 0x0 then some (.limmh (bits w 21 5) (bits w 16 2) (bits w 0 16))
  else none

/-- The rows of major 0x09 (03, Table 03-3). -/
def decodeMajor09 (w : Nat) : Option Instr :=
  if fld w 15 1 = 0x0 then some (.bext (bits w 21 5) (bits w 16 5) (bits w 8 7) (bits w 0 8))
  else if fld w 15 1 = 0x1 then some (.bins (bits w 21 5) (bits w 16 5) (bits w 8 7) (bits w 0 8))
  else none

/-- The rows of major 0x0A (03, Table 03-3). -/
def decodeMajor0A (w : Nat) : Option Instr :=
  if fld w 0 11 = 0x0 then some (.cmpeq (bits w 21 5) (bits w 16 5) (bits w 11 5))
  else if fld w 0 11 = 0x1 then some (.cmplt (bits w 21 5) (bits w 16 5) (bits w 11 5))
  else if fld w 0 11 = 0x2 then some (.cmpltu (bits w 21 5) (bits w 16 5) (bits w 11 5))
  else if fld w 0 6 = 0x3 then some (.sel (bits w 21 5) (bits w 16 5) (bits w 11 5) (bits w 6 5))
  else none

/-- The rows of major 0x10 (03, Table 03-3). -/
def decodeMajor10 (w : Nat) : Option Instr :=
  some (.b (bits w 0 26))

/-- The rows of major 0x11 (03, Table 03-3). -/
def decodeMajor11 (w : Nat) : Option Instr :=
  some (.bl (bits w 0 26))

/-- The rows of major 0x12 (03, Table 03-3). -/
def decodeMajor12 (w : Nat) : Option Instr :=
  if fld w 13 3 = 0x0 then some (.beq (bits w 21 5) (bits w 16 5) (bits w 0 13))
  else if fld w 13 3 = 0x1 then some (.bne (bits w 21 5) (bits w 16 5) (bits w 0 13))
  else if fld w 13 3 = 0x2 then some (.blt (bits w 21 5) (bits w 16 5) (bits w 0 13))
  else if fld w 13 3 = 0x3 then some (.bge (bits w 21 5) (bits w 16 5) (bits w 0 13))
  else if fld w 13 3 = 0x4 then some (.bltu (bits w 21 5) (bits w 16 5) (bits w 0 13))
  else if fld w 13 3 = 0x5 then some (.bgeu (bits w 21 5) (bits w 16 5) (bits w 0 13))
  else none

/-- The rows of major 0x13 (03, Table 03-3). -/
def decodeMajor13 (w : Nat) : Option Instr :=
  if fld w 0 16 = 0x0 ∧ fld w 21 5 = 0x0 then some (.br (bits w 16 5))
  else if fld w 0 16 = 0x1 ∧ fld w 21 5 = 0x0 then some (.blr (bits w 16 5))
  else none

/-- The rows of major 0x14 (03, Table 03-3). -/
def decodeMajor14 (w : Nat) : Option Instr :=
  if fld w 0 26 = 0x0 then some .nop
  else if fld w 8 18 = 0x1 then some (.yield (bits w 0 8))
  else if fld w 0 26 = 0x200 then some .texit
  else if fld w 8 13 = 0x10 then some (.mfs (bits w 21 5) (bits w 0 8))
  else if fld w 8 8 = 0x11 ∧ fld w 21 5 = 0x0 then some (.mts (bits w 16 5) (bits w 0 8))
  else none

/-- The rows of major 0x15 (03, Table 03-3). -/
def decodeMajor15 (w : Nat) : Option Instr :=
  if fld w 0 2 = 0x0 then some (.repf (bits w 21 5) (bits w 16 5) (bits w 11 5) (bits w 6 5) (bits w 2 4))
  else none

/-- The rows of major 0x16 (03, Table 03-3). -/
def decodeMajor16 (w : Nat) : Option Instr :=
  if fld w 8 8 = 0x0 ∧ fld w 21 5 = 0x0 then some (.trap (bits w 16 5) (bits w 0 8))
  else if fld w 8 18 = 0x1 then some (.brk (bits w 0 8))
  else none

/-- The rows of major 0x18 (03, Table 03-3). -/
def decodeMajor18 (w : Nat) : Option Instr :=
  if fld w 12 4 = 0x0 then some (.ldB (bits w 21 5) (bits w 16 5) (bits w 0 12))
  else if fld w 12 4 = 0x1 then some (.ldH (bits w 21 5) (bits w 16 5) (bits w 0 12))
  else if fld w 12 4 = 0x2 then some (.ldW (bits w 21 5) (bits w 16 5) (bits w 0 12))
  else if fld w 12 4 = 0x3 then some (.ldD (bits w 21 5) (bits w 16 5) (bits w 0 12))
  else if fld w 12 4 = 0x4 then some (.ldBs (bits w 21 5) (bits w 16 5) (bits w 0 12))
  else if fld w 12 4 = 0x5 then some (.ldHs (bits w 21 5) (bits w 16 5) (bits w 0 12))
  else if fld w 12 4 = 0x6 then some (.ldWs (bits w 21 5) (bits w 16 5) (bits w 0 12))
  else if fld w 12 4 = 0x8 then some (.ldCvt (bits w 21 5) (bits w 16 5) (bits w 0 12))
  else none

/-- The rows of major 0x19 (03, Table 03-3). -/
def decodeMajor19 (w : Nat) : Option Instr :=
  if fld w 12 4 = 0x0 then some (.stB (bits w 21 5) (bits w 16 5) (bits w 0 12))
  else if fld w 12 4 = 0x1 then some (.stH (bits w 21 5) (bits w 16 5) (bits w 0 12))
  else if fld w 12 4 = 0x2 then some (.stW (bits w 21 5) (bits w 16 5) (bits w 0 12))
  else if fld w 12 4 = 0x3 then some (.stD (bits w 21 5) (bits w 16 5) (bits w 0 12))
  else if fld w 12 4 = 0x8 then some (.stCvt (bits w 21 5) (bits w 16 5) (bits w 0 12))
  else if fld w 12 4 = 0xC then some (.stCvtSat (bits w 21 5) (bits w 16 5) (bits w 0 12))
  else none

/-- The rows of major 0x1A (03, Table 03-3). -/
def decodeMajor1A (w : Nat) : Option Instr :=
  if fld w 12 4 = 0x0 then some (.ldf (bits w 21 5) (bits w 16 5) (bits w 0 12))
  else if fld w 12 4 = 0x1 then some (.ldfe (bits w 21 5) (bits w 16 5) (bits w 0 12))
  else if fld w 12 4 = 0x2 then some (.stf (bits w 21 5) (bits w 16 5) (bits w 0 12))
  else if fld w 12 4 = 0x3 then some (.stff (bits w 21 5) (bits w 16 5) (bits w 0 12))
  else if fld w 12 4 = 0x4 ∧ fld w 21 5 = 0x0 then some (.sete (bits w 16 5) (bits w 0 12))
  else if fld w 12 4 = 0x5 ∧ fld w 21 5 = 0x0 then some (.setf (bits w 16 5) (bits w 0 12))
  else none

/-- The rows of major 0x1B (03, Table 03-3). -/
def decodeMajor1B (w : Nat) : Option Instr :=
  if fld w 0 4 = 0x0 ∧ fld w 5 6 = 0x0 then some (.amoAdd (bits w 21 5) (bits w 16 5) (bits w 11 5) (bits w 4 1))
  else if fld w 0 4 = 0x1 ∧ fld w 5 6 = 0x0 then some (.amoMin (bits w 21 5) (bits w 16 5) (bits w 11 5) (bits w 4 1))
  else if fld w 0 4 = 0x2 ∧ fld w 5 6 = 0x0 then some (.amoMax (bits w 21 5) (bits w 16 5) (bits w 11 5) (bits w 4 1))
  else if fld w 0 4 = 0x3 ∧ fld w 5 6 = 0x0 then some (.amoMinu (bits w 21 5) (bits w 16 5) (bits w 11 5) (bits w 4 1))
  else if fld w 0 4 = 0x4 ∧ fld w 5 6 = 0x0 then some (.amoMaxu (bits w 21 5) (bits w 16 5) (bits w 11 5) (bits w 4 1))
  else if fld w 0 4 = 0x5 ∧ fld w 5 6 = 0x0 then some (.amoSwap (bits w 21 5) (bits w 16 5) (bits w 11 5) (bits w 4 1))
  else if fld w 0 4 = 0x6 ∧ fld w 5 6 = 0x0 then some (.amoCas (bits w 21 5) (bits w 16 5) (bits w 11 5) (bits w 4 1))
  else if fld w 0 4 = 0x7 ∧ fld w 5 6 = 0x0 then some (.amoAnd (bits w 21 5) (bits w 16 5) (bits w 11 5) (bits w 4 1))
  else if fld w 0 4 = 0x8 ∧ fld w 5 6 = 0x0 then some (.amoOr (bits w 21 5) (bits w 16 5) (bits w 11 5) (bits w 4 1))
  else if fld w 0 4 = 0x9 ∧ fld w 5 6 = 0x0 then some (.amoXor (bits w 21 5) (bits w 16 5) (bits w 11 5) (bits w 4 1))
  else if fld w 0 11 = 0xA then some (.amoFadd (bits w 21 5) (bits w 16 5) (bits w 11 5))
  else none

/-- The rows of major 0x1C (03, Table 03-3). -/
def decodeMajor1C (w : Nat) : Option Instr :=
  if fld w 12 4 = 0x0 then some (.syncarm (bits w 21 5) (bits w 16 5) (bits w 0 12))
  else if fld w 12 4 = 0x1 then some (.syncadd (bits w 21 5) (bits w 16 5) (bits w 0 12))
  else if fld w 12 4 = 0x2 then some (.waitgen (bits w 21 5) (bits w 16 5) (bits w 0 12))
  else none

/-- The rows of major 0x1D (03, Table 03-3). -/
def decodeMajor1D (w : Nat) : Option Instr :=
  if fld w 0 26 = 0x0 then some .rlx
  else none

/-- The rows of major 0x1E (03, Table 03-3). -/
def decodeMajor1E (w : Nat) : Option Instr :=
  if fld w 5 11 = 0x0 then some (.padd (bits w 21 5) (bits w 16 5) (bits w 0 5))
  else if fld w 8 8 = 0x1 then some (.paddImm (bits w 21 5) (bits w 16 5) (bits w 0 8))
  else if fld w 3 13 = 0x40 then some (.pset (bits w 21 5) (bits w 16 5) (bits w 0 3))
  else if fld w 6 2 = 0x0 ∧ fld w 11 5 = 0x1 then some (.pfmt (bits w 21 5) (bits w 16 5) (bits w 8 3) (bits w 0 6))
  else if fld w 2 14 = 0x400 ∧ fld w 19 2 = 0x0 then some (.segrd (bits w 21 5) (bits w 16 3) (bits w 0 2))
  else if fld w 6 2 = 0x0 ∧ fld w 12 4 = 0x2 then some (.probe (bits w 21 5) (bits w 16 5) (bits w 8 4) (bits w 0 6))
  else if fld w 5 3 = 0x0 ∧ fld w 14 2 = 0x3 ∧ fld w 24 2 = 0x0 then some (.segnar (bits w 21 3) (bits w 16 5) (bits w 8 6) (bits w 0 5))
  else none

/-- The rows of major 0x1F (03, Table 03-3). -/
def decodeMajor1F (w : Nat) : Option Instr :=
  if fld w 12 4 = 0x0 then some (.bld (bits w 21 5) (bits w 16 5) (bits w 10 2) (bits w 0 10))
  else if fld w 12 4 = 0x1 then some (.bst (bits w 21 5) (bits w 16 5) (bits w 10 2) (bits w 0 10))
  else if fld w 12 4 = 0x2 then some (.wphase (bits w 21 5) (bits w 16 5) (bits w 0 12))
  else if fld w 12 4 = 0x3 ∧ fld w 21 5 = 0x0 then some (.wwait (bits w 16 5) (bits w 0 12))
  else if fld w 8 13 = 0x40 then some (.bmaprd (bits w 21 5) (bits w 6 2) (bits w 0 6))
  else none

/-- The rows of major 0x20 (03, Table 03-3). -/
def decodeMajor20 (w : Nat) : Option Instr :=
  if fld w 24 2 = 0x0 then some (.vadd (bits w 22 2) (bits w 19 3) (bits w 14 5) (bits w 9 5) (bits w 4 5) (bits w 1 3) (bits w 0 1))
  else if fld w 24 2 = 0x1 then some (.vsub (bits w 22 2) (bits w 19 3) (bits w 14 5) (bits w 9 5) (bits w 4 5) (bits w 1 3) (bits w 0 1))
  else if fld w 24 2 = 0x2 then some (.vmul (bits w 22 2) (bits w 19 3) (bits w 14 5) (bits w 9 5) (bits w 4 5) (bits w 1 3) (bits w 0 1))
  else if fld w 24 2 = 0x3 then some (.vfma (bits w 22 2) (bits w 19 3) (bits w 14 5) (bits w 9 5) (bits w 4 5) (bits w 1 3) (bits w 0 1))
  else none

/-- The rows of major 0x21 (03, Table 03-3). -/
def decodeMajor21 (w : Nat) : Option Instr :=
  if fld w 21 5 = 0x0 then some (.vmin (bits w 19 2) (bits w 14 5) (bits w 9 5) (bits w 4 5) (bits w 1 3) (bits w 0 1))
  else if fld w 21 5 = 0x1 then some (.vmax (bits w 19 2) (bits w 14 5) (bits w 9 5) (bits w 4 5) (bits w 1 3) (bits w 0 1))
  else if fld w 0 1 = 0x0 ∧ fld w 4 5 = 0x0 ∧ fld w 21 5 = 0x2 then some (.vabs (bits w 19 2) (bits w 14 5) (bits w 9 5) (bits w 1 3))
  else if fld w 0 1 = 0x0 ∧ fld w 4 5 = 0x0 ∧ fld w 21 5 = 0x3 then some (.vneg (bits w 19 2) (bits w 14 5) (bits w 9 5) (bits w 1 3))
  else if fld w 19 7 = 0x10 then some (.vand (bits w 14 5) (bits w 9 5) (bits w 4 5) (bits w 1 3) (bits w 0 1))
  else if fld w 19 7 = 0x14 then some (.vor (bits w 14 5) (bits w 9 5) (bits w 4 5) (bits w 1 3) (bits w 0 1))
  else if fld w 19 7 = 0x18 then some (.vxor (bits w 14 5) (bits w 9 5) (bits w 4 5) (bits w 1 3) (bits w 0 1))
  else if fld w 19 7 = 0x1C then some (.vshl (bits w 14 5) (bits w 9 5) (bits w 4 5) (bits w 1 3) (bits w 0 1))
  else if fld w 21 5 = 0x8 then some (.vshr (bits w 19 2) (bits w 14 5) (bits w 9 5) (bits w 4 5) (bits w 1 3) (bits w 0 1))
  else if fld w 17 2 = 0x0 ∧ fld w 21 5 = 0x9 then some (.vcmpEq (bits w 19 2) (bits w 14 3) (bits w 9 5) (bits w 4 5) (bits w 1 3) (bits w 0 1))
  else if fld w 17 2 = 0x0 ∧ fld w 21 5 = 0xA then some (.vcmpLt (bits w 19 2) (bits w 14 3) (bits w 9 5) (bits w 4 5) (bits w 1 3) (bits w 0 1))
  else if fld w 17 2 = 0x0 ∧ fld w 21 5 = 0xB then some (.vcmpLe (bits w 19 2) (bits w 14 3) (bits w 9 5) (bits w 4 5) (bits w 1 3) (bits w 0 1))
  else if fld w 17 2 = 0x0 ∧ fld w 21 5 = 0xC then some (.vcmpUnord (bits w 19 2) (bits w 14 3) (bits w 9 5) (bits w 4 5) (bits w 1 3) (bits w 0 1))
  else if fld w 19 7 = 0x34 then some (.vsel (bits w 14 5) (bits w 9 5) (bits w 4 5) (bits w 1 3) (bits w 0 1))
  else if fld w 1 3 = 0x0 ∧ fld w 19 7 = 0x38 then some (.vperm (bits w 14 5) (bits w 9 5) (bits w 4 5) (bits w 0 1))
  else if fld w 0 1 = 0x1 ∧ fld w 9 5 = 0x0 ∧ fld w 21 5 = 0xF then some (.vbcast (bits w 19 2) (bits w 14 5) (bits w 4 5) (bits w 1 3))
  else if fld w 0 4 = 0x1 ∧ fld w 19 7 = 0x40 then some (.vins (bits w 14 5) (bits w 9 5) (bits w 4 5))
  else if fld w 0 4 = 0x0 ∧ fld w 19 7 = 0x44 then some (.vext (bits w 14 5) (bits w 9 5) (bits w 4 5))
  else if fld w 0 1 = 0x0 ∧ fld w 6 3 = 0x0 ∧ fld w 21 5 = 0x12 then some (.vred (bits w 19 2) (bits w 14 5) (bits w 9 5) (bits w 4 2) (bits w 1 3))
  else if fld w 0 1 = 0x0 ∧ fld w 21 5 = 0x13 then some (.vdot (bits w 19 2) (bits w 14 5) (bits w 9 5) (bits w 4 5) (bits w 1 3))
  else if fld w 0 1 = 0x1 ∧ fld w 19 7 = 0x50 then some (.vdotb (bits w 14 5) (bits w 9 5) (bits w 4 5) (bits w 1 3))
  else if fld w 0 1 = 0x0 ∧ fld w 21 5 = 0x15 then some (.vscan (bits w 19 2) (bits w 14 5) (bits w 9 5) (bits w 6 3) (bits w 4 2) (bits w 1 3))
  else if fld w 0 1 = 0x0 ∧ fld w 6 3 = 0x0 ∧ fld w 21 5 = 0x16 then some (.vtopk (bits w 19 2) (bits w 14 5) (bits w 9 5) (bits w 4 2) (bits w 1 3))
  else none

/-- The rows of major 0x22 (03, Table 03-3). -/
def decodeMajor22 (w : Nat) : Option Instr :=
  if fld w 0 1 = 0x1 ∧ fld w 19 7 = 0x0 then some (.vld (bits w 14 5) (bits w 9 5) (bits w 4 5) (bits w 1 3))
  else if fld w 0 1 = 0x1 ∧ fld w 19 7 = 0x8 then some (.vst (bits w 14 5) (bits w 9 5) (bits w 4 5) (bits w 1 3))
  else if fld w 0 1 = 0x1 ∧ fld w 19 7 = 0x10 then some (.vlds (bits w 14 5) (bits w 9 5) (bits w 4 5) (bits w 1 3))
  else if fld w 0 1 = 0x1 ∧ fld w 19 7 = 0x18 then some (.vsts (bits w 14 5) (bits w 9 5) (bits w 4 5) (bits w 1 3))
  else if fld w 0 1 = 0x1 ∧ fld w 19 7 = 0x20 then some (.vgath (bits w 14 5) (bits w 9 5) (bits w 4 5) (bits w 1 3))
  else if fld w 0 1 = 0x1 ∧ fld w 19 7 = 0x28 then some (.vscat (bits w 14 5) (bits w 9 5) (bits w 4 5) (bits w 1 3))
  else none

/-- The rows of major 0x23 (03, Table 03-3). -/
def decodeMajor23 (w : Nat) : Option Instr :=
  if fld w 24 2 = 0x2 then some (.vcvtFromF32 (bits w 21 3) (bits w 19 2) (bits w 14 5) (bits w 9 5) (bits w 4 5) (bits w 1 3) (bits w 0 1))
  else if fld w 0 1 = 0x0 ∧ fld w 24 2 = 0x3 then some (.vcvtToF32 (bits w 21 3) (bits w 19 2) (bits w 14 5) (bits w 9 5) (bits w 4 5) (bits w 1 3))
  else if fld w 0 1 = 0x0 ∧ fld w 7 2 = 0x0 ∧ fld w 19 2 = 0x0 ∧ fld w 25 1 = 0x0 then some (.vsf (bits w 21 4) (bits w 14 5) (bits w 9 5) (bits w 4 3) (bits w 1 3))
  else none

/-- The rows of major 0x24 (03, Table 03-3). -/
def decodeMajor24 (w : Nat) : Option Instr :=
  if fld w 3 13 = 0x0 ∧ fld w 19 2 = 0x0 ∧ fld w 24 2 = 0x0 then some (.kand (bits w 21 3) (bits w 16 3) (bits w 0 3))
  else if fld w 3 13 = 0x20 ∧ fld w 19 2 = 0x0 ∧ fld w 24 2 = 0x0 then some (.kor (bits w 21 3) (bits w 16 3) (bits w 0 3))
  else if fld w 0 16 = 0x200 ∧ fld w 19 2 = 0x0 ∧ fld w 24 2 = 0x0 then some (.knot (bits w 21 3) (bits w 16 3))
  else if fld w 0 16 = 0x300 ∧ fld w 19 2 = 0x0 ∧ fld w 24 2 = 0x0 then some (.kmovKk (bits w 21 3) (bits w 16 3))
  else if fld w 0 16 = 0x400 ∧ fld w 24 2 = 0x0 then some (.kmovKs (bits w 21 3) (bits w 16 5))
  else if fld w 0 16 = 0x500 ∧ fld w 19 2 = 0x0 then some (.kmovSk (bits w 21 5) (bits w 16 3))
  else if fld w 0 16 = 0x600 ∧ fld w 19 2 = 0x0 then some (.kpop (bits w 21 5) (bits w 16 3))
  else if fld w 0 26 = 0x1000 then some .vfence
  else none

/-- The rows of major 0x25 (03, Table 03-3). -/
def decodeMajor25 (w : Nat) : Option Instr :=
  if fld w 0 4 = 0x1 ∧ fld w 9 17 = 0x0 then some (.hsend (bits w 4 5))
  else if fld w 0 14 = 0x0 ∧ fld w 19 7 = 0x1 then some (.hrecv (bits w 14 5))
  else if fld w 0 9 = 0x0 ∧ fld w 14 12 = 0x40 then some (.hsendv (bits w 9 5))
  else if fld w 0 14 = 0x0 ∧ fld w 19 7 = 0x3 then some (.hrecvv (bits w 14 5))
  else if fld w 0 4 = 0x1 ∧ fld w 19 7 = 0x4 then some (.xscan (bits w 14 5) (bits w 9 5) (bits w 4 5))
  else none

/-- The rows of major 0x28 (03, Table 03-3). -/
def decodeMajor28 (w : Nat) : Option Instr :=
  if fld w 4 17 = 0x0 then some (.oclaim (bits w 21 5) (bits w 3 1) (bits w 0 3))
  else if fld w 0 3 = 0x0 ∧ fld w 4 17 = 0x8 then some (.oclaimAny (bits w 21 5) (bits w 3 1))
  else if fld w 4 22 = 0x10 then some (.orelease (bits w 3 1) (bits w 0 3))
  else if fld w 6 10 = 0x8 ∧ fld w 24 2 = 0x0 then some (.ofill (bits w 21 3) (bits w 16 5) (bits w 0 6))
  else if fld w 6 10 = 0xC ∧ fld w 24 2 = 0x0 then some (.odrain (bits w 21 3) (bits w 16 5) (bits w 0 6))
  else if fld w 0 16 = 0x800 ∧ fld w 21 5 = 0x0 then some (.skset (bits w 16 5))
  else if fld w 8 18 = 0x10 then some (.gang (bits w 0 8))
  else if fld w 0 26 = 0x1100 then some .ungang
  else if fld w 1 25 = 0x1000 then some (.accz (bits w 0 1))
  else if fld w 1 15 = 0x1080 ∧ fld w 21 5 = 0x0 then some (.accld (bits w 16 5) (bits w 0 1))
  else if fld w 8 8 = 0x22 then some (.accst (bits w 21 5) (bits w 16 5) (bits w 7 1) (bits w 4 3) (bits w 1 3) (bits w 0 1))
  else if fld w 8 13 = 0x23 then some (.accrd (bits w 21 5) (bits w 2 6) (bits w 1 1) (bits w 0 1))
  else if fld w 12 4 = 0x4 then some (.mma (bits w 21 5) (bits w 16 5) (bits w 8 4) (bits w 7 1) (bits w 6 1) (bits w 3 3) (bits w 0 3))
  else if fld w 12 4 = 0x5 then some (.mmas (bits w 21 5) (bits w 16 5) (bits w 8 4) (bits w 7 1) (bits w 6 1) (bits w 3 3) (bits w 0 3))
  else if fld w 12 4 = 0x6 then some (.mmaJ (bits w 21 5) (bits w 16 5) (bits w 8 4) (bits w 7 1) (bits w 6 1) (bits w 3 3) (bits w 0 3))
  else if fld w 12 4 = 0x7 then some (.mmasJ (bits w 21 5) (bits w 16 5) (bits w 8 4) (bits w 7 1) (bits w 6 1) (bits w 3 3) (bits w 0 3))
  else none

/-- The rows of major 0x29 (03, Table 03-3). -/
def decodeMajor29 (w : Nat) : Option Instr :=
  if fld w 9 7 = 0x0 then some (.send (bits w 21 5) (bits w 16 5) (bits w 8 1) (bits w 0 8))
  else if fld w 0 16 = 0x200 then some (.recv (bits w 21 5) (bits w 16 5))
  else if fld w 0 16 = 0x300 then some (.recvp (bits w 21 5) (bits w 16 5))
  else if fld w 10 6 = 0x2 then some (.rst (bits w 21 5) (bits w 16 5) (bits w 8 2) (bits w 0 8))
  else if fld w 9 7 = 0x6 then some (.rstV (bits w 21 5) (bits w 16 5) (bits w 8 1) (bits w 0 8))
  else if fld w 10 6 = 0x4 then some (.rld (bits w 21 5) (bits w 16 5) (bits w 8 2) (bits w 0 8))
  else if fld w 5 3 = 0x0 ∧ fld w 13 3 = 0x1 then some (.ramo (bits w 21 5) (bits w 16 5) (bits w 12 1) (bits w 8 4) (bits w 0 5))
  else if fld w 9 7 = 0x20 then some (.amsg (bits w 21 5) (bits w 16 5) (bits w 8 1) (bits w 0 8))
  else if fld w 0 26 = 0x4800 then some .hret
  else none

/-- The rows of major 0x2A (03, Table 03-3). -/
def decodeMajor2A (w : Nat) : Option Instr :=
  if fld w 2 14 = 0x0 then some (.epush (bits w 21 5) (bits w 16 5) (bits w 0 2))
  else if fld w 2 19 = 0x40 then some (.epop (bits w 21 5) (bits w 0 2))
  else if fld w 2 19 = 0x80 then some (.epoll (bits w 21 5) (bits w 0 2))
  else if fld w 2 14 = 0xC0 ∧ fld w 21 5 = 0x0 then some (.ecfg (bits w 16 5) (bits w 0 2))
  else none

/-- The rows of major 0x2B (03, Table 03-3). -/
def decodeMajor2B (w : Nat) : Option Instr :=
  if fld w 0 26 = 0x3 then some .fenceNet
  else if fld w 2 2 = 0x0 ∧ fld w 7 19 = 0x0 then some (.fence (bits w 4 3) (bits w 0 2))
  else if fld w 0 4 = 0x0 ∧ fld w 7 19 = 0x2 then some (.icsync (bits w 4 3))
  else none

/-- The rows of major 0x2C (03, Table 03-3). -/
def decodeMajor2C (w : Nat) : Option Instr :=
  if fld w 0 26 = 0x0 then some .spece
  else if fld w 0 26 = 0x100 then some .spcmp
  else if fld w 0 26 = 0x200 then some .spabort
  else if fld w 0 16 = 0x300 then some (.spappend (bits w 21 5) (bits w 16 5))
  else if fld w 8 13 = 0x4 then some (.spstat (bits w 21 5) (bits w 0 8))
  else if fld w 14 2 = 0x1 then some (.specb (bits w 21 5) (bits w 16 5) (bits w 12 2) (bits w 10 2) (bits w 8 2) (bits w 0 8))
  else none

/-- The rows of major 0x2D (03, Table 03-3). -/
def decodeMajor2D (w : Nat) : Option Instr :=
  if fld w 8 8 = 0x0 ∧ fld w 21 5 = 0x0 then some (.logmark (bits w 16 5) (bits w 0 8))
  else none

/-- The rows of major 0x2E (03, Table 03-3). -/
def decodeMajor2E (w : Nat) : Option Instr :=
  if fld w 0 16 = 0x0 then some (.launch (bits w 21 5) (bits w 16 5))
  else if fld w 0 16 = 0x100 then some (.migrate (bits w 21 5) (bits w 16 5))
  else none

/-- The rows of major 0x2F (03, Table 03-3). -/
def decodeMajor2F (w : Nat) : Option Instr :=
  if fld w 0 16 = 0x100 ∧ fld w 24 2 = 0x0 then some (.segset (bits w 21 3) (bits w 16 5))
  else if fld w 0 16 = 0x200 ∧ fld w 21 5 = 0x0 then some (.wheelset (bits w 16 5))
  else if fld w 6 10 = 0xC ∧ fld w 18 3 = 0x0 then some (.bankret (bits w 21 5) (bits w 16 2) (bits w 0 6))
  else if fld w 0 16 = 0x800 then some (.logctlRead (bits w 21 5) (bits w 16 5))
  else if fld w 0 16 = 0x801 then some (.logctlRing (bits w 21 5) (bits w 16 5))
  else if fld w 0 16 = 0x802 then some (.logctlMode (bits w 21 5) (bits w 16 5))
  else if fld w 0 16 = 0x803 then some (.logctlTail (bits w 21 5) (bits w 16 5))
  else if fld w 0 16 = 0x804 then some (.logctlHead (bits w 21 5) (bits w 16 5))
  else if fld w 4 12 = 0x100 then some (.ctxsave (bits w 21 5) (bits w 16 5) (bits w 0 4))
  else if fld w 0 16 = 0x1100 then some (.ctxload (bits w 21 5) (bits w 16 5))
  else if fld w 0 21 = 0x1200 then some (.colour (bits w 21 5))
  else if fld w 0 16 = 0x1300 then some (.wakeResume (bits w 21 5) (bits w 16 5))
  else if fld w 0 16 = 0x1301 then some (.wakeFault (bits w 21 5) (bits w 16 5))
  else if fld w 0 16 = 0x1302 then some (.wakeAbandon (bits w 21 5) (bits w 16 5))
  else none

/-- The rows of major 0x30 (03, Table 03-3). -/
def decodeMajor30 (w : Nat) : Option Instr :=
  if fld w 0 3 = 0x0 ∧ fld w 6 5 = 0x0 then some (.fadd (bits w 21 5) (bits w 16 5) (bits w 11 5) (bits w 3 3))
  else if fld w 0 3 = 0x1 ∧ fld w 6 5 = 0x0 then some (.fmul (bits w 21 5) (bits w 16 5) (bits w 11 5) (bits w 3 3))
  else if fld w 0 3 = 0x2 then some (.ffma (bits w 21 5) (bits w 16 5) (bits w 11 5) (bits w 6 5) (bits w 3 3))
  else if fld w 0 6 = 0x3 then some (.fcmp (bits w 21 5) (bits w 16 5) (bits w 11 5) (bits w 6 5))
  else if fld w 0 3 = 0x4 then some (.fcvt (bits w 21 5) (bits w 16 5) (bits w 11 5) (bits w 6 5) (bits w 3 3))
  else none

/-- The rows of major 0x31 (03, Table 03-3). -/
def decodeMajor31 (w : Nat) : Option Instr :=
  if fld w 0 1 = 0x0 ∧ fld w 4 5 = 0x0 ∧ fld w 21 5 = 0x0 then some (.vscanlr (bits w 19 2) (bits w 14 5) (bits w 9 5) (bits w 1 3))
  else none

/-- The decoder by major opcode (03, Table 03-3): `none` where the minor code or a reserved bit refuses the word. -/
def decodeByMajor (w : Nat) : Except DecodeError Instr :=
  let found : Option Instr :=
    match w / 2 ^ 26 % 2 ^ 6 with
    | 0x01 => decodeMajor01 w
    | 0x02 => decodeMajor02 w
    | 0x03 => decodeMajor03 w
    | 0x04 => decodeMajor04 w
    | 0x05 => decodeMajor05 w
    | 0x06 => decodeMajor06 w
    | 0x07 => decodeMajor07 w
    | 0x08 => decodeMajor08 w
    | 0x09 => decodeMajor09 w
    | 0x0A => decodeMajor0A w
    | 0x10 => decodeMajor10 w
    | 0x11 => decodeMajor11 w
    | 0x12 => decodeMajor12 w
    | 0x13 => decodeMajor13 w
    | 0x14 => decodeMajor14 w
    | 0x15 => decodeMajor15 w
    | 0x16 => decodeMajor16 w
    | 0x18 => decodeMajor18 w
    | 0x19 => decodeMajor19 w
    | 0x1A => decodeMajor1A w
    | 0x1B => decodeMajor1B w
    | 0x1C => decodeMajor1C w
    | 0x1D => decodeMajor1D w
    | 0x1E => decodeMajor1E w
    | 0x1F => decodeMajor1F w
    | 0x20 => decodeMajor20 w
    | 0x21 => decodeMajor21 w
    | 0x22 => decodeMajor22 w
    | 0x23 => decodeMajor23 w
    | 0x24 => decodeMajor24 w
    | 0x25 => decodeMajor25 w
    | 0x28 => decodeMajor28 w
    | 0x29 => decodeMajor29 w
    | 0x2A => decodeMajor2A w
    | 0x2B => decodeMajor2B w
    | 0x2C => decodeMajor2C w
    | 0x2D => decodeMajor2D w
    | 0x2E => decodeMajor2E w
    | 0x2F => decodeMajor2F w
    | 0x30 => decodeMajor30 w
    | 0x31 => decodeMajor31 w
    | _ => none
  match found with
  | some i => .ok i
  | none =>
    if definedMajor (w / 2 ^ 26 % 2 ^ 6) then .error .undefinedMinorOrReservedBit else .error .reservedMajor

/-- The instruction a 32-bit word stands for, or the name of the check of R56 that refuses it. -/
def decode (w : BitVec 32) : Except DecodeError Instr := decodeByMajor w.toNat

/-- The 32-bit word of four bytes, the first at the lowest address holding bits [7:0] (R51). -/
def wordOfBytes (b0 b1 b2 b3 : Byte) : BitVec 32 := b3 ++ b2 ++ b1 ++ b0

/-- Decoding from bytes: the instruction and the bytes after it. -/
def decodeBytes : List Byte → Except DecodeError (Instr × List Byte)
  | b0 :: b1 :: b2 :: b3 :: rest =>
    match decode (wordOfBytes b0 b1 b2 b3) with
    | .ok i => .ok (i, rest)
    | .error e => .error e
  | _ => .error .shortWord

/-- The four bytes of a word as code memory holds it, little-endian (R51). -/
def bytesOfWord (w : BitVec 32) : List Byte :=
  [w.extractLsb' 0 8, w.extractLsb' 8 8, w.extractLsb' 16 8, w.extractLsb' 24 8]

/-- The instruction this decoder reads from the opcode-table word `w` of `nbits` bits (every row with a word has 32). -/
def decodeTableWord (nbits w : Nat) : Option Instr :=
  if nbits ≤ 32 then
    match decodeBytes (bytesOfWord (BitVec.ofNat 32 w)) with
    | .ok (i, _) => some i
    | .error _ => none
  else none

/-- The fixed bits `m` of a row with each field's value placed at its lowest bit. -/
def place (m : Nat) : List (Nat × Nat) → Nat
  | [] => m
  | f :: fs => place m fs + f.1 * 2 ^ f.2

/-- The number of an instruction's word; `none` for the table's events, which no word encodes. -/
def encodeNat : Instr → Option Nat
  | .add d a b => some (place 0x04000000 [(d.toNat, 21), (a.toNat, 16), (b.toNat, 11)])
  | .sub d a b => some (place 0x04000001 [(d.toNat, 21), (a.toNat, 16), (b.toNat, 11)])
  | .mul d a b => some (place 0x04000002 [(d.toNat, 21), (a.toNat, 16), (b.toNat, 11)])
  | .mulh d a b => some (place 0x04000003 [(d.toNat, 21), (a.toNat, 16), (b.toNat, 11)])
  | .mulhu d a b => some (place 0x04000004 [(d.toNat, 21), (a.toNat, 16), (b.toNat, 11)])
  | .div d a b => some (place 0x04000005 [(d.toNat, 21), (a.toNat, 16), (b.toNat, 11)])
  | .divu d a b => some (place 0x04000006 [(d.toNat, 21), (a.toNat, 16), (b.toNat, 11)])
  | .rem d a b => some (place 0x04000007 [(d.toNat, 21), (a.toNat, 16), (b.toNat, 11)])
  | .remu d a b => some (place 0x04000008 [(d.toNat, 21), (a.toNat, 16), (b.toNat, 11)])
  | .and d a b => some (place 0x04000010 [(d.toNat, 21), (a.toNat, 16), (b.toNat, 11)])
  | .or d a b => some (place 0x04000011 [(d.toNat, 21), (a.toNat, 16), (b.toNat, 11)])
  | .xor d a b => some (place 0x04000012 [(d.toNat, 21), (a.toNat, 16), (b.toNat, 11)])
  | .shl d a b => some (place 0x04000018 [(d.toNat, 21), (a.toNat, 16), (b.toNat, 11)])
  | .shr d a b => some (place 0x04000019 [(d.toNat, 21), (a.toNat, 16), (b.toNat, 11)])
  | .sar d a b => some (place 0x0400001A [(d.toNat, 21), (a.toNat, 16), (b.toNat, 11)])
  | .rol d a b => some (place 0x0400001B [(d.toNat, 21), (a.toNat, 16), (b.toNat, 11)])
  | .min d a b => some (place 0x04000020 [(d.toNat, 21), (a.toNat, 16), (b.toNat, 11)])
  | .max d a b => some (place 0x04000021 [(d.toNat, 21), (a.toNat, 16), (b.toNat, 11)])
  | .minu d a b => some (place 0x04000022 [(d.toNat, 21), (a.toNat, 16), (b.toNat, 11)])
  | .maxu d a b => some (place 0x04000023 [(d.toNat, 21), (a.toNat, 16), (b.toNat, 11)])
  | .clz d a => some (place 0x04000028 [(d.toNat, 21), (a.toNat, 16)])
  | .ctz d a => some (place 0x04000029 [(d.toNat, 21), (a.toNat, 16)])
  | .popc d a => some (place 0x0400002A [(d.toNat, 21), (a.toNat, 16)])
  | .bswap d a => some (place 0x0400002B [(d.toNat, 21), (a.toNat, 16)])
  | .addi d a i => some (place 0x08000000 [(d.toNat, 21), (a.toNat, 16), (i.toNat, 0)])
  | .andi d a i => some (place 0x0C000000 [(d.toNat, 21), (a.toNat, 16), (i.toNat, 0)])
  | .ori d a i => some (place 0x10000000 [(d.toNat, 21), (a.toNat, 16), (i.toNat, 0)])
  | .xori d a i => some (place 0x14000000 [(d.toNat, 21), (a.toNat, 16), (i.toNat, 0)])
  | .shli d a n => some (place 0x18000000 [(d.toNat, 21), (a.toNat, 16), (n.toNat, 0)])
  | .shri d a n => some (place 0x18004000 [(d.toNat, 21), (a.toNat, 16), (n.toNat, 0)])
  | .sari d a n => some (place 0x18008000 [(d.toNat, 21), (a.toNat, 16), (n.toNat, 0)])
  | .limm d i => some (place 0x1C000000 [(d.toNat, 21), (i.toNat, 0)])
  | .limmh d q i => some (place 0x20000000 [(d.toNat, 21), (q.toNat, 16), (i.toNat, 0)])
  | .bext d a w o => some (place 0x24000000 [(d.toNat, 21), (a.toNat, 16), (w.toNat, 8), (o.toNat, 0)])
  | .bins d a w o => some (place 0x24008000 [(d.toNat, 21), (a.toNat, 16), (w.toNat, 8), (o.toNat, 0)])
  | .cmpeq d a b => some (place 0x28000000 [(d.toNat, 21), (a.toNat, 16), (b.toNat, 11)])
  | .cmplt d a b => some (place 0x28000001 [(d.toNat, 21), (a.toNat, 16), (b.toNat, 11)])
  | .cmpltu d a b => some (place 0x28000002 [(d.toNat, 21), (a.toNat, 16), (b.toNat, 11)])
  | .sel d a b c => some (place 0x28000003 [(d.toNat, 21), (a.toNat, 16), (b.toNat, 11), (c.toNat, 6)])
  | .b o => some (place 0x40000000 [(o.toNat, 0)])
  | .bl o => some (place 0x44000000 [(o.toNat, 0)])
  | .beq a b o => some (place 0x48000000 [(a.toNat, 21), (b.toNat, 16), (o.toNat, 0)])
  | .bne a b o => some (place 0x48002000 [(a.toNat, 21), (b.toNat, 16), (o.toNat, 0)])
  | .blt a b o => some (place 0x48004000 [(a.toNat, 21), (b.toNat, 16), (o.toNat, 0)])
  | .bge a b o => some (place 0x48006000 [(a.toNat, 21), (b.toNat, 16), (o.toNat, 0)])
  | .bltu a b o => some (place 0x48008000 [(a.toNat, 21), (b.toNat, 16), (o.toNat, 0)])
  | .bgeu a b o => some (place 0x4800A000 [(a.toNat, 21), (b.toNat, 16), (o.toNat, 0)])
  | .br a => some (place 0x4C000000 [(a.toNat, 16)])
  | .blr a => some (place 0x4C000001 [(a.toNat, 16)])
  | .nop => some (place 0x50000000 [])
  | .yield n => some (place 0x50000100 [(n.toNat, 0)])
  | .texit => some (place 0x50000200 [])
  | .mfs d r => some (place 0x50001000 [(d.toNat, 21), (r.toNat, 0)])
  | .mts a r => some (place 0x50001100 [(a.toNat, 16), (r.toNat, 0)])
  | .repf n d a b l => some (place 0x54000000 [(n.toNat, 21), (d.toNat, 16), (a.toNat, 11), (b.toNat, 6), (l.toNat, 2)])
  | .trap a n => some (place 0x58000000 [(a.toNat, 16), (n.toNat, 0)])
  | .brk n => some (place 0x58000100 [(n.toNat, 0)])
  | .ldB d a o => some (place 0x60000000 [(d.toNat, 21), (a.toNat, 16), (o.toNat, 0)])
  | .ldH d a o => some (place 0x60001000 [(d.toNat, 21), (a.toNat, 16), (o.toNat, 0)])
  | .ldW d a o => some (place 0x60002000 [(d.toNat, 21), (a.toNat, 16), (o.toNat, 0)])
  | .ldD d a o => some (place 0x60003000 [(d.toNat, 21), (a.toNat, 16), (o.toNat, 0)])
  | .ldBs d a o => some (place 0x60004000 [(d.toNat, 21), (a.toNat, 16), (o.toNat, 0)])
  | .ldHs d a o => some (place 0x60005000 [(d.toNat, 21), (a.toNat, 16), (o.toNat, 0)])
  | .ldWs d a o => some (place 0x60006000 [(d.toNat, 21), (a.toNat, 16), (o.toNat, 0)])
  | .ldCvt d a o => some (place 0x60008000 [(d.toNat, 21), (a.toNat, 16), (o.toNat, 0)])
  | .stB d a o => some (place 0x64000000 [(d.toNat, 21), (a.toNat, 16), (o.toNat, 0)])
  | .stH d a o => some (place 0x64001000 [(d.toNat, 21), (a.toNat, 16), (o.toNat, 0)])
  | .stW d a o => some (place 0x64002000 [(d.toNat, 21), (a.toNat, 16), (o.toNat, 0)])
  | .stD d a o => some (place 0x64003000 [(d.toNat, 21), (a.toNat, 16), (o.toNat, 0)])
  | .stCvt d a o => some (place 0x64008000 [(d.toNat, 21), (a.toNat, 16), (o.toNat, 0)])
  | .stCvtSat d a o => some (place 0x6400C000 [(d.toNat, 21), (a.toNat, 16), (o.toNat, 0)])
  | .ldf d a o => some (place 0x68000000 [(d.toNat, 21), (a.toNat, 16), (o.toNat, 0)])
  | .ldfe d a o => some (place 0x68001000 [(d.toNat, 21), (a.toNat, 16), (o.toNat, 0)])
  | .stf d a o => some (place 0x68002000 [(d.toNat, 21), (a.toNat, 16), (o.toNat, 0)])
  | .stff d a o => some (place 0x68003000 [(d.toNat, 21), (a.toNat, 16), (o.toNat, 0)])
  | .sete a o => some (place 0x68004000 [(a.toNat, 16), (o.toNat, 0)])
  | .setf a o => some (place 0x68005000 [(a.toNat, 16), (o.toNat, 0)])
  | .amoAdd d a b s => some (place 0x6C000000 [(d.toNat, 21), (a.toNat, 16), (b.toNat, 11), (s.toNat, 4)])
  | .amoMin d a b s => some (place 0x6C000001 [(d.toNat, 21), (a.toNat, 16), (b.toNat, 11), (s.toNat, 4)])
  | .amoMax d a b s => some (place 0x6C000002 [(d.toNat, 21), (a.toNat, 16), (b.toNat, 11), (s.toNat, 4)])
  | .amoMinu d a b s => some (place 0x6C000003 [(d.toNat, 21), (a.toNat, 16), (b.toNat, 11), (s.toNat, 4)])
  | .amoMaxu d a b s => some (place 0x6C000004 [(d.toNat, 21), (a.toNat, 16), (b.toNat, 11), (s.toNat, 4)])
  | .amoSwap d a b s => some (place 0x6C000005 [(d.toNat, 21), (a.toNat, 16), (b.toNat, 11), (s.toNat, 4)])
  | .amoCas d a b s => some (place 0x6C000006 [(d.toNat, 21), (a.toNat, 16), (b.toNat, 11), (s.toNat, 4)])
  | .amoAnd d a b s => some (place 0x6C000007 [(d.toNat, 21), (a.toNat, 16), (b.toNat, 11), (s.toNat, 4)])
  | .amoOr d a b s => some (place 0x6C000008 [(d.toNat, 21), (a.toNat, 16), (b.toNat, 11), (s.toNat, 4)])
  | .amoXor d a b s => some (place 0x6C000009 [(d.toNat, 21), (a.toNat, 16), (b.toNat, 11), (s.toNat, 4)])
  | .amoFadd d a b => some (place 0x6C00000A [(d.toNat, 21), (a.toNat, 16), (b.toNat, 11)])
  | .syncarm d a o => some (place 0x70000000 [(d.toNat, 21), (a.toNat, 16), (o.toNat, 0)])
  | .syncadd d a o => some (place 0x70001000 [(d.toNat, 21), (a.toNat, 16), (o.toNat, 0)])
  | .waitgen d a o => some (place 0x70002000 [(d.toNat, 21), (a.toNat, 16), (o.toNat, 0)])
  | .rlx => some (place 0x74000000 [])
  | .padd d a b => some (place 0x78000000 [(d.toNat, 21), (a.toNat, 16), (b.toNat, 0)])
  | .paddImm d a i => some (place 0x78000100 [(d.toNat, 21), (a.toNat, 16), (i.toNat, 0)])
  | .pset d a n => some (place 0x78000200 [(d.toNat, 21), (a.toNat, 16), (n.toNat, 0)])
  | .pfmt d a l f => some (place 0x78000800 [(d.toNat, 21), (a.toNat, 16), (l.toNat, 8), (f.toNat, 0)])
  | .segrd d n w => some (place 0x78001000 [(d.toNat, 21), (n.toNat, 16), (w.toNat, 0)])
  | .probe d a s r => some (place 0x78002000 [(d.toNat, 21), (a.toNat, 16), (s.toNat, 8), (r.toNat, 0)])
  | .segnar n a r b => some (place 0x7800C000 [(n.toNat, 21), (a.toNat, 16), (r.toNat, 8), (b.toNat, 0)])
  | .bld d a q o => some (place 0x7C000000 [(d.toNat, 21), (a.toNat, 16), (q.toNat, 10), (o.toNat, 0)])
  | .bst d a q o => some (place 0x7C001000 [(d.toNat, 21), (a.toNat, 16), (q.toNat, 10), (o.toNat, 0)])
  | .wphase d a o => some (place 0x7C002000 [(d.toNat, 21), (a.toNat, 16), (o.toNat, 0)])
  | .wwait a i => some (place 0x7C003000 [(a.toNat, 16), (i.toNat, 0)])
  | .bmaprd d c i => some (place 0x7C004000 [(d.toNat, 21), (c.toNat, 6), (i.toNat, 0)])
  | .vadd t r d a x k s => some (place 0x80000000 [(t.toNat, 22), (r.toNat, 19), (d.toNat, 14), (a.toNat, 9), (x.toNat, 4), (k.toNat, 1), (s.toNat, 0)])
  | .vsub t r d a x k s => some (place 0x81000000 [(t.toNat, 22), (r.toNat, 19), (d.toNat, 14), (a.toNat, 9), (x.toNat, 4), (k.toNat, 1), (s.toNat, 0)])
  | .vmul t r d a x k s => some (place 0x82000000 [(t.toNat, 22), (r.toNat, 19), (d.toNat, 14), (a.toNat, 9), (x.toNat, 4), (k.toNat, 1), (s.toNat, 0)])
  | .vfma t r d a x k s => some (place 0x83000000 [(t.toNat, 22), (r.toNat, 19), (d.toNat, 14), (a.toNat, 9), (x.toNat, 4), (k.toNat, 1), (s.toNat, 0)])
  | .vmin t d a x k s => some (place 0x84000000 [(t.toNat, 19), (d.toNat, 14), (a.toNat, 9), (x.toNat, 4), (k.toNat, 1), (s.toNat, 0)])
  | .vmax t d a x k s => some (place 0x84200000 [(t.toNat, 19), (d.toNat, 14), (a.toNat, 9), (x.toNat, 4), (k.toNat, 1), (s.toNat, 0)])
  | .vabs t d a k => some (place 0x84400000 [(t.toNat, 19), (d.toNat, 14), (a.toNat, 9), (k.toNat, 1)])
  | .vneg t d a k => some (place 0x84600000 [(t.toNat, 19), (d.toNat, 14), (a.toNat, 9), (k.toNat, 1)])
  | .vand d a x k s => some (place 0x84800000 [(d.toNat, 14), (a.toNat, 9), (x.toNat, 4), (k.toNat, 1), (s.toNat, 0)])
  | .vor d a x k s => some (place 0x84A00000 [(d.toNat, 14), (a.toNat, 9), (x.toNat, 4), (k.toNat, 1), (s.toNat, 0)])
  | .vxor d a x k s => some (place 0x84C00000 [(d.toNat, 14), (a.toNat, 9), (x.toNat, 4), (k.toNat, 1), (s.toNat, 0)])
  | .vshl d a x k s => some (place 0x84E00000 [(d.toNat, 14), (a.toNat, 9), (x.toNat, 4), (k.toNat, 1), (s.toNat, 0)])
  | .vshr t d a x k s => some (place 0x85000000 [(t.toNat, 19), (d.toNat, 14), (a.toNat, 9), (x.toNat, 4), (k.toNat, 1), (s.toNat, 0)])
  | .vcmpEq t d a x k s => some (place 0x85200000 [(t.toNat, 19), (d.toNat, 14), (a.toNat, 9), (x.toNat, 4), (k.toNat, 1), (s.toNat, 0)])
  | .vcmpLt t d a x k s => some (place 0x85400000 [(t.toNat, 19), (d.toNat, 14), (a.toNat, 9), (x.toNat, 4), (k.toNat, 1), (s.toNat, 0)])
  | .vcmpLe t d a x k s => some (place 0x85600000 [(t.toNat, 19), (d.toNat, 14), (a.toNat, 9), (x.toNat, 4), (k.toNat, 1), (s.toNat, 0)])
  | .vcmpUnord t d a x k s => some (place 0x85800000 [(t.toNat, 19), (d.toNat, 14), (a.toNat, 9), (x.toNat, 4), (k.toNat, 1), (s.toNat, 0)])
  | .vsel d a x k s => some (place 0x85A00000 [(d.toNat, 14), (a.toNat, 9), (x.toNat, 4), (k.toNat, 1), (s.toNat, 0)])
  | .vperm d a x s => some (place 0x85C00000 [(d.toNat, 14), (a.toNat, 9), (x.toNat, 4), (s.toNat, 0)])
  | .vbcast t d x k => some (place 0x85E00001 [(t.toNat, 19), (d.toNat, 14), (x.toNat, 4), (k.toNat, 1)])
  | .vins d n x => some (place 0x86000001 [(d.toNat, 14), (n.toNat, 9), (x.toNat, 4)])
  | .vext d a n => some (place 0x86200000 [(d.toNat, 14), (a.toNat, 9), (n.toNat, 4)])
  | .vred t d a o k => some (place 0x86400000 [(t.toNat, 19), (d.toNat, 14), (a.toNat, 9), (o.toNat, 4), (k.toNat, 1)])
  | .vdot t d a b k => some (place 0x86600000 [(t.toNat, 19), (d.toNat, 14), (a.toNat, 9), (b.toNat, 4), (k.toNat, 1)])
  | .vdotb d a x k => some (place 0x86800001 [(d.toNat, 14), (a.toNat, 9), (x.toNat, 4), (k.toNat, 1)])
  | .vscan t d a r o k => some (place 0x86A00000 [(t.toNat, 19), (d.toNat, 14), (a.toNat, 9), (r.toNat, 6), (o.toNat, 4), (k.toNat, 1)])
  | .vtopk t d a c k => some (place 0x86C00000 [(t.toNat, 19), (d.toNat, 14), (a.toNat, 9), (c.toNat, 4), (k.toNat, 1)])
  | .vld d a x k => some (place 0x88000001 [(d.toNat, 14), (a.toNat, 9), (x.toNat, 4), (k.toNat, 1)])
  | .vst d a x k => some (place 0x88400001 [(d.toNat, 14), (a.toNat, 9), (x.toNat, 4), (k.toNat, 1)])
  | .vlds d a x k => some (place 0x88800001 [(d.toNat, 14), (a.toNat, 9), (x.toNat, 4), (k.toNat, 1)])
  | .vsts d a x k => some (place 0x88C00001 [(d.toNat, 14), (a.toNat, 9), (x.toNat, 4), (k.toNat, 1)])
  | .vgath d a x k => some (place 0x89000001 [(d.toNat, 14), (a.toNat, 9), (x.toNat, 4), (k.toNat, 1)])
  | .vscat d a x k => some (place 0x89400001 [(d.toNat, 14), (a.toNat, 9), (x.toNat, 4), (k.toNat, 1)])
  | .vcvtFromF32 r q d a x k s => some (place 0x8E000000 [(r.toNat, 21), (q.toNat, 19), (d.toNat, 14), (a.toNat, 9), (x.toNat, 4), (k.toNat, 1), (s.toNat, 0)])
  | .vcvtToF32 r q d a x k => some (place 0x8F000000 [(r.toNat, 21), (q.toNat, 19), (d.toNat, 14), (a.toNat, 9), (x.toNat, 4), (k.toNat, 1)])
  | .vsf f d a r k => some (place 0x8C000000 [(f.toNat, 21), (d.toNat, 14), (a.toNat, 9), (r.toNat, 4), (k.toNat, 1)])
  | .kand d a b => some (place 0x90000000 [(d.toNat, 21), (a.toNat, 16), (b.toNat, 0)])
  | .kor d a b => some (place 0x90000100 [(d.toNat, 21), (a.toNat, 16), (b.toNat, 0)])
  | .knot d a => some (place 0x90000200 [(d.toNat, 21), (a.toNat, 16)])
  | .kmovKk d a => some (place 0x90000300 [(d.toNat, 21), (a.toNat, 16)])
  | .kmovKs d a => some (place 0x90000400 [(d.toNat, 21), (a.toNat, 16)])
  | .kmovSk d a => some (place 0x90000500 [(d.toNat, 21), (a.toNat, 16)])
  | .kpop d a => some (place 0x90000600 [(d.toNat, 21), (a.toNat, 16)])
  | .vfence => some (place 0x90001000 [])
  | .hsend x => some (place 0x94000001 [(x.toNat, 4)])
  | .hrecv d => some (place 0x94080000 [(d.toNat, 14)])
  | .hsendv a => some (place 0x94100000 [(a.toNat, 9)])
  | .hrecvv d => some (place 0x94180000 [(d.toNat, 14)])
  | .xscan d a x => some (place 0x94200001 [(d.toNat, 14), (a.toNat, 9), (x.toNat, 4)])
  | .oclaim d k n => some (place 0xA0000000 [(d.toNat, 21), (k.toNat, 3), (n.toNat, 0)])
  | .oclaimAny d k => some (place 0xA0000080 [(d.toNat, 21), (k.toNat, 3)])
  | .orelease k n => some (place 0xA0000100 [(k.toNat, 3), (n.toNat, 0)])
  | .ofill n a r => some (place 0xA0000200 [(n.toNat, 21), (a.toNat, 16), (r.toNat, 0)])
  | .odrain n a r => some (place 0xA0000300 [(n.toNat, 21), (a.toNat, 16), (r.toNat, 0)])
  | .skset a => some (place 0xA0000800 [(a.toNat, 16)])
  | .gang n => some (place 0xA0001000 [(n.toNat, 0)])
  | .ungang => some (place 0xA0001100 [])
  | .accz c => some (place 0xA0002000 [(c.toNat, 0)])
  | .accld a c => some (place 0xA0002100 [(a.toNat, 16), (c.toNat, 0)])
  | .accst d a s r l c => some (place 0xA0002200 [(d.toNat, 21), (a.toNat, 16), (s.toNat, 7), (r.toNat, 4), (l.toNat, 1), (c.toNat, 0)])
  | .accrd d r h c => some (place 0xA0002300 [(d.toNat, 21), (r.toNat, 2), (h.toNat, 1), (c.toNat, 0)])
  | .mma e g t z c b a => some (place 0xA0004000 [(e.toNat, 21), (g.toNat, 16), (t.toNat, 8), (z.toNat, 7), (c.toNat, 6), (b.toNat, 3), (a.toNat, 0)])
  | .mmas e g t z c b a => some (place 0xA0005000 [(e.toNat, 21), (g.toNat, 16), (t.toNat, 8), (z.toNat, 7), (c.toNat, 6), (b.toNat, 3), (a.toNat, 0)])
  | .mmaJ e g t z c b a => some (place 0xA0006000 [(e.toNat, 21), (g.toNat, 16), (t.toNat, 8), (z.toNat, 7), (c.toNat, 6), (b.toNat, 3), (a.toNat, 0)])
  | .mmasJ e g t z c b a => some (place 0xA0007000 [(e.toNat, 21), (g.toNat, 16), (t.toNat, 8), (z.toNat, 7), (c.toNat, 6), (b.toNat, 3), (a.toNat, 0)])
  | .send d a h t => some (place 0xA4000000 [(d.toNat, 21), (a.toNat, 16), (h.toNat, 8), (t.toNat, 0)])
  | .recv d v => some (place 0xA4000200 [(d.toNat, 21), (v.toNat, 16)])
  | .recvp d v => some (place 0xA4000300 [(d.toNat, 21), (v.toNat, 16)])
  | .rst d a s o => some (place 0xA4000800 [(d.toNat, 21), (a.toNat, 16), (s.toNat, 8), (o.toNat, 0)])
  | .rstV d a h o => some (place 0xA4000C00 [(d.toNat, 21), (a.toNat, 16), (h.toNat, 8), (o.toNat, 0)])
  | .rld d a s o => some (place 0xA4001000 [(d.toNat, 21), (a.toNat, 16), (s.toNat, 8), (o.toNat, 0)])
  | .ramo d a s o b => some (place 0xA4002000 [(d.toNat, 21), (a.toNat, 16), (s.toNat, 12), (o.toNat, 8), (b.toNat, 0)])
  | .amsg d a h t => some (place 0xA4004000 [(d.toNat, 21), (a.toNat, 16), (h.toNat, 8), (t.toNat, 0)])
  | .hret => some (place 0xA4004800 [])
  | .epush b a e => some (place 0xA8000000 [(b.toNat, 21), (a.toNat, 16), (e.toNat, 0)])
  | .epop d e => some (place 0xA8000100 [(d.toNat, 21), (e.toNat, 0)])
  | .epoll d e => some (place 0xA8000200 [(d.toNat, 21), (e.toNat, 0)])
  | .ecfg a e => some (place 0xA8000300 [(a.toNat, 16), (e.toNat, 0)])
  | .fence s k => some (place 0xAC000000 [(s.toNat, 4), (k.toNat, 0)])
  | .fenceNet => some (place 0xAC000003 [])
  | .icsync s => some (place 0xAC000100 [(s.toNat, 4)])
  | .spece => some (place 0xB0000000 [])
  | .spcmp => some (place 0xB0000100 [])
  | .spabort => some (place 0xB0000200 [])
  | .spappend d a => some (place 0xB0000300 [(d.toNat, 21), (a.toNat, 16)])
  | .spstat d n => some (place 0xB0000400 [(d.toNat, 21), (n.toNat, 0)])
  | .specb t n k m g e => some (place 0xB0004000 [(t.toNat, 21), (n.toNat, 16), (k.toNat, 12), (m.toNat, 10), (g.toNat, 8), (e.toNat, 0)])
  | .logmark a t => some (place 0xB4000000 [(a.toNat, 16), (t.toNat, 0)])
  | .launch d a => some (place 0xB8000000 [(d.toNat, 21), (a.toNat, 16)])
  | .migrate d a => some (place 0xB8000100 [(d.toNat, 21), (a.toNat, 16)])
  | .segset n a => some (place 0xBC000100 [(n.toNat, 21), (a.toNat, 16)])
  | .wheelset a => some (place 0xBC000200 [(a.toNat, 16)])
  | .bankret d c b => some (place 0xBC000300 [(d.toNat, 21), (c.toNat, 16), (b.toNat, 0)])
  | .logctlRead d a => some (place 0xBC000800 [(d.toNat, 21), (a.toNat, 16)])
  | .logctlRing d a => some (place 0xBC000801 [(d.toNat, 21), (a.toNat, 16)])
  | .logctlMode d a => some (place 0xBC000802 [(d.toNat, 21), (a.toNat, 16)])
  | .logctlTail d a => some (place 0xBC000803 [(d.toNat, 21), (a.toNat, 16)])
  | .logctlHead d a => some (place 0xBC000804 [(d.toNat, 21), (a.toNat, 16)])
  | .ctxsave d a s => some (place 0xBC001000 [(d.toNat, 21), (a.toNat, 16), (s.toNat, 0)])
  | .ctxload d a => some (place 0xBC001100 [(d.toNat, 21), (a.toNat, 16)])
  | .colour d => some (place 0xBC001200 [(d.toNat, 21)])
  | .wakeResume d a => some (place 0xBC001300 [(d.toNat, 21), (a.toNat, 16)])
  | .wakeFault d a => some (place 0xBC001301 [(d.toNat, 21), (a.toNat, 16)])
  | .wakeAbandon d a => some (place 0xBC001302 [(d.toNat, 21), (a.toNat, 16)])
  | .fadd d a b r => some (place 0xC0000000 [(d.toNat, 21), (a.toNat, 16), (b.toNat, 11), (r.toNat, 3)])
  | .fmul d a b r => some (place 0xC0000001 [(d.toNat, 21), (a.toNat, 16), (b.toNat, 11), (r.toNat, 3)])
  | .ffma d a b c r => some (place 0xC0000002 [(d.toNat, 21), (a.toNat, 16), (b.toNat, 11), (c.toNat, 6), (r.toNat, 3)])
  | .fcmp d a b p => some (place 0xC0000003 [(d.toNat, 21), (a.toNat, 16), (b.toNat, 11), (p.toNat, 6)])
  | .fcvt d a b k r => some (place 0xC0000004 [(d.toNat, 21), (a.toNat, 16), (b.toNat, 11), (k.toNat, 6), (r.toNat, 3)])
  | .vscanlr t d a k => some (place 0xC4000000 [(t.toNat, 19), (d.toNat, 14), (a.toNat, 9), (k.toNat, 1)])
  | .codeFetch => none
  | .deferredTrap => none
  | .breakpointMatch => none
  | .faultPacketSend _ => none
  | .lsAccessPerform _ => none
  | .requestPlace _ => none
  | .wheelMeeting _ => none
  | .farMeeting _ => none
  | .wheelSwap _ => none
  | .bankretComplete _ => none
  | .wwaitWake _ => none
  | .translationWalkEnd _ _ _ => none
  | .vectorCommandStart _ => none
  | .sfRequestStart _ => none
  | .matrixCommandStart _ => none
  | .gangForm _ => none
  | .halyardLand _ => none
  | .messageArrival _ => none
  | .messageRetry _ => none
  | .ackArrival _ => none
  | .replyArrival _ => none
  | .handlerStart _ => none
  | .userHandlerStart _ => none
  | .engineCommandTake _ _ => none
  | .chunkStart _ _ => none
  | .chunkComplete _ _ => none
  | .commandEnd _ _ => none
  | .gatherIndex _ _ => none
  | .appendPerform _ _ => none
  | .a2aArrival _ => none
  | .mailboxCommand _ => none
  | .guessEnd _ => none
  | .windowStart _ => none
  | .specCommit _ => none
  | .replayStall _ => none
  | .logmodeWrite _ _ => none
  | .logptrTailWrite _ _ => none
  | .queueNotify _ _ => none
  | .recordFetch _ => none
  | .recordRefetch _ => none
  | .submissionCheck _ _ => none
  | .qctlWrite _ _ _ => none
  | .qerrClear _ _ => none
  | .windowAllot _ _ _ => none
  | .taskDispatch _ _ _ _ => none
  | .launchComplete _ _ => none
  | .priorityAge _ _ => none
  | .preempt _ _ => none
  | .evictionTest _ => none
  | .contextSave _ => none
  | .contextResume _ _ => none
  | .loadTableRefresh _ => none
  | .migrationInterval _ => none
  | .migrationArrive _ => none
  | .tcinvGo _ _ => none
  | .ptrootWrite _ _ => none
  | .regionReset _ _ _ => none
  | .railFault _ => none
  | .clockFault _ => none
  | .hbmStackFault _ => none
  | .collectiveEngineFault _ => none
  | .packageReset _ => none
  | .windowWrite _ _ _ _ => none
  | .rgintClear _ _ => none
  | .cutStart _ _ => none
  | .cutResum _ => none
  | .cutResend _ => none
  | .clockRequest _ _ => none
  | .clockStepBegin _ => none
  | .clockStepEnd _ => none
  | .linkEnable _ _ => none
  | .linkUp _ _ => none
  | .laneFault _ => none
  | .breakpointWrite _ _ _ => none
  | .profctlWrite _ _ => none
  | .triggerPulse _ _ => none
  | .trigin _ => none
  | .getVersion _ => none
  | .getCapabilities _ => none
  | .negotiateAlgorithms _ => none
  | .getDigests _ => none
  | .getCertificate _ => none
  | .challenge _ => none
  | .getMeasurements _ _ => none
  | .registerWrite _ _ _ _ => none
  | .illegalWord _ => none
  | .issueTurn _ => none
  | .memoryControllerAccess _ => none
  | .hostReadReturn _ => none
  | .mailboxResult _ _ _ => none
  | .unresolvedPageFault _ => none
  | .resetdone _ _ => none

/-- The word of an instruction, from the encoding tables of the spec; `none` for an event. -/
def encode (i : Instr) : Option (BitVec 32) := (encodeNat i).map (BitVec.ofNat 32)

end Sys2Proof
end

