-- ==== Sys2Proof/Machine/Flags.lean ====
section
/-! DEFINITION. Flags and rounding state: FPFLAGS are ORed, never cleared by a result (R43, R44), and the generator steps once for
each element a stochastic conversion converts (R40, R41). -/

namespace Sys2Proof.Machine

/-- The flags of a list of results, ORed (R44). -/
def orFlagList (l : List Flags) : Flags := l.foldl (· ||| ·) 0

/-- The rounding mode an arithmetic instruction of the current thread uses (R37). -/
def State.arithMode (s : State) (r : BitVec 3) : RM := arithRM r.toNat s.th.r.rmode.toNat

/-- The code of the mode a conversion of the current thread uses (R37). -/
def State.convMode (s : State) (r : BitVec 3) : Nat := convCode r.toNat s.th.r.rmode.toNat

/-- A conversion of one element under a mode code: the code, flags, and the generator's next state (R40). -/
def convertStep (f : FFmt) (mode : Nat) (sat : Bool) (seed : Word) (v : FV) : (Nat × Flags) × Word :=
  (f.convert (rmOfCode mode seed) sat v, if mode = 4 then srStep seed else seed)

/-- The same to an integer format. -/
def convertIntStep (f : IFmt) (mode : Nat) (seed : Word) (v : FV) : (Int × Flags) × Word :=
  (f.convert (rmOfCode mode seed) v, if mode = 4 then srStep seed else seed)

end Sys2Proof.Machine
end

