-- ==== Sys2Proof/Machine/Access.lean ====
section
/-! DEFINITION. How an access is performed: full/empty words and their waiters (R138 to R140), sync words (R147 to R153), atomics
(R143), relaxed accesses (R145, R146), the speculation store buffer (R323 to R327, R451), and the strong reads and writes that the
memory instructions are built from. -/

namespace Sys2Proof.Machine

/-! Waiters. -/

def insertBy (key : Nat → Nat × Nat) (x : Nat) : List Nat → List Nat
  | [] => [x]
  | y :: r =>
    if (key x).1 < (key y).1 ∨ ((key x).1 = (key y).1 ∧ (key x).2 < (key y).2) then x :: y :: r else y :: insertBy key x r

/-- The slots parked on a cause, by parking cycle, ties to the lower slot (R140). -/
def State.waiters (s : State) (f : Park → Bool) : List Nat :=
  (s.threadKeys.filter (fun k => (s.getT k).st = .parked && f (s.getT k).w.park)).foldl
    (fun l k => insertBy (fun k => ((s.getT k).w.since, k)) k l) []

/-- A parked instruction completes: its registers are written, it retires, and the slot is READY, or still SAVING. -/
def Thread.complete (t : Thread) (f : Regs → Regs) : Thread :=
  { t with st := if t.st = .saving then .saving else .ready, r := (f t.r).next, is := t.is.done, w := t.w.over }

/-- The event of a waiter served, or of an engine or handler acting for a task. -/
def waiterEv (s : State) (k kind key : Nat) (digest : Word32) (aux : Nat) : Ev :=
  { kind := kind, task := s.groupTask k, object := keyObject key, digest := digest, aux := BitVec.ofNat 32 aux,
    remote := keyRegion key (regionOf (coreOf k)) ≠ regionOf (coreOf k) }

/-- One waiter of a full/empty word tried (R140): the state and whether it was served. -/
def State.serveOne (s : State) (w k : Nat) : State × Bool :=
  match (s.getT k).w.park with
  | .fullEmpty form key value d lseg =>
    if key ≠ w then (s, false)
    else if form = 2 then
      if s.isFull w then (s, false)
      else match s.event (keyRegion w 0) k { waiterEv s k 1 w (value.setWidth 32) 2 with lseg := lseg } with
        | .perform s => (((s.writeLE w 8 value.toNat).setFull w true).updT k (fun t => t.complete id), true)
        | _ => (s, false)
    else if !s.isFull w then (s, false)
    else
      let v := BitVec.ofNat 64 (s.readLE w 8)
      match s.event (keyRegion w 0) k { waiterEv s k 2 w (v.setWidth 32) form with lseg := lseg } with
      | .perform s =>
        let s := if form = 1 then s.setFull w false else s
        (s.updT k (fun t => t.complete (fun r => r.wrS d v)), true)
      | _ => (s, false)
  | _ => (s, false)

def servePass (w : Nat) : List Nat → State → State × Bool
  | [], s => (s, false)
  | k :: r, s =>
    let a := s.serveOne w k
    let b := servePass w r a.1
    (b.1, a.2 || b.2)

def serveLoop (w : Nat) : Nat → State → State
  | 0, s => s
  | n + 1, s =>
    let p := servePass w (s.waiters (fun p => match p with | .fullEmpty _ key _ _ _ => key = w | _ => false)) s
    if p.2 then serveLoop w n p.1 else p.1

/-- serve(w) of R140. Sixteen slots wait at most, and each pass that goes on serves one. -/
def State.serve (s : State) (w : Nat) : State := serveLoop (w - w % 8) 17 s

/-- Bytes stored: poison rules of R133, and the waiters of words that became empty are served. -/
def State.storeCells (s : State) (l : List Host.Cell) : State × Bool :=
  let r := s.writeCells l
  if s.poison = [] then r
  else (((cellWords l).filter (fun w => s.isPoison w && isLs w && !r.1.isPoison w)).foldl (fun s w => s.serve w) r.1, r.2)

/-! Sync words (R147 to R150). -/

def syncTarget (w : BitVec 128) : Nat := w.toNat % 2 ^ 32
def syncCount (w : BitVec 128) : Nat := w.toNat / 2 ^ 32 % 2 ^ 32
def syncGen (w : BitVec 128) : Nat := w.toNat / 2 ^ 64 % 2 ^ 32
def syncPend (w : BitVec 128) : Nat := w.toNat / 2 ^ 96 % 2 ^ 16
def syncMake (target count gen pend : Nat) (fault exceeded err : Bool) : BitVec 128 :=
  BitVec.ofNat 128 (target + count * 2 ^ 32 + gen * 2 ^ 64 + pend * 2 ^ 96 + (if fault then 2 ^ 125 else 0) +
    (if exceeded then 2 ^ 126 else 0) + (if err then 2 ^ 127 else 0))

/-- update(add) of R149: the new word and whether it advanced a generation. -/
def syncUpdate (w : BitVec 128) (add : Nat) : BitVec 128 × Bool :=
  let c := syncCount w + add
  let sat := decide (0xFFFFFFFF < c)
  let c := if sat then 0xFFFFFFFF else c
  if syncTarget w ≠ 0 ∧ syncTarget w ≤ c then
    let c' := c - syncTarget w
    (syncMake (syncTarget w) c' ((syncGen w + 1) % 2 ^ 32) (syncPend w) (w.getLsbD 125)
      (w.getLsbD 126 || sat || c' ≠ 0) (w.getLsbD 127 || sat || c' ≠ 0), true)
  else (syncMake (syncTarget w) c (syncGen w) (syncPend w) (w.getLsbD 125) (w.getLsbD 126 || sat) (w.getLsbD 127 || sat), false)

/-- SYNCARM's word before update(0) (R148). -/
def syncArm (w : BitVec 128) (target : Nat) : BitVec 128 :=
  syncMake target (syncCount w) (syncGen w) (syncPend w) false false false

/-- A change of PEND, modulo its width (R151). -/
def syncPendAdd (w : BitVec 128) (up : Bool) : BitVec 128 :=
  syncMake (syncTarget w) (syncCount w) (syncGen w) ((syncPend w + (if up then 1 else 2 ^ 16 - 1)) % 2 ^ 16)
    (w.getLsbD 125) (w.getLsbD 126) (w.getLsbD 127)

/-- FAULT and ERR set (R151). -/
def syncFault (w : BitVec 128) : BitVec 128 :=
  syncMake (syncTarget w) (syncCount w) (syncGen w) (syncPend w) true (w.getLsbD 126) true

def State.readSync (s : State) (k : Nat) : BitVec 128 := BitVec.ofNat 128 (s.readLE k 16)
def State.writeSync (s : State) (k : Nat) (w : BitVec 128) : State := s.writeLE k 16 w.toNat
def State.syncPoison (s : State) (k : Nat) : Bool := s.isPoison k || s.isPoison (k + 8)

/-- The least key of cells. -/
def firstCell (l : List Host.Cell) : Nat := (l.map (fun c => c.1)).foldl min ((l.headD (0, 0)).1)

/-- The least key of located pieces (R343). -/
def firstKey (l : List (Nat × Nat)) : Nat := (l.map (fun p => p.1)).foldl min ((l.headD (0, 0)).1)

/-- The first key an action touches. -/
def Micro.key : Micro → Nat
  | .write l => firstCell l
  | .read l => firstKey l
  | .conv k _ _ _ _ _ _ => k
  | .fe _ k _ => k
  | .amo _ _ k _ _ => k
  | .sync _ k _ => k
  | .wait k _ _ => k
  | .entry l _ _ => firstCell l
  | .fill _ _ l _ => firstKey l
  | .drain l => firstCell l

/-- The cluster of a bank key. -/
def keyCluster (key : Nat) : Nat := (key - 2 ^ 32) / 2 ^ 23

/-- Whether a request waits in its core's far queue, not its wheel queue (R170). -/
def RelReq.isFar (q : RelReq) : Bool := keyCluster q.op.key ≠ clusterOf (coreOf q.who)

/-- Whether a new request of a slot finds a place in a queue (R161): its entry has one of 32 free and no earlier request is staged. -/
def hasPlace (l : List RelReq) (who : Nat) : Bool :=
  let mine := l.filter (fun y => y.who = who)
  decide (mine.length < 32) && mine.all (fun y => y.placed)

/-- The queue a piece joins: sequencer, wheel queue, far queue, or the path to a memory controller (R288). -/
def State.enqueue (s : State) (q : RelReq) : State :=
  let c := coreOf q.who
  if isLs q.op.key then s.updCore c (fun x => { x with seq := x.seq ++ [q] })
  else if isBank q.op.key then
    if q.isFar then s.updCore c (fun x => { x with far := x.far ++ [{ q with placed := hasPlace x.far q.who }] })
    else s.updCore c (fun x => { x with wheel := x.wheel ++ [{ q with placed := hasPlace x.wheel q.who }] })
  else s.updCore c (fun x => { x with mem := x.mem ++ [q] })

/-- A queued request replaced where it stands. -/
def swapReq (q w : RelReq) : List RelReq → List RelReq
  | [] => []
  | x :: r => if x = q then w :: r else x :: swapReq q w r

/-- A request's place in its queue taken by the access's next one (R450, R161): it stands where the first stood, before what its thread has
queued since. -/
def State.succeed (s : State) (q w : RelReq) : State :=
  let place := fun (l : List RelReq) =>
    { w with placed := decide (((l.erase q).filter (fun y => y.who = q.who && y.placed)).length < 32) &&
      ((l.takeWhile (fun y => y ≠ q)).filter (fun y => y.who = q.who)).all (fun y => y.placed) }
  s.updCore (coreOf q.who) (fun x =>
    if isLs q.op.key then { x with seq := swapReq q w x.seq }
    else if isBank q.op.key then
      if q.isFar then { x with far := swapReq q (place x.far) x.far } else { x with wheel := swapReq q (place x.wheel) x.wheel }
    else { x with mem := swapReq q w x.mem })

/-- The announcement of an advance in bank memory: the waiting core issues its WAITGEN again, which meets the word in its own time (R153). -/
def State.reissueWait (s : State) (k key : Nat) (gen : Word32) (d : Nat) (lseg : Bool) : State :=
  let t := s.getT k
  let no := (s.core (coreOf k)).reqNo + 1
  let s := s.enqueue { who := k, task := s.groupTask k, no := no, pc := t.r.pc, ptr := t.w.acc.ptr, lseg := lseg, strong := true, placed := true,
                       cycle := s.clockAt (coreOf k) + 2, vec := false, via := 0, dst := none, op := .wait key gen d }
  (s.updCore (coreOf k) (fun x => { x with reqNo := no })).updT k (fun t =>
    { t with w.park := .access, w.acc := { t.w.acc with no := no, due := 0, cells := [], got := {} } })

/-- One WAITGEN waiter of an advanced word (R150). -/
def State.releaseOne (key : Nat) (s : State) (k : Nat) : State :=
  match (s.getT k).w.park with
  | .waitgen _ gen d lseg _ =>
    let w := s.readSync key
    if gen.toNat = syncGen w then s
    else if isBank key then s.reissueWait k key gen d lseg
    else match s.event (keyRegion key 0) k { waiterEv s k 2 key (BitVec.ofNat 32 (syncGen w)) 2 with lseg := lseg } with
      | .perform s => s.updT k (fun t => t.complete (fun r => r.wrS d ((w >>> 64).setWidth 64)))
      | _ => s
  | _ => s

def State.syncWaiters (s : State) (key : Nat) : List Nat :=
  s.waiters (fun p => match p with | .waitgen k _ _ _ _ => k = key | _ => false)

/-- release_waiters (R149, R150). -/
def State.release (s : State) (key : Nat) : State := (s.syncWaiters key).foldl (State.releaseOne key) s

/-- Every thread waiting on a poisoned sync word is released and traps BANK_POISON with its own pointer (R152, Table 19-1); its
reserved record is padding (R344). -/
def State.releasePoison (s : State) (key : Nat) : State :=
  (s.syncWaiters key).foldl (fun s k =>
    match (s.getT k).w.park with
    | .waitgen _ _ _ _ ptr => (s.pad (s.groupTask k) (keyRegion key 0)).freeze k tBankPoison ptr 0 (s.getT k).r.pc false false []
    | _ => s) s

/-! Atomics (R143). -/

/-- The new value and flags of an atomic (Table 06-7); operands are the low 32 or 64 bits. -/
def amoNew (op : Nat) (size8 : Bool) (old b cmp : Nat) : Nat × BitVec 4 :=
  let w := if size8 then 64 else 32
  let sg := fun (x : Nat) => if 2 ^ (w - 1) ≤ x then (x : Int) - 2 ^ w else (x : Int)
  match op with
  | 0 => ((old + b) % 2 ^ w, 0)
  | 1 => (if sg old ≤ sg b then old else b, 0)
  | 2 => (if sg b ≤ sg old then old else b, 0)
  | 3 => (min old b, 0)
  | 4 => (max old b, 0)
  | 5 => (b, 0)
  | 6 => (if old = cmp then b else old, 0)
  | 7 => (old &&& b, 0)
  | 8 => (old ||| b, 0)
  | 9 => (old ^^^ b, 0)
  | _ =>
    let r := f32Add .rne (BitVec.ofNat 32 old) (BitVec.ofNat 32 b)
    (r.1.toNat, r.2)

/-- What sd receives: sign-extended for .W, zero-extended for FADD (R143). -/
def amoResult (op : Nat) (size8 : Bool) (old : Nat) : Word :=
  if size8 then BitVec.ofNat 64 old
  else if op = 10 then BitVec.ofNat 64 old
  else (BitVec.ofNat 32 old).signExtend 64

/-! Performing one action. -/

/-- What performing an action at a memory gives. -/
inductive Perf where
  | done (s : State) (g : Got)
  | poison
  | wait
  | diverge (s : State) (object : Word) (report : List Byte)

def Verdict.then (v : Verdict) (f : State → Perf) : Perf :=
  match v with
  | .perform s => f s
  | .wait => .wait
  | .diverge s o r => .diverge s o r

/-- The digest of an access's value: that of a vector access is always its CRC-32C (R224). -/
def digestOf (vec : Bool) (l : List Byte) : Word32 × Bool := if vec then (crc32c l, true) else valueDigest l

/-- Pairs in the order of their first parts, equal ones in the order given: the address order of a digest (Table 16-2). -/
def insertPair {α : Type} (x : Nat × α) : List (Nat × α) → List (Nat × α)
  | [] => [x]
  | y :: r => if x.1 < y.1 then x :: y :: r else y :: insertPair x r

def byAddress {α : Type} (l : List (Nat × α)) : List (Nat × α) := l.foldl (fun r x => insertPair x r) []

/-- What ST.CVT stores (R137): bytes, flags, and the generator's next state. `k` is the scale code, 127 when BL is 0; FP32 sources for floating
formats, INT64 for integer ones. -/
def convStored (f : Format) (sat : Bool) (mode : Nat) (seed : Word) (k : Nat) (x : Word) : (List Byte × Flags) × Word :=
  let y := fun (v : Word32) => if k = 0xFF then FV.nan else (f32 v).scale (127 - (k : Int))
  match f with
  | .flt .e2m1 =>
    let lo := convertStep .e2m1 mode sat seed (y (x.setWidth 32))
    let hi := convertStep .e2m1 mode sat lo.2 (y ((x >>> 32).setWidth 32))
    ((leBytes 1 (lo.1.1 + 16 * hi.1.1), lo.1.2 ||| hi.1.2), hi.2)
  | .flt g =>
    let r := convertStep g mode sat seed (y (x.setWidth 32))
    ((leBytes f.size r.1.1, r.1.2), r.2)
  | .int g => ((leBytes f.size (BitVec.ofInt 64 (g.clamp x.toInt)).toNat, 0), seed)
  | _ => (([], 0), seed)

/-- The ranges an action touches. -/
def Micro.ranges : Micro → List (Nat × Nat)
  | .write l => l.map (fun c => (c.1, 1))
  | .read l => l
  | .conv k l _ _ _ _ _ => (k, 1) :: l
  | .fe _ k _ => [(k, 8)]
  | .amo _ b k _ _ => [(k, if b then 8 else 4)]
  | .sync _ k _ => [(k, 16)]
  | .wait k _ _ => [(k, 16)]
  | .entry l _ _ => l.map (fun c => (c.1, 1))
  | .fill _ _ l sc => l ++ sc
  | .drain l => l.map (fun c => (c.1, 1))

/-- Whether an action is the one sequencer entry of OFILL or ODRAIN (R231). -/
def Micro.isBulk : Micro → Bool
  | .fill .. => true
  | .drain _ => true
  | _ => false

/-- Whether an action reads for its program, and whether it writes (Table 12-10): an atomic does both, and OFILL is waited for by FULL alone. -/
def Micro.isRead : Micro → Bool
  | .read _ => true
  | .amo .. => true
  | .wait .. => true
  | _ => false
def Micro.isWrite : Micro → Bool
  | .read _ => false
  | .wait .. => false
  | .fill .. => false
  | _ => true

/-- The bytes an action stores whatever stands there, if it is a plain store. -/
def Micro.stored : Micro → Option (List Host.Cell)
  | .write l => some l
  | .entry l _ _ => some l
  | .drain l => some l
  | _ => none

/-- The 32-byte blocks that ranges touch, in increasing order, each with the length of a block. -/
def blocksOf (l : List (Nat × Nat)) : List (Nat × Nat) :=
  (byAddress ((dedup (l.flatMap (fun p => (List.range ((p.1 % 32 + p.2 + 31) / 32)).map (fun i => p.1 / 32 + i)))).map (fun b => (b, ())))).map
    (fun p => (32 * p.1, 32))

/-- The ranges whose words an action reads from the array (R132, R165, R178): a bank's meeting reads its whole block unless it replaces
it; a sequencer entry reads all but what a plain store or STFF replaces. -/
def Micro.reads (m : Micro) : List (Nat × Nat) :=
  if isBank m.key then
    (blocksOf m.ranges).filter (fun b => match m.stored with
      | some l => !(List.range 32).all (fun i => l.any (fun c => c.1 = b.1 + i))
      | none => true)
  else match m with
    | .write _ => []
    | .entry .. => []
    | .drain _ => []
    | .fe 3 _ _ => []
    | .conv k _ _ _ _ _ _ => [(k, 1)]
    | _ => m.ranges

def overlap (a b : Nat × Nat) : Bool := a.1 < b.1 + b.2 && b.1 < a.1 + a.2

/-- The event of an action that a thread performs, or had queued, for a task. -/
def taskEv (s : State) (k : Nat) (task : Word) (kind key : Nat) (digest : Word32) (aux : Nat) : Ev :=
  { waiterEv s k kind key digest aux with task := task }

/-- A write through an L segment is logged as kind 0x01 (Table 16-4). DESIGN CHOICE (log 17): where lanes name the same byte, the digest takes
each of them, in the order of the lanes. -/
def State.lWrite (s : State) (k : Nat) (task : Word) (l : List Host.Cell) (lseg vec : Bool) : Verdict :=
  if lseg then
    let d := digestOf vec ((byAddress l).map (fun c => c.2))
    s.event (keyRegion (firstCell l) (regionOf (coreOf k))) k
      { taskEv s k task 1 (firstCell l) d.1 0xFF with wide := d.2, lseg := true }
  else .perform s

/-- Whether a slot still runs the task that made a request. -/
def State.runs (s : State) (k : Nat) (task : Word) : Bool := (s.getT k).st ≠ .empty && s.groupTask k = task

/-- Bytes stored for a thread, none of them where a poisoned word is covered in part (R133); the log, and the note of a write of host memory
(R296). -/
def State.performWrite (s : State) (k : Nat) (task : Word) (l : List Host.Cell) (lseg vec : Bool) : Perf :=
  if (s.writeCells l).2 then .poison
  else (s.lWrite k task l lseg vec).then (fun s =>
    let s := (s.storeCells l).1
    .done (if l.any (fun c => isHost c.1) && s.runs k task then s.updT k (fun t => { t with w.hostDirty := true }) else s) {})

/-- A read of cells through an L segment is logged as kind 0x02 (Table 16-4). -/
def State.lRead (s : State) (k : Nat) (task : Word) (l : List Host.Cell) (lseg vec : Bool) : Verdict :=
  if lseg then
    let d := digestOf vec ((byAddress l).map (fun c => c.2))
    s.event (keyRegion (firstCell l) (regionOf (coreOf k))) k
      { taskEv s k task 2 (firstCell l) d.1 0xFF with wide := d.2, lseg := true }
  else .perform s

/-- The masked bytes of a committed entry stored (R451): a poisoned word of which it covers only a part keeps its bytes, and the first such word
is named. -/
def State.writeEntry (s : State) (l : List Host.Cell) : State × Option Nat :=
  let bad := (cellWords l).filter (fun w => s.isPoison w && !coversWord l w)
  ((s.storeCells (l.filter (fun c => !bad.contains (c.1 - c.1 % 8)))).1, bad.head?)

/-- The eight scale bytes of each filled row (R231): those read, then 0x7F. -/
def fillScales (perRow : Nat) : Nat → List Byte → List Byte
  | 0, _ => []
  | r + 1, b => b.take perRow ++ List.replicate (8 - perRow) 0x7F#8 ++ fillScales perRow r (b.drop perRow)

/-- Rows of an operand slot, with their scale entries, written (R231). -/
def State.fillRows (s : State) (core slot perRow : Nat) (data scales : List Byte) : State :=
  (s.setBytes (opKey core slot 0) data).setBytes (scaleKey core slot 0 0) (fillScales perRow (data.length / 128) scales)

/-- One action of the thread `k` for a task performed (R126, R163, R288). -/
def State.performMicro (s : State) (k : Nat) (task : Word) (lseg vec : Bool) (m : Micro) : Perf :=
  match m with
  | .write l => s.performWrite k task l lseg vec
  | .read l =>
    if l.any (fun p => (s.poisonedAt p.1 p.2).isSome) then .poison
    else (s.lRead k task (layOver l (s.piecesBytes l)) lseg vec).then (fun s => .done s { bytes := s.piecesBytes l })
  | .conv key l fmt sat mode seed val =>
    if s.isPoison key then .poison
    else
      let r := convStored (formatOf fmt) sat mode seed (s.byte key).toNat val
      match s.performWrite k task (layOver l r.1.1) lseg vec with
      | .done s g => .done s { g with flags := r.1.2 }
      | p => p
  | .fe mode key val =>
    let region := keyRegion key 0
    if mode = 3 then
      (s.event region k { taskEv s k task 1 key (val.setWidth 32) 3 with lseg := lseg }).then (fun s =>
        .done (((((s.clearErrors (cellsOf key (leBytes 8 0))).writeLE key 8 val.toNat).setPoison key false).setFull key true).serve key) {})
    else if s.isPoison key then .poison
    else
      (s.event region k { taskEv s k task 1 key (if mode = 5 then 1 else 0) mode with lseg := lseg }).then (fun s =>
        .done ((s.setFull key (mode = 5)).serve key) {})
  | .amo op size8 key b cmp =>
    let n := if size8 then 8 else 4
    if (s.poisonedAt key n).isSome then .poison
    else
      let old := s.readLE key n
      let r := amoNew op size8 old (b.toNat % 256 ^ n) (cmp.toNat % 256 ^ n)
      let d := valueDigest (leBytes n old)
      (s.event (keyRegion key (regionOf (coreOf k))) k
        { taskEv s k task 3 key d.1 (op + (if size8 then 16 else 0)) with wide := d.2, lseg := lseg }).then (fun s =>
        .done (s.writeLE key n r.1) { value := amoResult op size8 old, flags := r.2 })
  | .sync mode key val =>
    if s.syncPoison key then .poison
    else
      let w := s.readSync key
      let u := if mode = 0 then syncUpdate (syncArm w val.toNat) 0 else syncUpdate w val.toNat
      if u.2 then
        (s.event (keyRegion key 0) k
          { taskEv s k task 4 key (BitVec.ofNat 32 (syncGen u.1)) (syncCount u.1) with lseg := lseg }).then (fun s =>
          .done ((s.writeSync key u.1).release key) {})
      else (s.lWrite k task (cellsOf key (leBytes 16 u.1.toNat)) lseg false).then (fun s => .done (s.writeSync key u.1) {})
  | .wait key gen d =>
    if s.syncPoison key then .poison
    else
      let w := s.readSync key
      if syncGen w = gen.toNat then
        if slotOf k = 15 then
          let s := s.pad task (keyRegion key 0)
          .done (s.freeze k tIllegal ((s.getT k).w.acc.word.setWidth 64) 0 (s.getT k).r.pc false false []) {}
        else .done (s.updT k (fun t => { t with w.park := .waitgen key gen d lseg t.w.acc.ptr, w.since := s.clockAt (coreOf k) })) {}
      else (s.event (keyRegion key 0) k { taskEv s k task 2 key (BitVec.ofNat 32 (syncGen w)) 2 with lseg := lseg }).then (fun s =>
        .done s { value := (w >>> 64).setWidth 64 })
  | .entry l ptr first =>
    let r := s.writeEntry l
    .done (if l.any (fun c => isHost c.1) && s.runs k task then r.1.updT k (fun t => { t with w.hostDirty := true }) else r.1)
      { poison := r.2.isSome, value := ptrWith ptr ((ptrOff ptr : Int) + r.2.getD 0 - first) }
  | .fill slot perRow l sc =>
    if (l ++ sc).any (fun p => (s.poisonedAt p.1 p.2).isSome) then .poison
    else .done (s.fillRows (coreOf k) slot perRow (s.piecesBytes l) (s.piecesBytes sc)) {}
  | .drain l => s.performWrite k task l false false

/-! The queues. -/

/-- A request leaves its queue. -/
def State.dequeue (s : State) (q : RelReq) : State :=
  s.updCore (coreOf q.who) (fun x =>
    if isLs q.op.key then { x with seq := x.seq.erase q }
    else if isBank q.op.key then (if q.isFar then { x with far := x.far.erase q } else { x with wheel := x.wheel.erase q })
    else { x with mem := x.mem.erase q })

/-- Cycles from a request's performance until its thread is READY (R164, R170); none is architectural outside bank memory. -/
def RelReq.latency (q : RelReq) : Nat := if isBank q.op.key then (if q.isFar then 7 else 5) else 0

/-- A vector register with one lane replaced (R190). -/
def setLane32 (v : VReg) (i : Nat) (x : Word32) : VReg :=
  let lo := 32 * i
  BitVec.ofNat 1024 (v.toNat % 2 ^ lo + x.toNat * 2 ^ lo + v.toNat / 2 ^ (lo + 32) * 2 ^ (lo + 32))

/-- The lanes of a relaxed vector load that a performed piece brings (R192). -/
def RelReq.lanes (q : RelReq) (s : State) (r : Regs) : Regs :=
  match q.dst with
  | none => r
  | some (d, l) =>
    let here := l.filter (fun p => q.op.ranges.any (fun x => x.1 ≤ p.2 && p.2 < x.1 + x.2))
    r.wrV d (here.foldl (fun v p => setLane32 v p.1 (BitVec.ofNat 32 (s.readLE p.2 4))) (r.rdV d))

/-- What the performance of a piece of a strong access brings its parked thread. -/
def Access.take (a : Access) (q : RelReq) (g : Got) (now : Nat) : Access :=
  if a.no ≠ q.no then a
  else { a with
    due := max a.due (now + q.latency)
    cells := a.cells ++ (match q.op with
      | .read l => layOver l g.bytes
      | _ => [])
    got := { a.got with value := g.value, flags := a.got.flags ||| g.flags, poison := a.got.poison || g.poison } }

/-- Whether the pieces of some accesses lie in one 128-byte piece of local store or one block of bank memory (R450). -/
def onePiece (l : List (Nat × Nat)) : Bool :=
  let k := firstKey l
  let same := fun (n : Nat) => l.all (fun p => k / n = p.1 / n && k / n = (p.1 + p.2 - 1) / n)
  if isLs k then same 128 else if isBank k then same 32 else false

/-- Whether a converting store's scale byte is read by a request of its own (R450). -/
def Micro.apart : Micro → Bool
  | .conv k l _ _ _ _ _ => !onePiece ((k, 1) :: l)
  | _ => false

/-- The second request of a converting store whose scale byte lies apart from its element (R450): the element's write, from the cycle in
which the scale byte has arrived (R164). -/
def RelReq.second (q : RelReq) (s : State) (now : Nat) : Option (RelReq × Flags) :=
  match q.op with
  | .conv k l fmt sat mode seed val =>
    if !q.op.apart then none
    else
      let r := convStored (formatOf fmt) sat mode seed (s.byte k).toNat val
      some ({ q with op := .write (layOver l r.1.1), cycle := now + (if isBank k then (if q.isFar then 6 else 4) else 0) }, r.1.2)
  | _ => none

/-- A loaded value (R135): zero- or sign-extended. -/
def extendLE (signed : Bool) (b : List Byte) : Word :=
  if signed then BitVec.ofInt 64 (if 2 ^ (8 * b.length) ≤ 2 * leNat b then (leNat b : Int) - 2 ^ (8 * b.length) else leNat b)
  else BitVec.ofNat 64 (leNat b)

/-- What LD.CVT writes (R136): `k` is the scale code, none when BL is 0. -/
def convLoaded (f : Format) (k : Option Nat) (b : List Byte) : Word × Flags :=
  let c := leNat b
  match f with
  | .flt .e2m1 =>
    let one := fun (x : Nat) => match k with
      | some k => widenScaled (FFmt.e2m1.value x) k
      | none => (widen (FFmt.e2m1.value x), 0)
    let lo := one (c % 16)
    let hi := one (c / 16)
    (hi.1 ++ lo.1, lo.2 ||| hi.2)
  | .flt g =>
    match k with
    | some k => let r := widenScaled (g.value c) k; (r.1.setWidth 64, r.2)
    | none => ((widen (g.value c)).setWidth 64, 0)
  | .int .u8 => (BitVec.ofNat 64 c, 0)
  | _ => (extendLE true b, 0)

/-- The bytes of pieces by key. -/
def cellBytes (cells : List Host.Cell) (l : List (Nat × Nat)) : List Byte :=
  l.flatMap (fun r => (List.range r.2).map (fun i => match cells.find? (fun c => c.1 = r.1 + i) with
    | some c => c.2
    | none => 0))

/-- Whether an action writes a record when it is performed now (R154, R344): reads and writes do through an L segment only, and so does a sync
update that does not advance. -/
def State.willLog (s : State) (lseg : Bool) : Micro → Bool
  | .sync mode key val =>
    let w := s.readSync key
    lseg || (if mode = 0 then syncUpdate (syncArm w val.toNat) 0 else syncUpdate w val.toNat).2
  | .write _ => lseg
  | .read _ => lseg
  | .conv .. => lseg
  | .fill .. => false
  | .drain _ => false
  | _ => true

/-- The queued pieces of a thread. -/
def State.relReqs (s : State) (k : Nat) : List RelReq :=
  let x := s.core (coreOf k)
  (x.seq ++ x.wheel ++ x.far ++ x.mem).filter (fun q => q.who = k)

/-- The other queued pieces of a request's access that belong to the same record. -/
def State.siblings (s : State) (q : RelReq) : List RelReq :=
  ((s.relReqs q.who).erase q).filter (fun x => x.no = q.no && x.obj = q.obj)

/-- What a performed piece tells the others of its access. -/
def State.tell (s : State) (q : RelReq) (f : RelReq → RelReq) : State :=
  let g := fun (l : List RelReq) => l.map (fun x => if x.who = q.who && x.no = q.no && x.obj = q.obj && x ≠ q then f x else x)
  s.updCore (coreOf q.who) (fun x => { x with seq := g x.seq, wheel := g x.wheel, far := g x.far, mem := g x.mem })

/-- The bytes a piece reads or writes, by key. -/
def RelReq.cells (q : RelReq) (s : State) : List Host.Cell :=
  match q.op with
  | .read l => layOver l (s.piecesBytes l)
  | .write l => l
  | _ => []

/-- The event of an access through an L segment whose pieces are performed one by one (R224, R344): it is recorded as the last of them is
performed, unless one met poison; in a replay the others wait until the record presented is of their task. -/
def State.pieceEvent (s : State) (q : RelReq) (rest : List RelReq) : Verdict :=
  let r := keyRegion q.obj (regionOf (coreOf q.who))
  if q.bad then .perform s
  else if rest = [] then
    let l := q.seen ++ q.cells s
    match q.op with
    | .read _ => s.lRead q.who q.task l true q.vec
    | _ => s.lWrite q.who q.task l true q.vec
  else if (s.log r).mode = 2 ∧ ¬(s.presented r 1 (keyObject q.obj) q.task).any (fun p => recTask p.2 = q.task) then .wait
  else .perform s

/-- A queued piece's action, with the record of its access. -/
def State.performPiece (s : State) (q : RelReq) : Perf :=
  let rest := s.siblings q
  if !q.lseg || !(match q.op with
    | .read _ => true
    | .write _ => true
    | _ => false) then s.performMicro q.who q.task q.lseg q.vec q.op
  else match s.performMicro q.who q.task false q.vec q.op with
    | .poison => .poison
    | _ => (s.pieceEvent q rest).then (fun s => s.performMicro q.who q.task false q.vec q.op)

/-- The flags of a discarding converting load, once its last piece has come (R136). -/
def RelReq.cvtFlags (q : RelReq) (s : State) (last : Bool) : Flags :=
  match q.cvt with
  | some (fmt, el, sc) =>
    if last && !q.bad then
      let l := q.seen ++ q.cells s
      (convLoaded (formatOf fmt) (some (leNat (cellBytes l [(sc, 1)]))) (cellBytes l el)).2
    else 0
  | none => 0

/-- A queued piece performed: the state, and whether it leaves its queue. Poison met by a relaxed access and a refusal become deferred traps
(R215); a strong access keeps what it brings until all its pieces are performed. -/
def State.performReq (s : State) (q : RelReq) : State × Bool :=
  let now := s.clockAt (coreOf q.who)
  let s := s.readErrors q.task q.op.reads
  let last := (s.siblings q).isEmpty
  let give := fun (s : State) (g : Got) =>
    let s := if (q.lseg || q.cvt.isSome) && !last then s.tell q (fun x => { x with seen := x.seen ++ q.cells s }) else s
    if !s.runs q.who q.task then s
    else match q.op with
      | .entry .. => if g.poison then s.defer (s.getT q.who).sp.owner tBankPoison q.pc g.value else s
      | _ =>
        if q.strong then s.updT q.who (fun t => { t with w.acc := t.w.acc.take q g now })
        else
          let s := if g.poison && !q.bad then s.defer q.who tBankPoison q.pc q.ptr else s
          s.updT q.who (fun t => { t with r := q.lanes s { t.r with fp := t.r.fp ||| g.flags ||| q.cvtFlags s last } })
  let bad := fun (s : State) =>
    let s := if last || (q.strong && !q.lseg) then s else s.tell q (fun x => { x with bad := true })
    if !s.runs q.who q.task then s
    else if q.strong then s.updT q.who (fun t => { t with w.acc := t.w.acc.take q { poison := true } now })
    else if q.bad then s
    else (if s.willLog q.lseg q.op then s.pad q.task (keyRegion q.op.key (regionOf (coreOf q.who))) else s).defer q.who tBankPoison q.pc q.ptr
  match q.second s now with
  | some (w, f) =>
    match s.performMicro q.who q.task false false (.read [(q.op.key, 1)]) with
    | .done s _ => (give (s.succeed q w) { flags := f }, true)
    | .poison => (bad s, true)
    | .wait => (s, false)
    | .diverge s o r => (s.freeze q.who tDiverge o 0 q.pc false false r, true)
  | none =>
    match s.performPiece q with
    | .done s g => (give s g, true)
    | .poison => (bad s, true)
    | .wait => (s, false)
    | .diverge s o r => (s.freeze q.who tDiverge o 0 q.pc false false r, true)

/-- A queued piece performed, and out of its queue unless it must wait. -/
def State.serveReq (s : State) (q : RelReq) : State :=
  let p := s.performReq q
  if p.2 then p.1.dequeue q else p.1

/-- Whether two queued pieces touch a byte in common. -/
def RelReq.clash (a b : RelReq) : Bool := a.op.ranges.any (fun x => b.op.ranges.any (fun y => overlap x y))

/-- The sequencer entries of a core performed in order from the `i`th on; those that a replay holds are passed by, but not by an entry that
touches the same bytes. -/
def State.drainFrom (c : Nat) : Nat → Nat → State → State
  | 0, _, s => s
  | n + 1, i, s =>
    match (s.core c).seq[i]? with
    | none => s
    | some q =>
      let p := if ((s.core c).seq.take i).any (fun x => x.clash q) then (s, false) else s.performReq q
      if p.2 then State.drainFrom c n i (p.1.dequeue q) else State.drainFrom c n (i + 1) s

/-- The entries of a core on their way to memory that a test selects, performed in order from the `i`th on. -/
def State.drainMem (c : Nat) (f : RelReq → Bool) : Nat → Nat → State → State
  | 0, _, s => s
  | n + 1, i, s =>
    match (s.core c).mem[i]? with
    | none => s
    | some q =>
      let p := if !f q || ((s.core c).mem.take i).any (fun x => x.clash q) then (s, false) else s.performReq q
      if p.2 then State.drainMem c f n i (p.1.dequeue q) else State.drainMem c f n (i + 1) s

/-- Every sequencer entry of a core performed, in order (R126); a converting store brings one more. -/
def State.drainSeq (s : State) (c : Nat) : State := State.drainFrom c (2 * (s.core c).seq.length + 1) 0 s

/-- Relaxed accesses outstanding, of those that RLX marks (R146). -/
def State.relCount (s : State) (k : Nat) : Nat :=
  (dedup (((s.relReqs k).filter (fun q => !q.strong && !q.op.isBulk)).map (fun q => q.no))).length

/-- What must be performed before an action of the thread `k` that is performed at once: every local-store entry of its core (R127). -/
def State.order (s : State) (k : Nat) (ranges : List (Nat × Nat)) : State :=
  if ranges.any (fun r => isLs r.1) then s.drainSeq (coreOf k) else s

/-- Pieces cut into what is performed together: one entry in local store (R126, R214); the blocks of bank memory, each in its own request;
the 32-byte parts of other memory; in increasing address order (R164, R214). -/
def splitPieces (l : List (Nat × Nat)) : List (List (Nat × Nat)) :=
  if l.all (fun p => isLs p.1) then [l]
  else (blocksOf l).map (fun b => l.filterMap (fun p =>
    let lo := max p.1 b.1
    let hi := min (p.1 + p.2) (b.1 + 32)
    if lo < hi then some (lo, hi - lo) else none))

/-- The same for the cells of a store. -/
def splitCells (l : List Host.Cell) : List (List Host.Cell) :=
  if l.all (fun c => isLs c.1) then [l]
  else (blocksOf (l.map (fun c => (c.1, 1)))).map (fun b => l.filter (fun c => c.1 / 32 = b.1 / 32))

/-- What becomes of the bytes that a queued read brings besides the record: lanes of a vector register, or the flags of a converting load that
discards its data. -/
structure Use where
  dst : Option (Nat × List (Nat × Nat)) := none
  cvt : Option (BitVec 6 × List (Nat × Nat) × Nat) := none
deriving DecidableEq, Repr

/-- The request of an access of the current thread. -/
def State.request (s : State) (ptr : Word) (lseg strong : Bool) (via : Nat) (use : Use) (op : Micro) : RelReq :=
  { who := s.cur, task := s.groupTask s.cur, no := (s.core s.coreNo).reqNo + 1, pc := s.th.reportPc, ptr := ptr, lseg := lseg, strong := strong,
    placed := true, cycle := s.clockAt s.coreNo + 2, vec := decide (s.word.toNat / 2 ^ 26 = 0x22), via := via, dst := use.dst, cvt := use.cvt, op := op }

/-- An access of the current thread joins the queues as these actions, in address order; its number is the answer. What goes through an L segment
is one event, whatever the number of its pieces (R344). -/
def State.queueAll (s : State) (ptr : Word) (lseg strong : Bool) (via : Nat) (use : Use) (ops : List Micro) : State :=
  let obj := if lseg then ((ops.map (fun op => op.key)).foldl min ((ops.head?.map (fun op => op.key)).getD 0)) else 0
  let s' := ops.foldl (fun t op => t.enqueue { s.request ptr lseg strong via use op with obj := obj }) s
  s'.updCore s.coreNo (fun x => { x with reqNo := x.reqNo + 1 })

/-- The region whose tables translate a segment's accesses, plus 1; 0 for none (R118). -/
def State.viaOf (s : State) (g : BitVec 256) : Nat :=
  if segSpace g = 3 then s.regionNo + 1
  else if segSpace g = 4 then ((s.regEntry (taskVf s.th.id.task) (segLregion g)).map (fun p => p.1 + 1)).getD 0
  else 0

/-- A relaxed access of the current thread: a fifth waits until one of four is complete (R146). -/
def relaxM (l : Loc) (lseg : Bool) (use : Use) (ops : List Micro) : M Unit := do
  let s ← get
  if 4 ≤ s.relCount s.cur then parkM .relaxed
  else set (s.queueAll l.ptr lseg false (s.viaOf l.seg) use ops)

/-- Actions of the current thread performed at once, in order: what they give together. -/
def performAll (ptr : Word) (lseg : Bool) : List Micro → M Got
  | [] => return {}
  | op :: rest => do
    let s ← get
    let s := s.readErrors (s.groupTask s.cur) op.reads
    match s.performMicro s.cur (s.groupTask s.cur) lseg (decide (s.word.toNat / 2 ^ 26 = 0x22)) op with
    | .done s g => do
      set s
      let h ← performAll ptr lseg rest
      return { h with bytes := g.bytes ++ h.bytes, value := if rest = [] then g.value else h.value, flags := g.flags ||| h.flags,
                      poison := g.poison || h.poison }
    | .poison => do
      set s
      return { poison := true }
    | .wait => do
      set s
      parkM (.replay (keyRegion op.key s.regionNo))
    | .diverge s o r => do
      set s
      throw (.diverge o r)

/-- A strong access of the current thread (R289): local store is reached at once, after every earlier entry; elsewhere its requests are queued
and the thread parks until all have been performed. Poison traps (R133); `log` is the ring that holds a place for the access's event (R344). -/
def strongM (l : Loc) (log : Option Nat) (lseg : Bool) (want : List (Nat × Nat)) (ops : List Micro) : M Got := do
  let g ← (do
    match ← nextGot with
    | some g => return g
    | none => do
      let s ← get
      if ops.all (fun op => isLs op.key && !op.apart) && decide (ops.length ≤ 1) then do
        set (s.order s.cur (ops.flatMap Micro.ranges))
        let g ← performAll l.ptr lseg ops
        keepGot g
        return g
      else do
        let n := (s.core s.coreNo).reqNo + 1
        let s := s.queueAll l.ptr lseg true (s.viaOf l.seg) {} ops
        set { s with th.w.acc := { s.th.w.acc with no := n, due := 0, want := want, cells := [], got := {}, ptr := l.ptr } }
        parkM .access : M Got)
  if g.poison then do
    match log with
    | some r => modify (fun s => s.pad (s.groupTask s.cur) r)
    | none => pure ()
    trap tBankPoison l.ptr
  else return g

/-! Speculation (15). -/

/-- SPEC with ADDR 0 (Table 19-1). -/
def specTrap {α : Type} : M α := throw (.trap tSpec 0 0)

/-- Entries of the speculation store buffer held on a core (R313). -/
def Spec.entries (p : Spec) : Nat := p.buf.length + (p.app.map (fun a => a.entries)).foldl (· + ·) 0
def State.bufUsed (s : State) (c : Nat) : Nat :=
  ((List.range 16).map (fun i => (s.getT (16 * c + i)).sp.entries)).foldl (· + ·) 0

/-- The byte a thread's own entries hold at a key, latest entry first (R324). -/
def Spec.lookup (p : Spec) (k : Nat) : Option Byte :=
  (p.buf.reverse.find? (fun e => e.block = k - k % 32)).bind (fun e => SMap.get none e.bytes (k % 32))

/-- The bytes of an entry, in address order. -/
def StoreEntry.cells (e : StoreEntry) : List Host.Cell :=
  (List.range 32).filterMap (fun i => (SMap.get none e.bytes i).map (fun b => (e.block + i, b)))

/-- The request that performs an entry of an iteration (R451): a strong write with the timing of its space. DEDUCED (log 16): of an entry that is
performed for a binding (R323) and not for a commit, a deferred trap carries the PC of the operation that binds. -/
def State.entryReq (s : State) (k no : Nat) (e : StoreEntry) : RelReq :=
  { who := k, task := s.groupTask k, no := no, pc := (s.getT k).r.pc, ptr := e.ptr, lseg := false, strong := true, placed := true,
    cycle := s.clockAt (coreOf k) + 2, vec := false, via := 0, dst := none, op := .entry e.cells e.ptr e.key }

/-! Appends (R327). -/

/-- The fields of a chain descriptor (Table 15-5). -/
def State.descField (s : State) (d lo n : Nat) : Nat := s.readLE d 64 / 2 ^ lo % 2 ^ n

/-- ERR and CODE set in a descriptor (R327). -/
def State.descFail (s : State) (d code : Nat) : State :=
  let x := s.readLE d 64
  let low := x % 2 ^ 344
  let high := x / 2 ^ 348 * 2 ^ 348
  let e := if bit x 351 then 0 else 2 ^ 351
  s.writeLE d 64 (low + code * 2 ^ 344 + high + e)

/-- A named sync word gains FAULT and ERR (R151); a poisoned word drops the update and releases its waiters (R152). -/
def State.syncFail (s : State) (k : Nat) : State :=
  let s := s.readErrors 0 [(k, 16)]
  if s.syncPoison k then s.releasePoison k else s.writeSync k (syncFault (s.readSync k))

/-- A sync word's key for a pointer, through given segment registers: the code of the check that fails, or the key (R147, R276). -/
def State.resolveSync (s : State) (core v : Nat) (g : BitVec 256) (p : Word) : Except (BitVec 8) Nat :=
  match s.checkSeg (clusterOf core) v g (ptrOff p) 16 16 (rR + rW) (only012 (segSpace g)) with
  | some c => .error c
  | none =>
    let a := segBase g + ptrOff p
    match segSpace g with
    | 0 => .ok (lsKey core a)
    | 1 => .ok (bankKey (clusterOf core) a)
    | _ => .ok (bankKey (4 * regionOf core + segCluster g) a)

/-- The pointer checks of an append (R276, R281): code of the first that fails. -/
def State.appendCheck (s : State) (k d : Nat) : Option (BitVec 8 × Word) :=
  let t := s.getT k
  let v := taskVf t.id.task
  let cl := clusterOf (coreOf k)
  let one := fun (p : Word) (rights : Nat) =>
    (s.checkSeg cl v (t.r.rdG (ptrSeg p)) (ptrOff p) 1 1 rights (anySpace (segSpace (t.r.rdG (ptrSeg p))))).map (fun c => (c, p))
  let ptr := fun (lo : Nat) => BitVec.ofNat 64 (s.descField d lo 64)
  let sync := ptr 192
  (one (ptr 0) rR).or ((one (ptr 64) (rR + rW)).or ((one (ptr 128) (rR + rW)).or
    (if sync = 0 then none
     else match s.resolveSync (coreOf k) v (t.r.rdG (ptrSeg sync)) sync with
       | .ok _ => none
       | .error c => some (c, sync))))

/-- The engine that serves a port of a core (R22): copy engines are numbered by package cluster, then gather engines by region,
then collective engines by die. -/
def engineOf (core port : Nat) : Nat :=
  match port with
  | 0 => clusterOf core
  | 1 => 128 + regionOf core
  | _ => 160 + regionOf core / 4

/-- A named sync word's failure for a dropped row (R327). -/
def State.appendDrop (s : State) (k d code : Nat) : State :=
  let t := s.getT k
  let sync := BitVec.ofNat 64 (s.descField d 192 64)
  let s := s.descFail d code
  if sync = 0 then s
  else match s.resolveSync (coreOf k) (taskVf t.id.task) (t.r.rdG (ptrSeg sync)) sync with
    | .ok key => s.syncFail key
    | .error _ => s

/-- Whether the chain of a descriptor has no block left for a row (R327). -/
def State.appendFull (s : State) (d : Nat) : Bool := decide (16 * s.descField d 288 32 ≤ s.descField d 256 32)

/-- An append performed (R327). DESIGN CHOICE (log 16): a descriptor that has been poisoned by the time of a commit is read and written as it
stands, with no trap. BOUND drops the row; otherwise the gather engine takes an APPEND with the row, and TPOS advances. -/
def State.performAppend (s : State) (k d : Nat) (row : VReg) : State :=
  let s := s.readErrors (s.groupTask k) [(d, 64)]
  let p := s.descField d 256 32
  if s.appendFull d then s.appendDrop k d 5
  else
    let t := s.getT k
    let b0 := BitVec.ofNat 128 (3 + (if s.descField d 192 64 = 0 then 0 else 2 ^ 16) + p * 2 ^ 32 + s.descField d 128 64 * 2 ^ 64)
    let b1 := BitVec.ofNat 128 (s.descField d 336 8 % 64 * 2 ^ 58 + s.descField d 0 64 * 2 ^ 64)
    let b2 := BitVec.ofNat 128 (s.descField d 192 64)
    let b3 := BitVec.ofNat 128 (s.descField d 64 64 + s.descField d 320 16 * 2 ^ 64 + s.descField d 288 32 * 2 ^ 80)
    let e := engineOf (coreOf k) 1
    let c : Cmd := { thread := (if t.sp.role = .none then k else t.sp.owner), task := s.groupTask k, port := 1, beats := [b0, b1, b2, b3], segs := t.r.g, row := some row,
                     desc := d, rsv := false }
    let s := { s with engines := SMap.set [] s.engines e (SMap.get [] s.engines e ++ [c]) }
    s.writeLE (d + 32) 4 (p + 1)

/-- A tentative append at commit or binding: the chain's bound is tested first; then a check that fails drops the row with SEGMENT (R327). -/
def State.commitAppend (s : State) (k : Nat) (a : Tentative) : State :=
  match (if s.appendFull a.desc then none else s.appendCheck k a.desc) with
  | some _ => s.appendDrop k a.desc 3
  | none => s.performAppend k a.desc a.row

/-- Whether an iteration has no buffered store and no tentative append left. -/
def Spec.flushed (p : Spec) : Bool := p.buf.isEmpty && p.app.isEmpty

/-- The next step of performing an iteration's buffered stores, then its tentative appends, in issue order and one at a time (R320, R323, R451): an
entry is reclaimed, and the next begins, once it has been performed. -/
def State.flushStep (s : State) (k : Nat) : State :=
  let p := (s.getT k).sp
  if p.flush ≠ 0 ∧ (s.relReqs k).any (fun q => q.no = p.flush) then s
  else
    let buf := if p.flush = 0 then p.buf else p.buf.drop 1
    match buf with
    | e :: _ =>
      let no := (s.core (coreOf k)).reqNo + 1
      ((s.enqueue (s.entryReq k no e)).updCore (coreOf k) (fun x => { x with reqNo := no })).updT k (fun t =>
        { t with sp.buf := buf, sp.flushing := true, sp.flush := no })
    | [] =>
      match p.app with
      | a :: r => ((s.order k [(a.desc, 64)]).commitAppend k a).updT k (fun t => { t with sp.buf := [], sp.app := r, sp.flushing := true, sp.flush := 0 })
      | [] => s.updT k (fun t => { t with sp.buf := [], sp.flush := 0 })

/-- All of it performed at once, when a group is folded in the midst of a commit or a binding: what is under way first. -/
def State.flushIter (s : State) (k : Nat) : State :=
  let s := ((s.relReqs k).filter (fun q => q.no = (s.getT k).sp.flush)).foldl (fun s q => s.serveReq q) s
  let p := (s.getT k).sp
  let s := (if p.flush = 0 then p.buf else p.buf.drop 1).foldl (fun s e => (s.performReq (s.entryReq k 0 e)).1) s
  let s := p.app.foldl (fun s a => (s.order k [(a.desc, 64)]).commitAppend k a) s
  s.updT k (fun t => { t with sp.buf := [], sp.app := [], sp.flushing := false, sp.flush := 0 })

/-- An operation that waits until its iteration is the oldest (R323); in a guess routine it is not allowed (R318). -/
def specOldest : M Unit := do
  let s ← get
  if s.th.isGuess then specTrap
  else if s.th.isIter && !s.isOldest s.cur then parkM .oldest
  else pure ()

/-- An operation of R323, its checks made: it waits until its iteration is the oldest, and binds it, once what the iteration holds has been
performed. -/
def specBind : M Unit := do
  specOldest
  let s ← get
  if s.th.isIter then
    if s.th.sp.flushed then set { s with th.sp.isBound := true, th.sp.flushing := false, th.sp.flush := 0 }
    else do
      set { s with th.sp.isBound := true, th.sp.flushing := true }
      parkM .flush
  else pure ()

/-- Whether the bytes of pieces are all in the thread's own entries (R324). -/
def Spec.covers (p : Spec) (l : List (Nat × Nat)) : Bool :=
  l.all (fun q => (List.range q.2).all (fun i => (p.lookup (q.1 + i)).isSome))

/-- The rules of a load in a group (R318, R324), once its bytes are located. -/
def specLoad (g : BitVec 256) (pieces : List (Nat × Nat)) : M Unit := do
  let s ← get
  if segRights g &&& rL ≠ 0 ∧ (s.th.isIter ∨ s.th.isGuess) then specBind
  else if segRights g &&& rS ≠ 0 then
    match s.th.sp.role with
    | .iter _ => if s.isOldest s.cur ∨ s.th.sp.covers pieces then pure () else parkM .oldest
    | .guess m => if m ≤ (s.getT s.th.sp.owner).sp.winA then pure () else parkM .oldest
    | _ => pure ()
  else pure ()

/-- The rules of a store in a group before it is located: S is needed, and a guess routine may not store (R318, R324). One through a segment with
right L binds once it is located (R323). -/
def specStore (g : BitVec 256) : M Unit := do
  let s ← get
  if s.th.isGuess then specTrap
  else if s.th.isIter then
    if segRights g &&& rS = 0 then specTrap
    else if segRights g &&& rL ≠ 0 then specOldest
    else pure ()
  else pure ()

/-- Whether the current thread's stores go to the store buffer (R324). -/
def State.buffers (s : State) : Bool := s.th.isIter && !s.th.sp.isBound

/-- Room for new entries (R325): the iteration parks, squashes the youngest holder, or binds; the answer says whether to buffer. -/
def roomLoop (need : Nat) : Nat → M Bool
  | 0 => do
    specBind
    return false
  | fuel + 1 => do
    let s ← get
    if s.bufUsed s.coreNo + need ≤ 256 then return true
    else if !s.isOldest s.cur then parkM .storeBuf
    else
      let o := s.th.sp.owner
      let w := (s.getT o).sp.winW
      let young := (s.getT o).sp.slots.filter (fun k => k ≠ s.cur && decide (0 < (s.getT k).sp.entries))
      match young.filterMap (fun k => (s.getT k).sp.role.pos w) with
      | [] => do
        specBind
        return false
      | p :: ps => do
        set (s.squashFrom o (ps.foldl max p))
        roomLoop need fuel

/-- A byte entered in a buffer: into its block's entry, or a new entry at the end (R324). -/
def bufferByte (ptr : Word) (key via : Nat) (c : Host.Cell) : List StoreEntry → List StoreEntry
  | [] => [{ block := c.1 - c.1 % 32, ptr := ptr, key := key, bytes := [(c.1 % 32, some c.2)], vias := [via] }]
  | e :: r =>
    if e.block = c.1 - c.1 % 32 then
      { e with bytes := SMap.set none e.bytes (c.1 % 32) (some c.2), vias := if e.vias.contains via then e.vias else e.vias ++ [via] } :: r
    else e :: bufferByte ptr key via c r

/-- Stores of an iteration that is not bound: into its entries (R324, R325). -/
def bufferM (at' : Loc) (l : List Host.Cell) : M Bool := do
  let s ← get
  let fresh := (dedup (l.map (fun c => c.1 - c.1 % 32))).filter (fun b => !s.th.sp.buf.any (fun e => e.block = b))
  let ok ← roomLoop fresh.length 9
  if ok then
    modify (fun s => { s with th.sp.buf := l.foldl (fun b c => bufferByte at'.ptr (l.headD (0, 0)).1 (s.viaOf at'.seg) c b) s.th.sp.buf })
    return true
  else return false

/-! The accesses that instructions make. -/

/-- Bytes of located pieces as the current thread sees them, its own buffered stores first (R324). -/
def State.overlay (s : State) (l : List (Nat × Nat)) (b : List Byte) : List Byte :=
  if s.buffers && s.th.sp.buf ≠ [] then (layOver l b).map (fun c => (s.th.sp.lookup c.1).getD c.2) else b

/-- Bytes of located pieces that the current thread reads at once. -/
def State.viewBytes (s : State) (l : List (Nat × Nat)) : List Byte := s.overlay l (s.piecesBytes l)

/-- Whether located pieces meet a poisoned word that the thread's own entries do not cover. -/
def State.poisoned (s : State) (l : List (Nat × Nat)) : Bool :=
  l.any (fun p => (s.poisonedAt p.1 p.2).isSome) && !(s.buffers && s.th.sp.covers l)

/-- A read of located pieces that the thread's own entries do not cover meets their errors (R132, R178). -/
def State.readView (s : State) (l : List (Nat × Nat)) : State :=
  if s.buffers && s.th.sp.covers l then s else s.readErrors (s.groupTask s.cur) l

/-- Whether the instruction goes on after an access that has been performed. -/
def State.goesOn (s : State) : Bool := decide (s.th.w.acc.pos < s.th.w.acc.jrn.length)

/-- A read of located parts, which belong together as one access (R288, R289): its bytes, or none where a relaxed read is queued and `use` says
what it brings; none too where a relaxed access has been refused. -/
def readParts (l : Loc) (parts : List (List (Nat × Nat))) (use : Use) : M (Option (List Byte)) := do
  if parts.any (fun p => p.isEmpty) then return none
  let lseg := segRights l.seg &&& rL ≠ 0
  let want := parts.flatten
  let s ← get
  let log := if lseg then some (keyRegion (firstKey want) s.regionNo) else none
  if s.goesOn then do
    let g ← strongM l log lseg want []
    return some (s.overlay want g.bytes)
  else do
    specLoad l.seg want
    if lseg then logGuard (keyRegion (firstKey want) s.regionNo)
    let s ← get
    let ops := (if onePiece want then [want] else if isBank (firstKey want) then splitPieces want else parts.flatMap splitPieces).map Micro.read
    if s.buffers && s.th.sp.covers want then return some (s.viewBytes want)
    else if s.relaxed then do
      relaxM l lseg use ops
      return none
    else do
      let g ← strongM l log lseg want ops
      return some (s.overlay want g.bytes)

/-- A read of located pieces. -/
def readPieces (l : Loc) (pieces : List (Nat × Nat)) : M (Option (List Byte)) := readParts l [pieces] {}

/-- A read of `n` bytes at a checked access. -/
def readM (l : Loc) (n : Nat) : M (Option (List Byte)) := do
  let pieces ← locate l n rR false
  readPieces l pieces

/-- Stores of cells, as one instruction makes them: buffered, relaxed or strong; of a relaxed access that has been refused there are none. -/
def writeParts (l : Loc) (cells : List Host.Cell) : M Unit := do
  let lseg := segRights l.seg &&& rL ≠ 0
  let s ← get
  let log := if lseg then some (keyRegion (firstCell cells) s.regionNo) else none
  if cells.isEmpty then pure ()
  else if s.goesOn then do
    let _ ← strongM l log lseg [] []
  else do
    if lseg then do
      specBind
      logGuard (keyRegion (firstCell cells) s.regionNo)
    let s ← get
    let buffered ← if s.buffers then bufferM l cells else pure false
    if buffered then pure ()
    else do
      let s ← get
      let ops := (splitCells cells).map Micro.write
      if s.relaxed then relaxM l lseg {} ops
      else do
        let _ ← strongM l log lseg [] ops

/-- One action of the current thread: what it gives, or none where it is relaxed and queued. -/
def microM (l : Loc) (op : Micro) : M (Option Got) := do
  let lseg := segRights l.seg &&& rL ≠ 0
  let s ← get
  let log := if s.willLog lseg op then some (keyRegion op.key s.regionNo) else none
  if s.goesOn then do
    let g ← strongM l log lseg [] []
    return some g
  else do
    if s.willLog lseg op then logGuard (keyRegion op.key s.regionNo)
    if s.relaxed then do
      relaxM l lseg {} [op]
      return none
    else do
      let g ← strongM l log lseg [] [op]
      return some g

/-- A store of bytes at a checked access. -/
def writeM (l : Loc) (b : List Byte) : M Unit := do
  let s ← get
  if !s.goesOn then specStore l.seg
  let pieces ← locate l b.length rW true
  writeParts l (layOver pieces b)

end Sys2Proof.Machine
end

