-- ==== Sys2Proof/Machine/Fetch.lean ====
section
/-! DEFINITION. From the code image to the word a thread issues: fetch into the instruction buffer with patches applied (R51, R66,
R74), repeat frames (R68 to R73), and what may follow RLX (R58, R145). -/

namespace Sys2Proof.Machine

/-- The launch a thread's task belongs to. -/
def State.launchOf (s : State) (k : Nat) : Launch := s.launch (taskKey (s.getT k).id.task)

/-- The physical region whose tables translate a VF's launch addresses: its logical region 0 (R360). -/
def State.region0 (s : State) (v : Nat) : Nat := ((s.regEntry v 0).map (fun p => p.1)).getD 0

/-- A word after its patches (R66): the patch's field takes the low bits of the parameter. -/
def patchWord (params : List Word) (patches : List (Nat × Nat × Nat)) (off : Nat) (w : BitVec 32) : BitVec 32 :=
  patches.foldl (fun w p =>
    if p.1 = off then
      let n := if p.2.2 = 0 then 16 else if p.2.2 = 1 then 21 else 13
      BitVec.ofNat 32 (w.toNat / 2 ^ n * 2 ^ n + ((params.drop p.2.1).headD 0).toNat % 2 ^ n)
    else w) w

/-- The bytes of the code word at a PC, each page it touches translated by itself (R51); or the page that does not translate, and why. The PC is
within the code. -/
def State.codeKey (s : State) (k pc : Nat) : State × Except (TRes × Nat) (List (Nat × Nat)) :=
  let l := s.launchOf k
  let a := l.kernel.code + pc
  if l.kernel.host then (s, .ok [(hostKey a, 4)])
  else
    let r := s.region0 (taskVf (s.getT k).id.task)
    (pagePieces a 4).foldl (fun (acc : State × Except (TRes × Nat) (List (Nat × Nat))) q =>
      match acc with
      | (s, .error e) => (s, .error e)
      | (s, .ok p) =>
        match s.translate r q.1 false with
        | (s, .ok pa) => (s, .ok (p ++ [(hbmKey pa, q.2)]))
        | (s, x) => (s, .error (x, q.1))) (s, .ok [])

/-- The 32-bit word that located pieces hold. -/
def State.wordAt (s : State) (l : List (Nat × Nat)) : BitVec 32 := BitVec.ofNat 32 (leNat (s.piecesBytes l))

/-- The words of a launch's image as memory holds them, where their pages translate. -/
def State.image (s : State) (k : Nat) : List (Option (BitVec 32)) :=
  (List.range (s.launchOf k).kernel.words).map (fun i => match (s.codeKey k (4 * i)).2 with
    | .ok l => some (s.wordAt l)
    | .error _ => none)

/-- A core's first fetch from a launch since an ICSYNC: from then on its fetch may see the image as it is now (R300). -/
def State.beginFetch (s : State) (k : Nat) : State :=
  let n := taskKey (s.getT k).id.task
  if SMap.get [] (s.core (coreOf k)).code n = [] then
    s.updCore (coreOf k) (fun c => { c with code := SMap.set [] c.code n (s.image k) })
  else s

/-- A code word fetched whole from where it lies (R300): the word there, or the one the core's fetch still sees; patched (R66, R74). -/
def State.codeWord (s : State) (k pc : Nat) (at' : List (Nat × Nat)) : State × BitVec 32 :=
  let l := s.launchOf k
  let n := taskKey (s.getT k).id.task
  let c := s.core (coreOf k)
  let new := s.wordAt at'
  let seen := SMap.get [] c.code n
  let old := (seen[pc / 4]?.getD none).getD new
  let keep := old ≠ new ∧ Config.oldCode (coreOf k) c.codeNo = true
  let s := if old = new then s
    else s.setCore (coreOf k) { c with
      codeNo := c.codeNo + 1
      code := if keep then c.code else SMap.set [] c.code n (seen.set (pc / 4) (some new)) }
  (s, patchWord l.params l.kernel.patches (pc / 4) (if keep then old else new))

/-- Words after the first of a line are buffered while their pages translate. -/
def fillLine (k : Nat) : Nat → Nat → State → State × List (Nat × BitVec 32)
  | 0, _, s => (s, [])
  | n + 1, pc, s =>
    if 4 * (s.launchOf k).kernel.words ≤ pc then (s, [])
    else match s.codeKey k pc with
      | (s, .ok p) =>
        let w := s.codeWord k pc p
        let r := fillLine k n (pc + 4) w.1
        (r.1, (pc, w.2) :: r.2)
      | (s, _) => (s, [])

/-- One word fetched at a PC (R51): SEG_LIMIT outside the code, a page fault parks. -/
def fetchAt (pc : Word) : M (BitVec 32) := do
  let s ← get
  let l := s.launchOf s.cur
  if pc.toNat % 4 ≠ 0 ∨ 4 * l.kernel.words ≤ pc.toNat then trap tSegLimit pc
  else
    let v := taskVf s.th.id.task
    let p ← if l.kernel.host then pure [(hostKey (l.kernel.code + pc.toNat), 4)]
      else (pagePieces (l.kernel.code + pc.toNat) 4).mapM (fun q => do return (← translateM (s.region0 v) q.1 false 0 pc, q.2))
    let s ← get
    let w := (s.beginFetch s.cur).codeWord s.cur pc.toNat p
    set w.1
    return w.2

/-- The words of a frame refetched after a resumption (R73). -/
def fetchFrame (start : Word) : Nat → M (List (BitVec 32))
  | 0 => return []
  | n + 1 => do
    let l ← fetchFrame start n
    let w ← fetchAt (start + BitVec.ofNat 64 (4 * n))
    return l ++ [w]

/-- The frame words a thread must hold: those captured so far in pass 0, all of them later (R71). -/
def Rep.needed (r : Rep) : Nat := if r.act then (if r.pass = 0 then r.idx else r.lenm1 + 1) else 0

/-- CODE_FETCH: the buffer is filled from the PC to the end of its 8-word line (R74); the frame store is refilled when the thread
has resumed inside a frame (R73). -/
def codeFetchM : M Unit := do
  let s ← get
  let pc := s.th.r.pc
  let need := s.th.r.rep.needed
  if s.th.is.frame.length < need then
    let l ← fetchFrame (pc - BitVec.ofNat 64 (4 * s.th.r.rep.idx)) need
    modify (fun s => { s with th.is.frame := l })
  else
    let w ← fetchAt pc
    let s ← get
    let r := fillLine s.cur (7 - pc.toNat / 4 % 8) (pc.toNat + 4) s
    set { r.1 with th.is.ibuf := (pc.toNat, w) :: r.2 }
  modify (fun s => { s with issuing := true })

/-- The buffered word at the PC. -/
def Thread.buffered (t : Thread) : Option (BitVec 32) :=
  (t.is.ibuf.find? (fun p => p.1 = t.r.pc.toNat)).map (fun p => p.2)

/-! Repeat frames. -/

/-- The majors a frame captures (R69). -/
def capturable (w : BitVec 32) : Bool :=
  let m := w.toNat / 2 ^ 26
  (1 ≤ m && m ≤ 10) || m = 0x20 || m = 0x21 || m = 0x23 || m = 0x30 || m = 0x31

/-- A 5-bit field of a word moved by a stride (R70). -/
def moveField (w : BitVec 32) (lo d : Nat) : BitVec 32 :=
  let x := w.toNat
  let f := x / 2 ^ lo % 32
  BitVec.ofNat 32 (x - f * 2 ^ lo + (f + d) % 32 * 2 ^ lo)

/-- The word of pass `i` under the renaming of R70, by the format of its major. -/
def renameWord (r : Rep) (w : BitVec 32) : BitVec 32 :=
  let m := w.toNat / 2 ^ 26
  let d := r.pass * r.sd
  let a := r.pass * r.sa
  let b := r.pass * r.sb
  if m = 1 ∨ m = 10 ∨ m = 0x30 then moveField (moveField (moveField w 21 d) 16 a) 11 b
  else if 2 ≤ m ∧ m ≤ 6 then moveField (moveField w 21 d) 16 a
  else if m = 7 ∨ m = 8 then moveField w 21 d
  else if m = 9 then moveField (moveField w 21 d) 16 a
  else
    let w := moveField (moveField w 14 d) 9 a
    if w.getLsbD 0 then w else moveField w 4 b

/-- What the frame says of the next word: issue this one, or begin the passes after an early end of the capture (R69). -/
inductive FrameStep where
  | word (w : BitVec 32) (s : State)
  | again (s : State)

/-- The frame's part in choosing the word: `w` is the word at the PC. -/
def State.frameStep (s : State) (w : BitVec 32) : FrameStep :=
  let r := s.th.r.rep
  if !r.act then .word w s
  else if r.pass ≠ 0 then
    let f := (s.th.is.frame.drop r.idx).headD w
    .word f s
  else if capturable w then .word w { s with th.is.frame := s.th.is.frame.take r.idx ++ [w] }
  else if r.idx = 0 then .word w { s with th.r.rep := {}, th.is.frame := [] }
  else
    .again { s with th.r.rep := { r with lenm1 := r.idx - 1, pass := 1, idx := 0 },
                    th.r.pc := s.th.r.pc - BitVec.ofNat 64 (4 * r.idx) }

/-- A failed fetch ends the capture (R69): the frame has the words captured so far. -/
def State.endCapture (s : State) : State :=
  let r := s.th.r.rep
  if r.act ∧ r.pass = 0 then
    if r.idx = 0 then { s with th.r.rep := {}, th.is.frame := [] }
    else { s with th.r.rep := { r with lenm1 := r.idx - 1, pass := 1, idx := 0 },
                  th.r.pc := s.th.r.pc - BitVec.ofNat 64 (4 * r.idx) }
  else s

/-- Whether the word at the PC would be fetched: within the code, and its page translates. -/
def State.fetchable (s : State) : Bool :=
  let pc := s.th.r.pc.toNat
  let l := s.launchOf s.cur
  if pc % 4 ≠ 0 || 4 * l.kernel.words ≤ pc then false
  else match s.codeKey s.cur pc with
    | (_, .ok _) => true
    | _ => false

/-! The relaxed prefix. -/

/-- The majors that may follow RLX (R58). -/
def markable (w : BitVec 32) : Bool :=
  let m := w.toNat / 2 ^ 26
  (0x18 ≤ m && m ≤ 0x1C) || m = 0x22

/-- Whether a marked instruction may be relaxed (R145). -/
def rlxOk : Instr → Bool
  | .ldB d _ _ => d = 0
  | .ldH d _ _ => d = 0
  | .ldW d _ _ => d = 0
  | .ldD d _ _ => d = 0
  | .ldBs d _ _ => d = 0
  | .ldHs d _ _ => d = 0
  | .ldWs d _ _ => d = 0
  | .ldCvt d _ _ => d = 0
  | .ldf _ _ _ => false
  | .ldfe _ _ _ => false
  | .stf _ _ _ => false
  | .waitgen _ _ _ => false
  | .amoAdd d _ _ _ => d = 0
  | .amoMin d _ _ _ => d = 0
  | .amoMax d _ _ _ => d = 0
  | .amoMinu d _ _ _ => d = 0
  | .amoMaxu d _ _ _ => d = 0
  | .amoSwap d _ _ _ => d = 0
  | .amoCas d _ _ _ => d = 0
  | .amoAnd d _ _ _ => d = 0
  | .amoOr d _ _ _ => d = 0
  | .amoXor d _ _ _ => d = 0
  | .amoFadd d _ _ => d = 0
  | _ => true

/-! The scoreboard and the units a word needs free (R78). -/

def usesVcq : Instr → Bool
  | .vadd .. | .vsub .. | .vmul .. | .vfma .. | .vmin .. | .vmax .. | .vabs .. | .vneg .. | .vand .. | .vor .. | .vxor ..
  | .vshl .. | .vshr .. | .vcmpEq .. | .vcmpLt .. | .vcmpLe .. | .vcmpUnord .. | .vsel .. | .vperm .. | .vbcast .. | .vins ..
  | .vscan .. | .vtopk .. | .vcvtFromF32 .. | .vcvtToF32 .. | .vscanlr .. | .xscan .. => true
  | _ => false

def usesSfq : Instr → Bool
  | .vsf .. => true
  | _ => false

/-- The number of a vector register after another (R206). -/
def nextReg (n : BitVec 5) : Nat := (n.toNat + 1) % 32

/-- A mask in the numbering of the scoreboard; k0 is never pending (R191). -/
def maskReg (k : BitVec 3) : List Nat := if k = 0 then [] else [32 + k.toNat]

/-- The vector registers and masks of a form with an operand x, which is a vector when S = 0. -/
def regsX (d a x : BitVec 5) (k : BitVec 3) (z : BitVec 1) : List Nat :=
  [d.toNat, a.toNat] ++ (if z = 0 then [x.toNat] else []) ++ maskReg k

/-- The vector registers, and masks at 32 and up, that an instruction reads or writes (R192). -/
def vregsOf : Instr → List Nat
  | .vadd _ _ d a x k z => regsX d a x k z
  | .vsub _ _ d a x k z => regsX d a x k z
  | .vmul _ _ d a x k z => regsX d a x k z
  | .vfma _ _ d a x k z => regsX d a x k z
  | .vmin _ d a x k z => regsX d a x k z
  | .vmax _ d a x k z => regsX d a x k z
  | .vabs _ d a k => regsX d a 0 k 1
  | .vneg _ d a k => regsX d a 0 k 1
  | .vand d a x k z => regsX d a x k z
  | .vor d a x k z => regsX d a x k z
  | .vxor d a x k z => regsX d a x k z
  | .vshl d a x k z => regsX d a x k z
  | .vshr _ d a x k z => regsX d a x k z
  | .vcmpEq _ d a x k z => maskReg d ++ regsX a a x k z
  | .vcmpLt _ d a x k z => maskReg d ++ regsX a a x k z
  | .vcmpLe _ d a x k z => maskReg d ++ regsX a a x k z
  | .vcmpUnord _ d a x k z => maskReg d ++ regsX a a x k z
  | .vsel d a x k z => regsX d a x k z
  | .vperm d a x z => regsX d a x 0 z
  | .vbcast _ d _ k => regsX d d 0 k 1
  | .vins d _ _ => [d.toNat]
  | .vext _ a _ => [a.toNat]
  | .vred _ _ a _ k => regsX a a 0 k 1
  | .vdot _ _ a b k => regsX a b 0 k 1
  | .vdotb _ a _ k => nextReg a :: regsX a a 0 k 1
  | .vscan _ d a _ _ k => regsX d a 0 k 1
  | .vtopk _ d a _ k => nextReg d :: regsX d a 0 k 1
  | .vld d _ _ k => regsX d d 0 k 1
  | .vst d _ _ k => regsX d d 0 k 1
  | .vlds d _ _ k => regsX d d 0 k 1
  | .vsts d _ _ k => regsX d d 0 k 1
  | .vgath d _ _ k => nextReg d :: regsX d d 0 k 1
  | .vscat d _ _ k => nextReg d :: regsX d d 0 k 1
  | .vcvtFromF32 _ _ d a x k _ => (if x.toNat = 16 then [nextReg a] else []) ++ regsX d a 0 k 1
  | .vcvtToF32 _ _ d a x k => (if x.toNat = 16 then [nextReg d] else []) ++ regsX d a 0 k 1
  | .vsf _ d a _ k => regsX d a 0 k 1
  | .vscanlr _ d a k => nextReg d :: nextReg a :: regsX d a 0 k 1
  | .kand d a b => maskReg d ++ maskReg a ++ maskReg b
  | .kor d a b => maskReg d ++ maskReg a ++ maskReg b
  | .knot d a => maskReg d ++ maskReg a
  | .kmovKk d a => maskReg d ++ maskReg a
  | .kmovKs d _ => maskReg d
  | .kmovSk _ a => maskReg a
  | .kpop _ a => maskReg a
  | .hsendv a => [a.toNat]
  | .hrecvv d => [d.toNat]
  | .xscan d a _ => nextReg a :: regsX d a 0 0 1
  | .accrd d _ _ _ => [d.toNat]
  | .bld d _ _ _ => [d.toNat]
  | .bst d _ _ _ => [d.toNat]
  | .send d _ _ _ => [d.toNat]
  | .amsg d _ _ _ => [d.toNat]
  | .rstV d _ _ _ => [d.toNat]
  | .recv _ v => [v.toNat]
  | .recvp _ v => [v.toNat]
  | .spappend d _ => [d.toNat]
  | _ => []

/-- Whether a queued command is of the task that a slot runs. -/
def State.isOwn (s : State) (k who : Nat) (task : Word) : Bool := who = k && s.groupTask k = task

/-- The vector registers and masks that a thread's scoreboard marks as pending (R192): those of its queued commands, and those of its relaxed
vector loads. -/
def State.pendingRegs (s : State) (k : Nat) : List Nat :=
  let u := (s.core (coreOf k)).u
  (u.vcq ++ u.sfq).flatMap (fun q => if s.isOwn k q.who q.task then q.regs else []) ++
  (s.relReqs k).filterMap (fun q => if s.isOwn k q.who q.task then q.dst.map (fun p => p.1) else none)

/-- Whether a matrix command that waits in the intake holds a matrix instruction back (R228, R234, R238, R241). -/
def MxCmd.holds (q : MxCmd) : Instr → Bool
  | .accz c => q.acc = c.toNat
  | .accld _ c => q.acc = c.toNat
  | .accst _ _ _ _ _ c => q.acc = c.toNat && !q.store
  | .accrd _ _ _ c => q.acc = c.toNat && !q.store
  | .mma _ _ _ _ c _ _ => q.acc = c.toNat
  | .mmas _ _ _ _ c _ _ => q.acc = c.toNat || q.sk
  | .mmaJ _ _ _ _ c _ _ => q.acc = c.toNat
  | .mmasJ _ _ _ _ c _ _ => q.acc = c.toNat || q.sk
  | .ofill n _ _ => q.slots.contains n.toNat
  | .skset _ => q.sk
  | .orelease k n =>
    if k = 0 then q.slots.contains n.toNat else if n.toNat = 2 then q.sk else q.acc = n.toNat && !q.store
  | _ => false

/-- The operand slots of its own core that an instruction reads, writes or releases, with `lead` on a joint form's leading core (R229, R231,
R249). -/
def slotsOf (lead : Bool) : Instr → List Nat
  | .mma _ _ _ _ _ b a => [a.toNat, b.toNat]
  | .mmas _ _ _ _ _ b a => [a.toNat, b.toNat]
  | .mmaJ _ _ _ _ _ b a => if lead then [a.toNat, b.toNat] else [b.toNat]
  | .mmasJ _ _ _ _ _ b a => if lead then [a.toNat, b.toNat] else [b.toNat]
  | .ofill n _ _ => [n.toNat]
  | .odrain n _ _ => [n.toNat]
  | .orelease k n => if k = 0 then [n.toNat] else []
  | _ => []

/-- The operand slots that a thread's OFILLs mark as pending (R231). -/
def State.pendingSlots (s : State) (k : Nat) : List Nat :=
  (s.relReqs k).filterMap (fun q => match q.op with
    | .fill slot _ _ _ => if s.isOwn k q.who q.task then some slot else none
    | _ => none)

/-- The scoreboard's part of next_ok (R78, R231, R234). -/
def State.boardOk (s : State) (k : Nat) (i : Instr) : Bool :=
  !(vregsOf i).any (fun r => (s.pendingRegs k).contains r) &&
  !(slotsOf (coreOf (s.getT k).en.leader = coreOf k) i).any (fun x => (s.pendingSlots k).contains x) &&
  !(s.core (coreOf k)).u.intake.any (fun q => s.isOwn k q.who q.task && q.holds i)

/-- The unit queues' part of next_ok (R78, R194). -/
def State.queueOk (s : State) (k : Nat) (i : Instr) : Bool :=
  let u := (s.core (coreOf k)).u
  (!usesVcq i || decide (u.vcq.length < 8)) && (!usesSfq i || decide (u.sfq.length < 4))

/-- Whether an earlier FADD atomic of the thread has not returned its flags (R44). -/
def State.flagsDue (s : State) (k : Nat) : Bool :=
  decide (0 < (s.getT k).w.fadds) || (s.relReqs k).any (fun q => match q.op with
    | .amo op _ _ _ _ => decide (op = 10)
    | _ => false)

/-- Whether a thread has vector or special-function commands that have not retired, relaxed vector accesses included (R195). -/
def State.vectorBusy (s : State) (k : Nat) : Bool :=
  let u := (s.core (coreOf k)).u
  (u.vcq ++ u.sfq).any (fun q => s.isOwn k q.who q.task) || (s.relReqs k).any (fun q => q.vec && s.isOwn k q.who q.task)

/-- Whether a thread has vector, special-function or matrix work that has not retired (R96, R319). -/
def State.unitsBusy (s : State) (k : Nat) : Bool :=
  s.vectorBusy k || (s.core (coreOf k)).u.intake.any (fun q => s.isOwn k q.who q.task)

/-- The waits of next_ok for FPFLAGS and RNGSEED, and of SPCMP (R41, R44, R319). -/
def State.flagsOk (s : State) (k : Nat) : Instr → Bool
  | .mfs _ r => !(r.toNat = 8 && (s.flagsDue k || s.unitsBusy k)) && !(r.toNat = 10 && s.unitsBusy k)
  | .mts _ r => !(r.toNat = 8 && (s.flagsDue k || s.unitsBusy k)) && !(r.toNat = 10 && s.unitsBusy k)
  | .spcmp => !s.unitsBusy k
  | _ => true

/-- next_ok (R78). -/
def State.nextOk (s : State) (k : Nat) (i : Instr) : Bool := s.boardOk k i && s.queueOk k i && s.flagsOk k i

/-- Whether the earlier work of a thread that an instruction waits for is done (Table 04-2, Table 12-10). -/
def State.workDone (s : State) (k : Nat) (w : Work) : Bool :=
  let l := (s.relReqs k).filter (fun q => !q.strong && s.isOwn k q.who q.task)
  match w with
  | .reads => !l.any (fun q => q.op.isRead)
  | .writes => !l.any (fun q => q.op.isWrite)
  | .accesses => l = []
  | .beat => l = []
  | .vectors => !s.vectorBusy k
  | .all => l = [] && !s.unitsBusy k

/-- The current thread waits for its earlier work (R80). -/
def waitM (w : Work) : M Unit := do
  let s ← get
  if s.workDone s.cur w then pure () else parkM (.work w)

end Sys2Proof.Machine
end

