-- ==== Sys2Proof/Machine/System.lean ====
section
/-! DEFINITION. The system forms (04, R95 to R97), the state registers they name, REPF (03, R68), and TRAP and BRK (19, R387). -/

namespace Sys2Proof.Machine

/-- NOP (R95). -/
def execNop (s : State) : Host.Outcome State Fault Refusal := .next s.retire

/-- YIELD (R95): GAP becomes 8 + n. -/
def execYield (n : BitVec 8) (s : State) : Host.Outcome State Fault Refusal :=
  .next { s.retire with th.is.gap := 8 + n.toNat }

/-! State registers. -/

/-- The owner of the current thread's group: the thread itself outside a group slot (R330). -/
def State.groupOwner (s : State) : Thread := if s.th.sp.role = .none then s.th else s.getT s.th.sp.owner

/-- SPSTAT (Table 15-6). -/
def Spec.stat (p : Spec) : Word :=
  BitVec.ofNat 64 ((if p.act then 2 ^ 63 else 0) + (if p.bound then 2 ^ 62 else 0) + (if p.abort then 2 ^ 61 else 0) +
    p.width * 2 ^ 48 + p.n * 2 ^ 24 + p.c)

/-- REPST (Table 03-10). -/
def Rep.word (r : Rep) : Word :=
  BitVec.ofNat 64 ((if r.act then 2 ^ 33 else 0) + r.pass * 2 ^ 28 + r.idx * 2 ^ 24 + r.lenm1 * 2 ^ 20 + r.nm1 * 2 ^ 15 +
    r.sd * 2 ^ 10 + r.sa * 2 ^ 5 + r.sb)

/-- PHASE at a cycle (Table 04-5). -/
def Region.phase (g : Region) : Word :=
  BitVec.ofNat 64 ((g.wheel.po - 1) * 2 ^ 24 + g.wheel.pi * 2 ^ 16 + g.clock / g.wheel.pi % g.wheel.po * 2 ^ 8 + g.clock % g.wheel.pi)

/-- Distinct queued relaxed vector accesses of a thread (R194). -/
def State.vecRelaxed (s : State) (k : Nat) : Nat := (dedup (((s.relReqs k).filter (fun q => q.vec)).map (fun q => q.no))).length

/-- VBUSY (Table 09-2). -/
def State.vbusy (s : State) (k : Nat) : Word :=
  let u := (s.core (coreOf k)).u
  let own := ((u.vcq ++ u.sfq).filter (fun q => s.isOwn k q.who q.task)).length + s.vecRelaxed k
  BitVec.ofNat 64 (own * 2 ^ 16 + u.sfq.length * 2 ^ 4 + u.vcq.length)

/-- The port with the fewest READY threads, ties to the lower port (Table 18-6). -/
def idlePort (load : SMap Nat) : Nat → Nat
  | 0 => 0
  | n + 1 =>
    let p := idlePort load n
    if SMap.get 0 load n < SMap.get 0 load p then n else p

/-- LOADREG (Table 18-6), from the load table as last refreshed. -/
def State.loadreg (s : State) (c : Nat) : Word :=
  let load := (s.cluster (clusterOf c)).load
  let total := (load.map (fun p => p.2)).foldl (· + ·) 0
  let p := idlePort load 64
  BitVec.ofNat 64 ((s.core c).own * 2 ^ 40 + total / 64 * 2 ^ 32 + p * 2 ^ 24 + SMap.get 0 load p * 2 ^ 16 + total)

/-- COLOUR (R398). -/
def State.colourWord (s : State) : Word :=
  BitVec.ofNat 64 (s.th.en.area / 2 ^ 10 % 2 ^ 46 * 2 ^ 10 + s.th.en.saves.toNat * 2 ^ 2 + (if s.th.en.moved then 2 else 0) +
    (if (s.core s.coreNo).colour then 1 else 0))

/-- LOGSEQ (Table 16-5). -/
def State.logseq (s : State) : Word := BitVec.ofNat 64 ((s.log s.regionNo).mode * 2 ^ 62 + s.groupOwner.en.logN.toNat)

/-- The value of a state register by number (Table 04-3); none for a reserved number. -/
def State.stateReg (s : State) (n : Nat) : Option Word :=
  match n with
  | 0x00 => some s.th.id.task
  | 0x01 => some (BitVec.ofNat 64 s.slotNo)
  | 0x02 => some (BitVec.ofNat 64 s.coreNo)
  | 0x03 => some (BitVec.ofNat 64 s.clusterNo)
  | 0x04 => some (BitVec.ofNat 64 (s.th.id.lregion.toNat * 2 ^ 8 + s.regionNo))
  | 0x05 => some (BitVec.ofNat 64 (s.clockAt s.coreNo))
  | 0x06 => some (s.region s.regionNo).phase
  | 0x08 => some (s.th.r.fp.setWidth 64)
  | 0x09 => some (s.th.r.rmode.setWidth 64)
  | 0x0A => some s.th.r.seed
  | 0x0B => some s.th.r.rep.word
  | 0x0C => some s.groupOwner.sp.stat
  | 0x0D => some (s.vbusy s.cur)
  | 0x0E => some s.logseq
  | 0x0F => some s.colourWord
  | 0x10 => some (Config.cap0 s.pkg.partC)
  | 0x11 => some (Config.cap1 s.pkg.partC)
  | 0x12 => some (Config.cap2 s.pkg.partC)
  | 0x13 => some (Config.cap3 s.pkg.partC)
  | 0x14 => some (s.loadreg s.coreNo)
  | _ => none

/-- MFS (R97): a reserved number traps ILLEGAL (R85). -/
def execMfs (d : BitVec 5) (r : BitVec 8) (s : State) : Host.Outcome State Fault Refusal :=
  finish (match s.stateReg r.toNat with
    | some v => do
      setS d v
      retireM
    | none => illegal) s

/-- MTS (R97): only FPFLAGS, RMODE and RNGSEED are written, under their own checks (R38, R43). -/
def execMts (a : BitVec 5) (r : BitVec 8) (s : State) : Host.Outcome State Fault Refusal :=
  let v := s.rdS a
  finish (match r.toNat with
    | 0x08 => do
      need (decide (v.toNat < 16))
      modify (fun s => { s with th.r.fp := v.setWidth 4 })
      retireM
    | 0x09 => do
      need (decide (v.toNat < 5))
      modify (fun s => { s with th.r.rmode := v.setWidth 3 })
      retireM
    | 0x0A => do
      modify (fun s => { s with th.r.seed := v })
      retireM
    | _ => illegal) s

/-! Ending a task. -/

/-- The DVA of area `n` of a region's save pool (R393). -/
def Region.poolAt (g : Region) (n : Nat) : Nat := g.poolBase.toNat / 2 ^ 10 % 2 ^ 46 * 2 ^ 10 + 5120 * n

/-- An area returns to the pool (R393). -/
def State.freeArea (s : State) (r dva : Nat) : State := s.updRegion r (fun g => { g with poolHeld := g.poolHeld.filter (fun a => a ≠ dva) })

/-- A slot becomes EMPTY: units released, the gang disbanded (R96, R389). -/
def State.emptySlot (s : State) (k : Nat) : State :=
  let s := s.disbandGang k
  let s := s.updCore (coreOf k) (fun c => { c with u := c.u.release (slotOf k) })
  s.setT k {}

/-- The pointers of an engine command (11, Tables 11-8 to 11-14), by the KIND of its first beat. -/
def Cmd.pointers (c : Cmd) : List Word :=
  let b := fun (i : Nat) => (c.beats.drop i).headD 0
  let lo := fun (i : Nat) => (b i).setWidth 64
  let hi := fun (i : Nat) => (b i >>> 64).setWidth 64
  let sync := if (b 0).getLsbD 16 then [lo 2] else []
  sync ++ (match (b 0).toNat % 16 with
    | 1 => [lo 1, hi 1]
    | 2 => [lo 1, hi 1, hi 2, lo 3]
    | 3 => [hi 0, lo 1, hi 1, lo 3]
    | 4 => [lo 1, hi 1, hi 2]
    | _ => [])

/-- Whether an engine command names bank memory of a cluster (R160). -/
def Cmd.namesBank (c : Cmd) (cluster : Nat) : Bool :=
  c.pointers.any (fun p =>
    let g := SMap.get 0 c.segs (ptrSeg p)
    (segSpace g = 1 && clusterOf (coreOf c.thread) = cluster) ||
    (segSpace g = 2 && 4 * regionOf (coreOf c.thread) + segCluster g = cluster))

/-- The engine commands of a launch, in input FIFOs and active. -/
def State.launchCmds (s : State) (n : Nat) : List Cmd :=
  ((s.cores.flatMap (fun p => p.2.u.fifoIn.flatMap (fun q => q.2))) ++ s.engines.flatMap (fun p => p.2)).filter (fun c => taskKey c.task = n)

/-- Whether a cluster's bank-memory window of a launch is still needed (R160): a task of the launch has not left the cluster, whether it holds a
slot, waits in a saved context, or is on its way between cores (DEDUCED: R408 finds the window as the saved task left it), or an engine command
of it names the window. -/
def State.bankHeld (s : State) (n cluster : Nat) : Bool :=
  s.threadKeys.any (fun k => (s.getT k).st ≠ .empty && slotOf k ≠ 15 && taskKey (s.getT k).id.task = n && clusterOf (coreOf k) = cluster) ||
  s.regions.any (fun p => p.2.contexts.any (fun c => taskKey c.task = n && clusterOf c.home = cluster)) ||
  s.migr.any (fun m => taskKey m.thread.id.task = n && clusterOf m.dst = cluster) ||
  (s.launchCmds n).any (fun c => c.namesBank cluster)

/-- Windows of a launch that nothing holds any longer are freed: a local-store window with no task of the launch on the core and no
saved context of it there (R130), and a bank-memory window (R160). -/
def State.reclaim (s : State) (n : Nat) : State :=
  let l := s.launch n
  let on := (s.threadKeys.filter (fun k => (s.getT k).st ≠ .empty && slotOf k ≠ 15 && taskKey (s.getT k).id.task = n)).map coreOf
  let s := s.setLaunch n { l with lsWin := l.lsWin.filter (fun w => on.contains w.1 || l.holds.any (fun h => h.2 = w.1)) }
  { s with clusters := s.clusters.map (fun p =>
      (p.1, { p.2 with windows := p.2.windows.filter (fun w => w.1 ≠ n || s.bankHeld n p.1) })) }

/-- A task ends, by TEXIT or abandoned (R96, R368): its slot is EMPTY, and its windows and its area are held no longer (R130, R406). -/
def State.endTask (s : State) (k : Nat) (abandoned : Bool) : State :=
  let t := s.getT k
  let n := taskKey t.id.task
  let l := s.launch n
  let s := if t.en.moved then s.freeArea t.en.areaReg t.en.area else s
  ((s.setLaunch n { l with
    ended := l.ended + (if abandoned then 0 else 1)
    abandoned := l.abandoned + (if abandoned then 1 else 0)
    holds := l.holds.filter (fun h => h.1 ≠ t.id.task) }).emptySlot k).reclaim n

/-- TEXIT (R96): it waits for outstanding relaxed accesses and for vector and matrix commands; then units are released, the gang disbands, the
slot is EMPTY. A deferred trap that arose meanwhile is taken first (R384). -/
def execTexit (s : State) : Host.Outcome State Fault Refusal :=
  finish (do
    notHandler
    if s.th.sp.act ∨ s.th.sp.role ≠ .none then specTrap
    waitM .all
    let s ← get
    if s.th.is.deferred ≠ [] then set { s with th := s.th.wake.rewind }
    else set (s.endTask s.cur false)) s

/-! Repeat frames. -/

/-- REPF (R68, R69): the frame opens and its first pass begins with the next word; NM1 = 0 traps ILLEGAL. -/
def execRepf (n d a b : BitVec 5) (l : BitVec 4) (s : State) : Host.Outcome State Fault Refusal :=
  finish (do
    need (n ≠ 0)
    modify (fun s =>
      let s := s.retire
      { s with th.r.rep := { act := true, pass := 0, idx := 0, lenm1 := l.toNat, nm1 := n.toNat, sd := d.toNat, sa := a.toNat, sb := b.toNat },
               th.is.frame := [] })) s

/-! TRAP and BRK. -/

/-- The instruction retires and its own trap is taken after it, reported at its PC (R387). -/
def trapAfter (code : BitVec 8) (addr info : Word) : M Unit := do
  specBind
  modify (fun s => s.retire.freeze s.cur code addr info s.th.r.pc false false [])

/-- TRAP (R387). -/
def execTrap (a : BitVec 5) (n : BitVec 8) (s : State) : Host.Outcome State Fault Refusal :=
  finish (trapAfter tSoftware (s.rdS a) (n.setWidth 64)) s

/-- BRK (R387). -/
def execBrk (n : BitVec 8) (s : State) : Host.Outcome State Fault Refusal := finish (trapAfter tBreakpoint 0 (n.setWidth 64)) s

end Sys2Proof.Machine
end

