-- ==== Sys2Proof/Machine/Integer.lean ====
section
/-! DEFINITION. The integer, immediate, bit-field, compare and select instructions (04, R88 to R92). Each writes one scalar register
and changes nothing else but the PC. -/

namespace Sys2Proof.Machine

/-- A truth value as 1 or 0 (R92). -/
def ofBool (c : Bool) : Word := if c then 1 else 0

/-- Shift and rotate amounts use bits 5 to 0 (R88). -/
def shamt (b : Word) : Nat := b.toNat % 64

/-- The high half of a 128-bit product, signed or unsigned (Table 04-6). -/
def mulHigh (signed : Bool) (a b : Word) : Word :=
  if signed then BitVec.ofInt 64 (a.toInt * b.toInt / 2 ^ 64) else BitVec.ofNat 64 (a.toNat * b.toNat / 2 ^ 64)

/-- Signed quotient (R89, Table 04-7). -/
def divS (a b : Word) : Word := if b = 0 then 0xFFFFFFFFFFFFFFFF#64 else BitVec.ofInt 64 (Int.tdiv a.toInt b.toInt)
/-- Unsigned quotient (R89, Table 04-7). -/
def divU (a b : Word) : Word := if b = 0 then 0xFFFFFFFFFFFFFFFF#64 else BitVec.ofNat 64 (a.toNat / b.toNat)
/-- Signed remainder (R89, Table 04-7). -/
def remS (a b : Word) : Word := if b = 0 then a else BitVec.ofInt 64 (Int.tmod a.toInt b.toInt)
/-- Unsigned remainder (R89, Table 04-7). -/
def remU (a b : Word) : Word := if b = 0 then a else BitVec.ofNat 64 (a.toNat % b.toNat)

/-- Leading zero bits; 64 of zero (Table 04-6). -/
def leadZeros (a : Word) : Word := if a = 0 then 64 else BitVec.ofNat 64 (63 - a.toNat.log2)

/-- Trailing zero bits among the first `n`. -/
def lowZeros (a : Nat) : Nat → Nat
  | 0 => 0
  | n + 1 => if a % 2 = 1 then 0 else 1 + lowZeros (a / 2) n

/-- Trailing zero bits; 64 of zero (Table 04-6). -/
def trailZeros (a : Word) : Word := BitVec.ofNat 64 (lowZeros a.toNat 64)

/-- Set bits among the first `n`. -/
def countOnes (a : Nat) : Nat → Nat
  | 0 => 0
  | n + 1 => a % 2 + countOnes (a / 2) n

/-- Set bits (Table 04-6). -/
def popCount (a : Word) : Word := BitVec.ofNat 64 (countOnes a.toNat 64)

/-- The eight bytes in reverse order (Table 04-6). -/
def byteSwap (a : Word) : Word := BitVec.ofNat 64 (leNat (leBytes 8 a.toNat).reverse)

/-- BEXT (R91). -/
def bitExtract (a : Word) (width offset : Nat) : Word :=
  if width = 0 ∨ 64 ≤ offset then 0 else BitVec.ofNat 64 (a.toNat / 2 ^ offset % 2 ^ min width (64 - offset))

/-- BINS (R91): the field of `d` replaced by the low bits of `a`. -/
def bitInsert (d a : Word) (width offset : Nat) : Word :=
  if width = 0 ∨ 64 ≤ offset then d
  else
    let mask : Word := BitVec.ofNat 64 ((2 ^ min width (64 - offset) - 1) * 2 ^ offset)
    (d &&& ~~~mask) ||| ((a <<< offset) &&& mask)

/-- LIMMH (R90): lane `q` of 16 bits replaced. -/
def setLane (d : Word) (q : BitVec 2) (i : BitVec 16) : Word := bitInsert d (i.setWidth 64) 16 (16 * q.toNat)

/-- ADD (R88). -/
def execAdd (d a b : BitVec 5) (s : State) : Host.Outcome State Fault Refusal :=
  writesS d ((s.rdS a) + (s.rdS b)) s

/-- SUB (R88). -/
def execSub (d a b : BitVec 5) (s : State) : Host.Outcome State Fault Refusal :=
  writesS d ((s.rdS a) - (s.rdS b)) s

/-- MUL (R88). -/
def execMul (d a b : BitVec 5) (s : State) : Host.Outcome State Fault Refusal :=
  writesS d ((s.rdS a) * (s.rdS b)) s

/-- MULH (R88). -/
def execMulh (d a b : BitVec 5) (s : State) : Host.Outcome State Fault Refusal :=
  writesS d (mulHigh true (s.rdS a) (s.rdS b)) s

/-- MULHU (R88). -/
def execMulhu (d a b : BitVec 5) (s : State) : Host.Outcome State Fault Refusal :=
  writesS d (mulHigh false (s.rdS a) (s.rdS b)) s

/-- DIV (R89). -/
def execDiv (d a b : BitVec 5) (s : State) : Host.Outcome State Fault Refusal :=
  writesS d (divS (s.rdS a) (s.rdS b)) s

/-- DIVU (R89). -/
def execDivu (d a b : BitVec 5) (s : State) : Host.Outcome State Fault Refusal :=
  writesS d (divU (s.rdS a) (s.rdS b)) s

/-- REM (R89). -/
def execRem (d a b : BitVec 5) (s : State) : Host.Outcome State Fault Refusal :=
  writesS d (remS (s.rdS a) (s.rdS b)) s

/-- REMU (R89). -/
def execRemu (d a b : BitVec 5) (s : State) : Host.Outcome State Fault Refusal :=
  writesS d (remU (s.rdS a) (s.rdS b)) s

/-- AND (R88). -/
def execAnd (d a b : BitVec 5) (s : State) : Host.Outcome State Fault Refusal :=
  writesS d ((s.rdS a) &&& (s.rdS b)) s

/-- OR (R88). -/
def execOr (d a b : BitVec 5) (s : State) : Host.Outcome State Fault Refusal :=
  writesS d ((s.rdS a) ||| (s.rdS b)) s

/-- XOR (R88). -/
def execXor (d a b : BitVec 5) (s : State) : Host.Outcome State Fault Refusal :=
  writesS d ((s.rdS a) ^^^ (s.rdS b)) s

/-- SHL (R88). -/
def execShl (d a b : BitVec 5) (s : State) : Host.Outcome State Fault Refusal :=
  writesS d ((s.rdS a) <<< shamt (s.rdS b)) s

/-- SHR (R88). -/
def execShr (d a b : BitVec 5) (s : State) : Host.Outcome State Fault Refusal :=
  writesS d ((s.rdS a) >>> shamt (s.rdS b)) s

/-- SAR (R88). -/
def execSar (d a b : BitVec 5) (s : State) : Host.Outcome State Fault Refusal :=
  writesS d ((s.rdS a).sshiftRight (shamt (s.rdS b))) s

/-- ROL (R88). -/
def execRol (d a b : BitVec 5) (s : State) : Host.Outcome State Fault Refusal :=
  writesS d ((s.rdS a).rotateLeft (shamt (s.rdS b))) s

/-- MIN (R88). -/
def execMin (d a b : BitVec 5) (s : State) : Host.Outcome State Fault Refusal :=
  writesS d (if (s.rdS a).sle (s.rdS b) then (s.rdS a) else (s.rdS b)) s

/-- MAX (R88). -/
def execMax (d a b : BitVec 5) (s : State) : Host.Outcome State Fault Refusal :=
  writesS d (if (s.rdS b).sle (s.rdS a) then (s.rdS a) else (s.rdS b)) s

/-- MINU (R88). -/
def execMinu (d a b : BitVec 5) (s : State) : Host.Outcome State Fault Refusal :=
  writesS d (if (s.rdS a) ≤ (s.rdS b) then (s.rdS a) else (s.rdS b)) s

/-- MAXU (R88). -/
def execMaxu (d a b : BitVec 5) (s : State) : Host.Outcome State Fault Refusal :=
  writesS d (if (s.rdS b) ≤ (s.rdS a) then (s.rdS a) else (s.rdS b)) s

/-- CMPEQ (R92). -/
def execCmpeq (d a b : BitVec 5) (s : State) : Host.Outcome State Fault Refusal :=
  writesS d (ofBool ((s.rdS a) = (s.rdS b))) s

/-- CMPLT (R92). -/
def execCmplt (d a b : BitVec 5) (s : State) : Host.Outcome State Fault Refusal :=
  writesS d (ofBool ((s.rdS a).slt (s.rdS b))) s

/-- CMPLTU (R92). -/
def execCmpltu (d a b : BitVec 5) (s : State) : Host.Outcome State Fault Refusal :=
  writesS d (ofBool ((s.rdS a) < (s.rdS b))) s

/-- CLZ (R88). -/
def execClz (d a : BitVec 5) (s : State) : Host.Outcome State Fault Refusal := writesS d (leadZeros (s.rdS a)) s

/-- CTZ (R88). -/
def execCtz (d a : BitVec 5) (s : State) : Host.Outcome State Fault Refusal := writesS d (trailZeros (s.rdS a)) s

/-- POPC (R88). -/
def execPopc (d a : BitVec 5) (s : State) : Host.Outcome State Fault Refusal := writesS d (popCount (s.rdS a)) s

/-- BSWAP (R88). -/
def execBswap (d a : BitVec 5) (s : State) : Host.Outcome State Fault Refusal := writesS d (byteSwap (s.rdS a)) s

/-- ADDI (R90). -/
def execAddi (d a : BitVec 5) (i : BitVec 16) (s : State) : Host.Outcome State Fault Refusal := writesS d ((s.rdS a) + i.signExtend 64) s

/-- ANDI (R90). -/
def execAndi (d a : BitVec 5) (i : BitVec 16) (s : State) : Host.Outcome State Fault Refusal := writesS d ((s.rdS a) &&& i.signExtend 64) s

/-- ORI (R90). -/
def execOri (d a : BitVec 5) (i : BitVec 16) (s : State) : Host.Outcome State Fault Refusal := writesS d ((s.rdS a) ||| i.setWidth 64) s

/-- XORI (R90). -/
def execXori (d a : BitVec 5) (i : BitVec 16) (s : State) : Host.Outcome State Fault Refusal := writesS d ((s.rdS a) ^^^ i.setWidth 64) s

/-- SHLI (R90). -/
def execShli (d a : BitVec 5) (n : BitVec 6) (s : State) : Host.Outcome State Fault Refusal := writesS d ((s.rdS a) <<< n.toNat) s

/-- SHRI (R90). -/
def execShri (d a : BitVec 5) (n : BitVec 6) (s : State) : Host.Outcome State Fault Refusal := writesS d ((s.rdS a) >>> n.toNat) s

/-- SARI (R90). -/
def execSari (d a : BitVec 5) (n : BitVec 6) (s : State) : Host.Outcome State Fault Refusal := writesS d ((s.rdS a).sshiftRight n.toNat) s

/-- LIMM (R90). -/
def execLimm (d : BitVec 5) (i : BitVec 21) (s : State) : Host.Outcome State Fault Refusal := writesS d (i.signExtend 64) s

/-- LIMMH (R90). -/
def execLimmh (d : BitVec 5) (q : BitVec 2) (i : BitVec 16) (s : State) : Host.Outcome State Fault Refusal :=
  writesS d (setLane (s.rdS d) q i) s

/-- BEXT (R91). -/
def execBext (d a : BitVec 5) (w : BitVec 7) (o : BitVec 8) (s : State) : Host.Outcome State Fault Refusal :=
  writesS d (bitExtract (s.rdS a) w.toNat o.toNat) s

/-- BINS (R91). -/
def execBins (d a : BitVec 5) (w : BitVec 7) (o : BitVec 8) (s : State) : Host.Outcome State Fault Refusal :=
  writesS d (bitInsert (s.rdS d) (s.rdS a) w.toNat o.toNat) s

/-- SEL (R92). -/
def execSel (d a b c : BitVec 5) (s : State) : Host.Outcome State Fault Refusal :=
  writesS d (if s.rdS c ≠ 0 then s.rdS a else s.rdS b) s

end Sys2Proof.Machine
end

