-- ==== Sys2Proof/Machine/ScalarFp.lean ====
section
/-! DEFINITION. The scalar FP32 instructions (04, R98 to R100). -/

namespace Sys2Proof.Machine

/-- A scalar register read as FP32: its low 32 bits (R98). -/
def State.rdF (s : State) (n : BitVec 5) : Word32 := (s.rdS n).setWidth 32

/-- An FP32 result: the high half of sd is zero (R98), the flags are ORed (R43). -/
def writesF (d : BitVec 5) (r : Word32 × Flags) : M Unit := do
  setS d (r.1.setWidth 64)
  orFlagsM r.2
  retireM

/-- FADD (R98). -/
def execFadd (d a b : BitVec 5) (r : BitVec 3) (s : State) : Host.Outcome State Fault Refusal :=
  finish (do
    need (rmArithOk r)
    writesF d (f32Add (s.arithMode r) (s.rdF a) (s.rdF b))) s

/-- FMUL (R98). -/
def execFmul (d a b : BitVec 5) (r : BitVec 3) (s : State) : Host.Outcome State Fault Refusal :=
  finish (do
    need (rmArithOk r)
    writesF d (f32Mul (s.arithMode r) (s.rdF a) (s.rdF b))) s

/-- FFMA (R98): one rounding. -/
def execFfma (d a b c : BitVec 5) (r : BitVec 3) (s : State) : Host.Outcome State Fault Refusal :=
  finish (do
    need (rmArithOk r)
    writesF d (f32Fma (s.arithMode r) (s.rdF a) (s.rdF b) (s.rdF c))) s

/-- The predicates of FCMP and VCMP (R100, R200): 0 EQ, 1 LT, 2 LE, 3 UNORD. -/
def fpPredicate (p : Nat) (a b : FV) : Bool :=
  match FV.cmp a b with
  | none => decide (p = 3)
  | some o => if p = 0 then o = .eq else if p = 1 then o = .lt else if p = 2 then o ≠ .gt else false

/-- FCMP (R100): it sets no flag; predicates 4 to 31 trap ILLEGAL. -/
def execFcmp (d a b p : BitVec 5) (s : State) : Host.Outcome State Fault Refusal :=
  finish (do
    need (decide (p.toNat < 4))
    setS d (ofBool (fpPredicate p.toNat (f32 (s.rdF a)) (f32 (s.rdF b))))
    retireM) s

/-- The floating format at the narrow end of a conversion kind (Table 04-17). -/
def fcvtFormat (kind : Nat) (b : BitVec 5) : Format :=
  if kind = 4 ∨ kind = 5 then .flt .f16
  else if kind = 6 ∨ kind = 7 then .flt .bf16
  else if kind = 8 ∨ kind = 9 then formatOf (0x20 + b.setWidth 6)
  else .flt .e2m1

/-- The result of a conversion (Table 04-17): the value for sd, flags, and the generator's next state. -/
def fcvtResult (kind : Nat) (sat : Bool) (f : FFmt) (mode : Nat) (seed x : Word) : (Word × Flags) × Word :=
  let v := f32 (x.setWidth 32)
  let next := if mode = 4 then srStep seed else seed
  let rm := rmOfCode mode seed
  let toF := fun (g : FFmt) (y : FV) => let r := g.convert rm sat y; (BitVec.ofNat 64 r.1, r.2)
  let toI := fun (g : IFmt) => let r := g.convert rm v; (BitVec.ofInt 64 r.1, r.2)
  if kind = 0 then (toI .i32, next)
  else if kind = 1 then (toI .i64, next)
  else if kind = 2 then (toF .f32 (FV.ofInt x.toInt), next)
  else if kind = 3 then (toF .f32 (FV.ofInt (x.setWidth 32).toInt), next)
  else if kind % 2 = 0 then (toF f v, next)
  else ((((widen (f.value (x.toNat % 2 ^ (f.magBits + if f.signed then 1 else 0)))).setWidth 64, 0)), seed)

/-- FCVT (R99): a kind that rounds takes one generator step under SR; a reserved binary8 code traps FORMAT. -/
def execFcvt (d a b k : BitVec 5) (r : BitVec 3) (s : State) : Host.Outcome State Fault Refusal :=
  finish (do
    need (rmConvOk r && fcvtOk b k)
    match fcvtFormat (k.toNat % 16) b with
    | .flt f => do
      let x := fcvtResult (k.toNat % 16) (decide (16 ≤ k.toNat)) f (s.convMode r) s.th.r.seed (s.rdS a)
      setS d x.1.1
      orFlagsM x.1.2
      modify (fun s => { s with th.r.seed := x.2 })
      retireM
    | _ => formatTrap 0 (0x20 + b.setWidth 6)) s

end Sys2Proof.Machine
end

