-- ==== Sys2Proof/Machine/Special.lean ====
section
/-! DEFINITION. The special functions (09, R208, Table 09-7): each gives the exact value rounded once to FP32. A value that no FP32
number and no midpoint of two equals is computed in fixed point with 480 fraction bits and one bit that says that more follows. -/

namespace Sys2Proof.Machine

/-- Fraction bits of the fixed-point values. -/
def sfP : Nat := 480
def sfOne : Nat := 2 ^ sfP

/-- A value just above `q * 2^e`, by less than `2^e`. -/
def above (neg : Bool) (q : Nat) (e : Int) : FV := .fin neg (2 * q + 1) (e - 1)
/-- A value just below `m * 2^e`. -/
def below (neg : Bool) (m : Nat) (e : Int) : FV := .fin neg (m * 2 ^ 100 - 1) (e - 100)

/-- Integer square root by bits: of `n`, from bit `b` down. -/
def isqrtFrom (n : Nat) : Nat → Nat → Nat
  | 0, acc => if (acc + 1) * (acc + 1) ≤ n then acc + 1 else acc
  | b + 1, acc =>
    let t := acc + 2 ^ (b + 1)
    isqrtFrom n b (if t * t ≤ n then t else acc)

def isqrt (n : Nat) : Nat := isqrtFrom n (n.log2 / 2 + 1) 0

/-- Sum of `z^(2i+1) / (2i+1)` in fixed point: `p` is the current power, `zz` the square of `z`, `sub` alternates the signs. -/
def oddSeries (zz : Nat) (alt : Bool) : Nat → Nat → Nat → Int
  | 0, _, _ => 0
  | n + 1, i, p =>
    let rest := oddSeries zz alt n (i + 1) (p * zz / sfOne)
    (p / (2 * i + 1) : Nat) + (if alt then -rest else rest)

/-- atanh of a fixed-point number below one half. -/
def atanhFix (z : Nat) : Nat := (oddSeries (z * z / sfOne) false 260 0 z).toNat
/-- atan of the inverse of an integer. -/
def atanInv (n : Nat) : Nat := (oddSeries (sfOne / (n * n)) true 260 0 (sfOne / n)).toNat

/-- ln 2 and pi. -/
def ln2Fix : Nat := 2 * atanhFix (sfOne / 3)
def piFix : Nat := 16 * atanInv 5 - 4 * atanInv 239

/-- e^r for a fixed-point r below one. -/
def expSeries (r : Nat) : Nat → Nat → Nat → Nat
  | 0, _, _ => 0
  | n + 1, i, t => t + expSeries r n (i + 1) (t * r / sfOne / i)

/-- 2^f for a fixed-point fraction. -/
def pow2Frac (f : Nat) : Nat := expSeries (f * ln2Fix / sfOne) 120 1 sfOne

/-- sin and cos of a fixed-point r below pi/2: terms `r^k / k!` taken two apart. -/
def trigSeries (rr : Nat) : Nat → Nat → Nat → Int
  | 0, _, _ => 0
  | n + 1, k, t => (t : Int) - trigSeries rr n (k + 2) (t * rr / sfOne / (k + 1) / (k + 2))

def sinFix (r : Nat) : Nat := (trigSeries (r * r / sfOne) 70 1 r).toNat
def cosFix (r : Nat) : Nat := (trigSeries (r * r / sfOne) 70 0 sfOne).toNat

/-- The fixed-point value of `m * 2^e`; the exponents of FP32 values are at least -149. -/
def toFix (m : Nat) (e : Int) : Nat := m * 2 ^ (e + sfP).toNat

/-- Whether `m * 2^e` is below `2^n` or at least `2^n`. -/
def magBelow (m : Nat) (e n : Int) : Bool := (m.log2 : Int) + e < n

/-- e^y as a fixed-point mantissa in [1, 2) and a power of two, for a fixed-point y at least 0. -/
def expParts (y : Nat) : Nat × Nat :=
  let q := y * sfOne / ln2Fix
  (pow2Frac (q % sfOne), q / sfOne)

/-- e^(-y) in fixed point. -/
def expNeg (y : Nat) : Nat :=
  let p := expParts y
  sfOne * sfOne / p.1 / 2 ^ p.2

def sfExp2 : FV → FV × Flags
  | .nan => (.nan, 0)
  | .inf neg => (if neg then .fin false 0 0 else .inf false, 0)
  | .fin neg m e =>
    if m = 0 then (.fin false 1 0, 0)
    else if !magBelow m e 9 then (.fin false 1 (if neg then -300 else 300), 0)
    else
      let x : Int := if neg then -(toFix m e : Int) else toFix m e
      let n := x / (sfOne : Int)
      let f := (x % (sfOne : Int)).toNat
      (if f = 0 then .fin false 1 n else above false (pow2Frac f) (n - sfP), 0)

def sfLog2 : FV → FV × Flags
  | .nan => (.nan, 0)
  | .inf neg => if neg then (.nan, flagIV) else (.inf false, 0)
  | .fin neg m e =>
    if m = 0 then (.inf true, 0)
    else if neg then (.nan, flagIV)
    else
      let l := m.log2
      if m = 2 ^ l then (FV.ofInt (l + e), 0)
      else
        let ln := 2 * atanhFix ((m - 2 ^ l) * sfOne / (m + 2 ^ l))
        let y : Int := (l + e) * (sfOne : Int) + (ln * sfOne / ln2Fix : Nat)
        (above (decide (y < 0)) y.natAbs (-(sfP : Int)), 0)

def sfRcp : FV → FV × Flags
  | .nan => (.nan, 0)
  | .inf neg => (.fin neg 0 0, 0)
  | .fin neg m e =>
    if m = 0 then (.inf neg, 0)
    else if 2 ^ 80 % m = 0 then (.fin neg (2 ^ 80 / m) (-80 - e), 0)
    else (above neg (2 ^ 80 / m) (-80 - e), 0)

def sfRsqrt : FV → FV × Flags
  | .nan => (.nan, 0)
  | .inf neg => if neg then (.nan, flagIV) else (.fin false 0 0, 0)
  | .fin neg m e =>
    if m = 0 then (.inf neg, 0)
    else if neg then (.nan, flagIV)
    else
      let m' := if e % 2 = 0 then m else 2 * m
      let e' := if e % 2 = 0 then e else e - 1
      let q := isqrt (2 ^ 160 / m')
      (if q * q * m' = 2 ^ 160 then .fin false q (-80 - e' / 2) else above false q (-80 - e' / 2), 0)

/-- Quadrant and remainder of a positive argument modulo pi/2. -/
def reduceArg (m : Nat) (e : Int) : Nat × Nat :=
  let h := piFix / 2
  let x := toFix m e
  (x / h % 4, x % h)

def sfSin : FV → FV × Flags
  | .nan => (.nan, 0)
  | .inf _ => (.nan, flagIV)
  | .fin neg m e =>
    if m = 0 then (.fin neg 0 0, 0)
    else if magBelow m e (-40) then (below neg m e, 0)
    else
      let r := reduceArg m e
      let v := if r.1 % 2 = 0 then sinFix r.2 else cosFix r.2
      (above (neg != decide (2 ≤ r.1)) v (-(sfP : Int)), 0)

def sfCos : FV → FV × Flags
  | .nan => (.nan, 0)
  | .inf _ => (.nan, flagIV)
  | .fin _ m e =>
    if m = 0 then (.fin false 1 0, 0)
    else if magBelow m e (-40) then (below false 1 0, 0)
    else
      let r := reduceArg m e
      let v := if r.1 % 2 = 0 then cosFix r.2 else sinFix r.2
      (above (decide (r.1 = 1 ∨ r.1 = 2)) v (-(sfP : Int)), 0)

def sfTanh : FV → FV × Flags
  | .nan => (.nan, 0)
  | .inf neg => (.fin neg 1 0, 0)
  | .fin neg m e =>
    if m = 0 then (.fin neg 0 0, 0)
    else if magBelow m e (-40) then (below neg m e, 0)
    else if !magBelow m e 6 then (below neg 1 0, 0)
    else
      let u := expNeg (2 * toFix m e)
      (above neg ((sfOne - u) * sfOne / (sfOne + u)) (-(sfP : Int)), 0)

def sfSigmoid : FV → FV × Flags
  | .nan => (.nan, 0)
  | .inf neg => (if neg then .fin false 0 0 else .fin false 1 0, 0)
  | .fin neg m e =>
    if m = 0 then (.fin false 1 (-1), 0)
    else if neg then
      if !magBelow m e 9 then (.fin false 1 (-300), 0)
      else
        let p := expParts (toFix m e)
        let t := sfOne * sfOne / p.1
        (above false (t * sfOne / (sfOne + t / 2 ^ p.2)) (-(sfP : Int) - p.2), 0)
    else if !magBelow m e 7 then (below false 1 0, 0)
    else (above false (sfOne * sfOne / (sfOne + expNeg (toFix m e))) (-(sfP : Int)), 0)

/-- Sum of `(-1)^n t_n / (2n+1)` with `t_n = x^(2n+1) / n!` in fixed point. -/
def erfSeries (xx : Nat) : Nat → Nat → Nat → Int
  | 0, _, _ => 0
  | k + 1, n, t => (t / (2 * n + 1) : Nat) - erfSeries xx k (n + 1) (t * xx / sfOne / (n + 1))

def sfErf : FV → FV × Flags
  | .nan => (.nan, 0)
  | .inf neg => (.fin neg 1 0, 0)
  | .fin neg m e =>
    if m = 0 then (.fin neg 0 0, 0)
    else
      let root := isqrt (piFix * sfOne)
      if magBelow m e (-40) then (above neg (2 * m * sfOne * sfOne / root) (e - sfP), 0)
      else if !magBelow m e 3 ∨ 6 * sfOne ≤ toFix m e then (below neg 1 0, 0)
      else
        let x := toFix m e
        let v := (erfSeries (x * x / sfOne) 420 0 x).toNat
        (above neg (2 * v * sfOne / root) (-(sfP : Int)), 0)

/-- The function of a code (Table 09-7); codes 9 to 15 name none. -/
def specialFn : Nat → Option (FV → FV × Flags)
  | 0 => some sfExp2
  | 1 => some sfLog2
  | 2 => some sfRcp
  | 3 => some sfRsqrt
  | 4 => some sfSin
  | 5 => some sfCos
  | 6 => some sfTanh
  | 7 => some sfSigmoid
  | 8 => some sfErf
  | _ => none

/-- One lane of VSF (R208). -/
def specialLane (f : FV → FV × Flags) (rm : RM) (x : Word32) : Word32 × Flags := f32Of (FFmt.f32.round rm (f (f32 x)))

end Sys2Proof.Machine
end

