-- ==== Sys2Proof/Machine/Vector.lean ====
section
/-! DEFINITION. The vector arithmetic, lane and cross-lane forms, conversions, special functions and masks (09, R190 to R210). A form
reads its operands and writes its result when it issues; the queues hold its place until its command starts (R193, R194). -/

namespace Sys2Proof.Machine

/-! Elements, masks and queues. -/

/-- Element `e` of width `w` bits (R190). -/
def elemOf (v : VReg) (w e : Nat) : Nat := v.toNat / 2 ^ (w * e) % 2 ^ w

/-- Elements packed from element 0 up. -/
def packElems (w : Nat) : List Nat → Nat
  | [] => 0
  | x :: r => x % 2 ^ w + 2 ^ w * packElems w r

/-- Bit i of a mask governs container i: the 32 bits that hold the element (R191). -/
def lit (m : Word32) (w e : Nat) : Bool := m.getLsbD (w * e / 32)

/-- An element-wise form: active elements are computed, the others keep their old value (R191); flags of the active elements are ORed. -/
def lanewise (w : Nat) (m : Word32) (old : VReg) (f : Nat → Nat × Flags) : VReg × Flags :=
  let l := (List.range (1024 / w)).map (fun e => if lit m w e then f e else (elemOf old w e, (0 : Flags)))
  (BitVec.ofNat 1024 (packElems w (l.map (fun p => p.1))), orFlagList (l.map (fun p => p.2)))

/-- Lane `i` of a register, and a register from its 32 lanes. -/
def lane (v : VReg) (i : Nat) : Word32 := BitVec.ofNat 32 (elemOf v 32 i)
def ofLanes (l : List Word32) : VReg := BitVec.ofNat 1024 (packElems 32 (l.map (fun x => x.toNat)))

/-- The format and width of a type code (R196): 3 is I32. -/
def vecFmt (t : BitVec 2) : Option FFmt :=
  match t.toNat with
  | 0 => some .f32
  | 1 => some .f16
  | 2 => some .bf16
  | _ => none
def vecWidth (t : BitVec 2) : Nat := if t.toNat = 1 ∨ t.toNat = 2 then 16 else 32

/-- The last operand of a form (R196): vb, or the low element of sx broadcast. -/
def State.operandX (s : State) (x : BitVec 5) (sc : BitVec 1) (w e : Nat) : Nat :=
  if sc = 1 then (s.rdS x).toNat % 2 ^ w else elemOf (s.rdV x) w e

/-- A command takes its place in the vector command queue, or in the special-function queue, with the registers it marks pending (R192, R194). -/
def State.pushVcq (s : State) (regs : List Nat) : State :=
  s.updCore s.coreNo (fun c => { c with u.vcq := c.u.vcq ++ [{ who := s.cur, task := s.groupTask s.cur, regs := regs }] })
def State.pushSfq (s : State) (d : Nat) : State :=
  s.updCore s.coreNo (fun c => { c with u.sfq := c.u.sfq ++ [{ who := s.cur, task := s.groupTask s.cur, regs := [d] }] })

/-- A queued form retires with a vector result. -/
def vecDone (d : BitVec 5) (r : VReg × Flags) : M Unit := do
  setV d r.1
  orFlagsM r.2
  modify (fun s => s.pushVcq [d.toNat])
  retireM

def next5 (n : BitVec 5) : BitVec 5 := n + 1

/-- A queued form retires with a result in a pair of registers. -/
def vecPair (d : BitVec 5) (r : VReg × Flags) (second : VReg) : M Unit := do
  setV (next5 d) second
  setV d r.1
  orFlagsM r.2
  modify (fun s => s.pushVcq [d.toNat, (next5 d).toNat])
  retireM

/-! Arithmetic that rounds (R196). -/

/-- Whether rm suits the type: code 0 for I32, an arithmetic code otherwise. -/
def vecRmOk (t : BitVec 2) (r : BitVec 3) : Bool := if t.toNat = 3 then decide (r = 0) else rmArithOk r

/-- One element of VADD 0, VSUB 1, VMUL 2, VFMA 3. -/
def vecElem (op : Nat) (fmt : Option FFmt) (rm : RM) (a b c : Nat) : Nat × Flags :=
  match fmt with
  | some f => if op = 0 then f.add rm a b else if op = 1 then f.sub rm a b else if op = 2 then f.mul rm a b else f.fma rm a b c
  | none =>
    (if op = 0 then (a + b) % 2 ^ 32 else if op = 1 then (a + 2 ^ 32 - b % 2 ^ 32) % 2 ^ 32 else if op = 2 then a * b % 2 ^ 32
     else (a * b + c) % 2 ^ 32, 0)

def vecArith (op : Nat) (t : BitVec 2) (r : BitVec 3) (d a x : BitVec 5) (k : BitVec 3) (sc : BitVec 1) : M Unit := do
  need (vecRmOk t r)
  let s ← get
  let w := vecWidth t
  vecDone d (lanewise w (s.rdK k) (s.rdV d) (fun e =>
    vecElem op (vecFmt t) (s.arithMode r) (elemOf (s.rdV a) w e) (s.operandX x sc w e) (elemOf (s.rdV d) w e)))

/-- VADD (R196). -/
def execVadd (t : BitVec 2) (r : BitVec 3) (d a x : BitVec 5) (k : BitVec 3) (z : BitVec 1) (s : State) :
    Host.Outcome State Fault Refusal := finish (vecArith 0 t r d a x k z) s

/-- VSUB (R196). -/
def execVsub (t : BitVec 2) (r : BitVec 3) (d a x : BitVec 5) (k : BitVec 3) (z : BitVec 1) (s : State) :
    Host.Outcome State Fault Refusal := finish (vecArith 1 t r d a x k z) s

/-- VMUL (R196). -/
def execVmul (t : BitVec 2) (r : BitVec 3) (d a x : BitVec 5) (k : BitVec 3) (z : BitVec 1) (s : State) :
    Host.Outcome State Fault Refusal := finish (vecArith 2 t r d a x k z) s

/-- VFMA (R196). -/
def execVfma (t : BitVec 2) (r : BitVec 3) (d a x : BitVec 5) (k : BitVec 3) (z : BitVec 1) (s : State) :
    Host.Outcome State Fault Refusal := finish (vecArith 3 t r d a x k z) s

/-! Lane forms (R198 to R201). -/

def sgn32 (x : Nat) : Int := (BitVec.ofNat 32 x).toInt

/-- VMIN and VMAX of one element (R198). -/
def minMaxElem (isMax : Bool) (fmt : Option FFmt) (a b : Nat) : Nat :=
  match fmt with
  | some f => if isMax then f.vmax a b else f.vmin a b
  | none => if isMax then (if sgn32 a < sgn32 b then b else a) else (if sgn32 b < sgn32 a then b else a)

def vecMinMax (isMax : Bool) (t : BitVec 2) (d a x : BitVec 5) (k : BitVec 3) (sc : BitVec 1) : M Unit := do
  let s ← get
  let w := vecWidth t
  vecDone d (lanewise w (s.rdK k) (s.rdV d) (fun e =>
    (minMaxElem isMax (vecFmt t) (elemOf (s.rdV a) w e) (s.operandX x sc w e), 0)))

/-- VMIN (R198). -/
def execVmin (t : BitVec 2) (d a x : BitVec 5) (k : BitVec 3) (z : BitVec 1) (s : State) : Host.Outcome State Fault Refusal :=
  finish (vecMinMax false t d a x k z) s
/-- VMAX (R198). -/
def execVmax (t : BitVec 2) (d a x : BitVec 5) (k : BitVec 3) (z : BitVec 1) (s : State) : Host.Outcome State Fault Refusal :=
  finish (vecMinMax true t d a x k z) s

/-- VABS and VNEG of one element (R198). -/
def signElem (neg : Bool) (fmt : Option FFmt) (a : Nat) : Nat :=
  match fmt with
  | some f =>
    let h := 2 ^ f.magBits
    if f.value a = .nan then f.nanCode else if neg then (a + h) % (2 * h) else a % h
  | none => if neg ∨ sgn32 a < 0 then (2 ^ 32 - a) % 2 ^ 32 else a

def vecSign (neg : Bool) (t : BitVec 2) (d a : BitVec 5) (k : BitVec 3) : M Unit := do
  let s ← get
  let w := vecWidth t
  vecDone d (lanewise w (s.rdK k) (s.rdV d) (fun e => (signElem neg (vecFmt t) (elemOf (s.rdV a) w e), 0)))

/-- VABS (R198). -/
def execVabs (t : BitVec 2) (d a : BitVec 5) (k : BitVec 3) (s : State) : Host.Outcome State Fault Refusal := finish (vecSign false t d a k) s
/-- VNEG (R198). -/
def execVneg (t : BitVec 2) (d a : BitVec 5) (k : BitVec 3) (s : State) : Host.Outcome State Fault Refusal := finish (vecSign true t d a k) s

/-- A form on whole containers (R199). -/
def vecBits (f : Word32 → Word32 → Word32) (d a x : BitVec 5) (k : BitVec 3) (sc : BitVec 1) : M Unit := do
  let s ← get
  vecDone d (lanewise 32 (s.rdK k) (s.rdV d) (fun e => ((f (lane (s.rdV a) e) (BitVec.ofNat 32 (s.operandX x sc 32 e))).toNat, 0)))

/-- VAND (R199). -/
def execVand (d a x : BitVec 5) (k : BitVec 3) (z : BitVec 1) (s : State) : Host.Outcome State Fault Refusal :=
  finish (vecBits (fun a b => a &&& b) d a x k z) s

/-- VOR (R199). -/
def execVor (d a x : BitVec 5) (k : BitVec 3) (z : BitVec 1) (s : State) : Host.Outcome State Fault Refusal :=
  finish (vecBits (fun a b => a ||| b) d a x k z) s

/-- VXOR (R199). -/
def execVxor (d a x : BitVec 5) (k : BitVec 3) (z : BitVec 1) (s : State) : Host.Outcome State Fault Refusal :=
  finish (vecBits (fun a b => a ^^^ b) d a x k z) s

/-- VSHL (R199). -/
def execVshl (d a x : BitVec 5) (k : BitVec 3) (z : BitVec 1) (s : State) : Host.Outcome State Fault Refusal :=
  finish (vecBits (fun a b => a <<< (b.toNat % 32)) d a x k z) s

/-- VSHR (R199): type 0 logical, type 3 arithmetic; others trap ILLEGAL. -/
def execVshr (t : BitVec 2) (d a x : BitVec 5) (k : BitVec 3) (z : BitVec 1) (s : State) : Host.Outcome State Fault Refusal :=
  finish (do
    need (t.toNat = 0 || t.toNat = 3)
    vecBits (fun a b => if t.toNat = 0 then a >>> (b.toNat % 32) else a.sshiftRight (b.toNat % 32)) d a x k z) s

/-- One predicate bit (R200): 0 EQ, 1 LT, 2 LE, 3 UNORD. -/
def cmpElem (p : Nat) (t : BitVec 2) (a b : Word32) : Bool :=
  if t.toNat = 0 then fpPredicate p (f32 a) (f32 b)
  else if p = 0 then a = b else if p = 1 then a.slt b else if p = 2 then a.sle b else false

/-- A mask from its 32 bits. -/
def ofBits (f : Nat → Bool) : Word32 := BitVec.ofNat 32 (((List.range 32).map (fun i => if f i then 2 ^ i else 0)).foldl (· + ·) 0)

/-- VCMP (R200): a lane whose mask bit is 0 gives 0; it sets no flag. -/
def vecCmp (p : Nat) (t : BitVec 2) (d : BitVec 3) (a x : BitVec 5) (k : BitVec 3) (sc : BitVec 1) : M Unit := do
  need (t.toNat = 0 || (t.toNat = 3 && p ≠ 3))
  modify (fun s => s.wrK d (ofBits (fun i =>
    (s.rdK k).getLsbD i && cmpElem p t (lane (s.rdV a) i) (BitVec.ofNat 32 (s.operandX x sc 32 i)))))
  modify (fun s => s.pushVcq (maskReg d))
  retireM

/-- VCMP.EQ (R200). -/
def execVcmpEq (t : BitVec 2) (d : BitVec 3) (a x : BitVec 5) (k : BitVec 3) (z : BitVec 1) (s : State) :
    Host.Outcome State Fault Refusal := finish (vecCmp 0 t d a x k z) s

/-- VCMP.LT (R200). -/
def execVcmpLt (t : BitVec 2) (d : BitVec 3) (a x : BitVec 5) (k : BitVec 3) (z : BitVec 1) (s : State) :
    Host.Outcome State Fault Refusal := finish (vecCmp 1 t d a x k z) s

/-- VCMP.LE (R200). -/
def execVcmpLe (t : BitVec 2) (d : BitVec 3) (a x : BitVec 5) (k : BitVec 3) (z : BitVec 1) (s : State) :
    Host.Outcome State Fault Refusal := finish (vecCmp 2 t d a x k z) s

/-- VCMP.UNORD (R200). -/
def execVcmpUnord (t : BitVec 2) (d : BitVec 3) (a x : BitVec 5) (k : BitVec 3) (z : BitVec 1) (s : State) :
    Host.Outcome State Fault Refusal := finish (vecCmp 3 t d a x k z) s

/-- VSEL (R201): every container is written. -/
def execVsel (d a x : BitVec 5) (k : BitVec 3) (z : BitVec 1) (s : State) : Host.Outcome State Fault Refusal :=
  finish (vecDone d (ofLanes ((List.range 32).map (fun i =>
    if (s.rdK k).getLsbD i then lane (s.rdV a) i else BitVec.ofNat 32 (s.operandX x z 32 i))), 0)) s

/-- VPERM (R201): by index vector, or a rotation by sx. -/
def execVperm (d a x : BitVec 5) (z : BitVec 1) (s : State) : Host.Outcome State Fault Refusal :=
  finish (vecDone d (ofLanes ((List.range 32).map (fun i =>
    lane (s.rdV a) (if z = 1 then (i + (s.rdS x).toNat) % 32 else elemOf (s.rdV x) 32 i % 32))), 0)) s

/-- VBCAST (R201). -/
def execVbcast (t : BitVec 2) (d x : BitVec 5) (k : BitVec 3) (s : State) : Host.Outcome State Fault Refusal :=
  finish (vecDone d (lanewise (vecWidth t) (s.rdK k) (s.rdV d) (fun e => (s.operandX x 1 (vecWidth t) e, 0)))) s

/-- VINS (R201). -/
def execVins (d n x : BitVec 5) (s : State) : Host.Outcome State Fault Refusal :=
  finish (vecDone d (ofLanes ((List.range 32).map (fun i => if i = n.toNat then (s.rdS x).setWidth 32 else lane (s.rdV d) i)), 0)) s

/-- VEXT (R201). -/
def execVext (d a n : BitVec 5) (s : State) : Host.Outcome State Fault Refusal := writesS d ((lane (s.rdV a) n.toNat).setWidth 64) s

/-! Reductions and dot products (R202, R203). -/

/-- A batch (R202): 32 FP32 or INT32 lanes, or elements 0 to 31 of a narrow register widened exactly. -/
def batch (t : BitVec 2) (v : VReg) : List Word32 :=
  match vecFmt t with
  | some f => (List.range 32).map (fun i => if vecWidth t = 32 then lane v i else widen (f.value (elemOf v 16 i)))
  | none => (List.range 32).map (fun i => lane v i)

/-- The lanes of a batch whose mask bits are 1. -/
def activeLanes (m : Word32) (l : List Word32) : List Word32 :=
  ((List.range 32).zip l).filterMap (fun p => if m.getLsbD p.1 then some p.2 else none)

def sext32 (x : Word32) : Word := x.signExtend 64

/-- VRED of a batch (R202): 0 SUM, 1 MIN, 2 MAX. -/
def reduceBatch (t : BitVec 2) (op : Nat) (m : Word32) (l : List Word32) : Word × Flags :=
  if t.toNat = 3 then
    let a := activeLanes m l
    if op = 0 then (sext32 (a.foldl (· + ·) 0), 0)
    else if op = 1 then (sext32 (a.foldl (fun x y => if x.sle y then x else y) 0x7FFFFFFF#32), 0)
    else (sext32 (a.foldl (fun x y => if y.sle x then x else y) 0x80000000#32), 0)
  else if op = 0 then
    let r := tree32 (((List.range 32).zip l).map (fun p => if m.getLsbD p.1 then f32 p.2 else .fin false 0 0))
    (r.1.setWidth 64, r.2)
  else
    let a := (activeLanes m l).map (fun x => x.toNat)
    (BitVec.ofNat 64 (if op = 1 then a.foldl FFmt.f32.vmin 0x7F800000 else a.foldl FFmt.f32.vmax 0xFF800000), 0)

/-- VRED (R202). -/
def execVred (t : BitVec 2) (d a : BitVec 5) (o : BitVec 2) (k : BitVec 3) (s : State) : Host.Outcome State Fault Refusal :=
  finish (do
    need (decide (o.toNat < 3))
    let r := reduceBatch t o.toNat (s.rdK k) (batch t (s.rdV a))
    setS d r.1
    orFlagsM r.2
    retireM) s

/-- The floating elements of a register, inactive ones replaced by +0 (R203). -/
def dotElems (f : FFmt) (w n : Nat) (v : VReg) (m : Option Word32) : List FV :=
  (List.range n).map (fun e => match m with
    | some m => if lit m w e then f.value (elemOf v w e) else .fin false 0 0
    | none => f.value (elemOf v w e))

/-- VDOT (R203). -/
def execVdot (t : BitVec 2) (d a b : BitVec 5) (k : BitVec 3) (s : State) : Host.Outcome State Fault Refusal :=
  finish (do
    let m := s.rdK k
    let acc : Word32 := (s.rdS d).setWidth 32
    match vecFmt t with
    | some f => do
      let w := vecWidth t
      let n := 1024 / w
      let r := dotAccumulate (n / 32) acc ((dotElems f w n (s.rdV a) (some m)).zip (dotElems f w n (s.rdV b) none))
      setS d (r.1.setWidth 64)
      orFlagsM r.2
      retireM
    | none => do
      let i8 := fun (v : VReg) (e : Nat) => (BitVec.ofNat 8 (elemOf v 8 e)).toInt
      let r := dotInt acc ((List.range 128).map (fun e => (if lit m 8 e then i8 (s.rdV a) e else 0, i8 (s.rdV b) e)))
      setS d (sext32 r)
      retireM) s

/-- VDOTB (R203): the code in sx[5:0] must name a binary8 format, or it traps FORMAT. -/
def execVdotb (d a x : BitVec 5) (k : BitVec 3) (s : State) : Host.Outcome State Fault Refusal :=
  finish (do
    let code : BitVec 6 := (s.rdS x).setWidth 6
    match formatOf code with
    | .flt (.b8 sg ext p) => do
      let f := FFmt.b8 sg ext p
      let r := dotAccumulate 4 ((s.rdS d).setWidth 32)
        ((dotElems f 8 128 (s.rdV a) (some (s.rdK k))).zip (dotElems f 8 128 (s.rdV (next5 a)) none))
      setS d (r.1.setWidth 64)
      orFlagsM r.2
      retireM
    | _ => formatTrap 0 code) s

/-! Scans (R204, R206). -/

/-- One step of a scan at distance `d`: every lane from `d` on is combined with the lane `d` below it, all at once (R48). DESIGN CHOICE (log 42):
the lanes below `d` are copied as they are, so that a NaN in lane 0 keeps its payload. -/
def scanStep {α : Type} (f : α → α → α × Flags) (d : Nat) (l : List (α × Flags)) : List (α × Flags) :=
  l.take d ++ (l.zip (l.drop d)).map (fun p => let r := f p.1.1 p.2.1; (r.1, p.2.2 ||| r.2))

/-- The five steps, with the flags each lane's own steps raised (R48). DESIGN CHOICE (log 42): lane 0 is combined by none of them, and no NaN
there is made canonical. -/
def scanAll {α : Type} (f : α → α → α × Flags) (l : List α) : List (α × Flags) :=
  scanStep f 16 (scanStep f 8 (scanStep f 4 (scanStep f 2 (scanStep f 1 (l.map (fun x => (x, (0 : Flags))))))))

/-- Lanes written where the mask is 1, and the flags of those lanes. -/
def maskedLanes (m : Word32) (old : VReg) (l : List (Word32 × Flags)) : VReg × Flags :=
  (ofLanes (((List.range 32).zip l).map (fun p => if m.getLsbD p.1 then p.2.1 else lane old p.1)),
   orFlagList (((List.range 32).zip l).map (fun p => if m.getLsbD p.1 then p.2.2 else 0)))

/-- The operation of VSCAN and its identity (R48, R204): 0 ADD, 1 MIN, 2 MAX. -/
def scanOp (t : BitVec 2) (op : Nat) (rm : RM) : (Word32 → Word32 → Word32 × Flags) × Word32 :=
  if t.toNat = 3 then
    if op = 0 then (fun a b => (a + b, 0), 0)
    else if op = 1 then (fun a b => (if a.sle b then a else b, 0), 0x7FFFFFFF#32)
    else (fun a b => (if b.sle a then a else b, 0), 0x80000000#32)
  else if op = 0 then (fun a b => f32Add rm a b, 0x80000000#32)
  else if op = 1 then (fun a b => (BitVec.ofNat 32 (FFmt.f32.vmin a.toNat b.toNat), 0), 0x7F800000#32)
  else (fun a b => (BitVec.ofNat 32 (FFmt.f32.vmax a.toNat b.toNat), 0), 0xFF800000#32)

/-- VSCAN (R204). -/
def execVscan (t : BitVec 2) (d a : BitVec 5) (r : BitVec 3) (o : BitVec 2) (k : BitVec 3) (s : State) : Host.Outcome State Fault Refusal :=
  finish (do
    need (decide (o.toNat < 3) && (if t.toNat ≠ 3 ∧ o = 0 then rmArithOk r else decide (r = 0)))
    let m := s.rdK k
    let f := scanOp t o.toNat (s.arithMode r)
    let l := ((List.range 32).zip (batch t (s.rdV a))).map (fun p => if m.getLsbD p.1 then p.2 else f.2)
    vecDone d (maskedLanes m (s.rdV d) (scanAll f.1 l))) s

/-- VSCANLR (R206): the pair scan of two register pairs. DESIGN CHOICE (log 42): both halves of lane 0 are copied with their bits as they are. -/
def execVscanlr (t : BitVec 2) (d a : BitVec 5) (k : BitVec 3) (s : State) : Host.Outcome State Fault Refusal :=
  finish (do
    need (decide (t.toNat < 3) && decide (d.toNat < 31) && decide (a.toNat < 31) &&
      (d = a || (decide (d ≠ a + 1) && decide (a ≠ d + 1))))
    let m := s.rdK k
    let l := ((List.range 32).zip ((batch t (s.rdV a)).zip (batch t (s.rdV (next5 a))))).map
      (fun p => if m.getLsbD p.1 then p.2 else (0x3F800000#32, 0x80000000#32))
    let r := scanAll composePair l
    let ra := maskedLanes m (s.rdV d) (r.map (fun p => (p.1.1, p.2)))
    let rb := maskedLanes m (s.rdV (next5 d)) (r.map (fun p => (p.1.2, p.2)))
    vecPair d ra rb.1) s

/-! Ranking (R205). -/

/-- Whether a lane's value ranks strictly below another's. -/
def ranksBelow (t : BitVec 2) (a b : Word32) : Bool :=
  if t.toNat = 3 then a.slt b
  else if f32 b = .nan then false
  else if f32 a = .nan then true
  else FV.cmp (f32 a) (f32 b) = some .lt

/-- A lane inserted in the ranking after every lane that does not rank below it. -/
def rankInsert (t : BitVec 2) (x : Nat × Word32) : List (Nat × Word32) → List (Nat × Word32)
  | [] => [x]
  | y :: r => if ranksBelow t y.2 x.2 then x :: y :: r else y :: rankInsert t x r

/-- VTOPK (R205). -/
def execVtopk (t : BitVec 2) (d a : BitVec 5) (c : BitVec 2) (k : BitVec 3) (s : State) : Host.Outcome State Fault Refusal :=
  finish (do
    need (decide (c.toNat < 3) && (t.toNat = 0 || t.toNat = 3) && decide (d.toNat < 31) && decide (a ≠ d + 1))
    let m := s.rdK k
    let count := 8 * 2 ^ c.toNat
    let order := ((List.range 32).filter (fun i => m.getLsbD i)).foldl (fun l i => rankInsert t (i, lane (s.rdV a) i) l) []
    let top := order.take count
    let fill : Word32 := if t.toNat = 0 then nan32 else 0x80000000#32
    let value := fun (p : Nat × Word32) => if t.toNat = 0 ∧ f32 p.2 = .nan then nan32 else p.2
    let pad := fun (l : List Word32) (x : Word32) => l ++ List.replicate (32 - l.length) x
    vecPair d (ofLanes (pad (top.map value) fill), 0) (ofLanes (pad (top.map (fun p => BitVec.ofNat 32 p.1)) 0xFFFFFFFF#32))) s

/-! Conversions (R207). -/

/-- The narrow format of an identifier (Table 09-6), and its element width, batch and number of parts. -/
def cvtFormat (x : BitVec 5) : Format × Nat × Nat × Nat :=
  match x.toNat with
  | 0 => (.flt .f16, 16, 32, 2)
  | 8 => (.flt .bf16, 16, 32, 2)
  | 16 => (.flt .e2m1, 4, 64, 4)
  | 24 => (.int .i32, 32, 32, 1)
  | _ => (formatOf (0x20 + x.setWidth 6), 8, 32, 4)

/-- One element from FP32 (R207). -/
def cvtFrom (f : Format) (mode : Nat) (sat : Bool) (seed : Word) (x : Word32) : (Nat × Flags) × Word :=
  match f with
  | .flt g => convertStep g mode sat seed (f32 x)
  | .int g => let r := convertIntStep g mode seed (f32 x); (((BitVec.ofInt 32 r.1.1).toNat, r.1.2), r.2)
  | _ => ((0, 0), seed)

/-- One element to FP32 (R207): exact but from INT32, which rounds. -/
def cvtTo (f : Format) (mode : Nat) (seed : Word) (x : Nat) : (Nat × Flags) × Word :=
  match f with
  | .flt g => (((widen (g.value x)).toNat, 0), seed)
  | .int _ => convertStep .f32 mode false seed (FV.ofInt (sgn32 x))
  | _ => ((0, 0), seed)

/-- A batch converted in order (R41): elements by index, each with its source; an inactive element keeps its old value and draws nothing. -/
def cvtBatch (f : Word → Nat → (Nat × Flags) × Word) (m : Word32) : List (Nat × Nat × Nat) → Word → (List Nat × Flags) × Word
  | [], seed => (([], 0), seed)
  | (j, src, old) :: r, seed =>
    if m.getLsbD (j % 32) then
      let a := f seed src
      let b := cvtBatch f m r a.2
      ((a.1.1 :: b.1.1, a.1.2 ||| b.1.2), b.2)
    else
      let b := cvtBatch f m r seed
      ((old :: b.1.1, b.1.2), b.2)

/-- VCVT from FP32 (R207). -/
def execVcvtFromF32 (r : BitVec 3) (q : BitVec 2) (d a x : BitVec 5) (k : BitVec 3) (z : BitVec 1) (s : State) :
    Host.Outcome State Fault Refusal :=
  finish (do
    let (f, w, n, parts) := cvtFormat x
    need (rmConvOk r && decide (q.toNat < parts) && (n = 32 || (decide (d.toNat < 31) && decide (a.toNat < 31))))
    let base := q.toNat * n
    let src := fun (j : Nat) => elemOf (if j < 32 then s.rdV a else s.rdV (next5 a)) 32 (j % 32)
    let c := cvtBatch (fun seed y => cvtFrom f (s.convMode r) (z = 1) seed (BitVec.ofNat 32 y)) (s.rdK k)
      ((List.range n).map (fun j => (j, src j, elemOf (s.rdV d) w (base + j)))) s.th.r.seed
    let old := (s.rdV d).toNat
    let lo := w * base
    let v := BitVec.ofNat 1024 (old % 2 ^ lo + packElems w c.1.1 * 2 ^ lo + old / 2 ^ (lo + w * n) * 2 ^ (lo + w * n))
    modify (fun s => { s with th.r.seed := c.2 })
    vecDone d (v, c.1.2)) s

/-- VCVT to FP32 (R207). -/
def execVcvtToF32 (r : BitVec 3) (q : BitVec 2) (d a x : BitVec 5) (k : BitVec 3) (s : State) : Host.Outcome State Fault Refusal :=
  finish (do
    let (f, w, n, parts) := cvtFormat x
    need (rmConvOk r && decide (q.toNat < parts) && (n = 32 || (decide (d.toNat < 31) && decide (a.toNat < 31))))
    let old := fun (j : Nat) => elemOf (if j < 32 then s.rdV d else s.rdV (next5 d)) 32 (j % 32)
    let c := cvtBatch (fun seed y => cvtTo f (s.convMode r) seed y) (s.rdK k)
      ((List.range n).map (fun j => (j, elemOf (s.rdV a) w (q.toNat * n + j), old j))) s.th.r.seed
    modify (fun s => { s with th.r.seed := c.2 })
    let r := (BitVec.ofNat 1024 (packElems 32 (c.1.1.take 32)), c.1.2)
    if n = 64 then vecPair d r (BitVec.ofNat 1024 (packElems 32 (c.1.1.drop 32))) else vecDone d r) s

/-- VSF (R208): fn 9 to 15 trap ILLEGAL. -/
def execVsf (f : BitVec 4) (d a : BitVec 5) (r : BitVec 3) (k : BitVec 3) (s : State) : Host.Outcome State Fault Refusal :=
  finish (do
    need (rmArithOk r)
    match specialFn f.toNat with
    | none => illegal
    | some g => do
      let v := lanewise 32 (s.rdK k) (s.rdV d) (fun e => let y := specialLane g (s.arithMode r) (lane (s.rdV a) e); (y.1.toNat, y.2))
      setV d v.1
      orFlagsM v.2
      modify (fun s => s.pushSfq d.toNat)
      retireM) s

/-! Masks (R210). -/

/-- A mask form retires with a mask. -/
def maskDone (d : BitVec 3) (v : Word32) (s : State) : Host.Outcome State Fault Refusal := .next (s.wrK d v).retire

/-- KAND (R210). -/
def execKand (d a b : BitVec 3) (s : State) : Host.Outcome State Fault Refusal := maskDone d (s.rdK a &&& s.rdK b) s
/-- KOR (R210). -/
def execKor (d a b : BitVec 3) (s : State) : Host.Outcome State Fault Refusal := maskDone d (s.rdK a ||| s.rdK b) s
/-- KNOT (R210). -/
def execKnot (d a : BitVec 3) (s : State) : Host.Outcome State Fault Refusal := maskDone d (~~~(s.rdK a)) s
/-- KMOV kd, ka (R210). -/
def execKmovKk (d a : BitVec 3) (s : State) : Host.Outcome State Fault Refusal := maskDone d (s.rdK a) s
/-- KMOV kd, sa (R210). -/
def execKmovKs (d : BitVec 3) (a : BitVec 5) (s : State) : Host.Outcome State Fault Refusal := maskDone d ((s.rdS a).setWidth 32) s
/-- KMOV sd, ka (R210). -/
def execKmovSk (d : BitVec 5) (a : BitVec 3) (s : State) : Host.Outcome State Fault Refusal := writesS d ((s.rdK a).setWidth 64) s
/-- KPOP (R210). -/
def execKpop (d : BitVec 5) (a : BitVec 3) (s : State) : Host.Outcome State Fault Refusal :=
  writesS d (popCount ((s.rdK a).setWidth 64)) s

end Sys2Proof.Machine
end

