-- ==== Sys2Proof/Machine/Halyard.lean ====
section
/-! DEFINITION. The halyard (09, R216 to R220). A send allots its place in the successor's buffer and travels as a flit that lands by the
event HALYARD_LAND; a receive takes the head entry of the slot's own buffer. -/

namespace Sys2Proof.Machine

/-- The chain position of the current thread's core (R216). -/
def State.halPos (s : State) : Nat := (position (s.coreNo % 64) (s.launchOf s.cur).kernel.chain).getD 0

/-- The successor's slot: same slot of the core at the next position. -/
def State.halNext (s : State) : Nat :=
  16 * (64 * s.clusterNo + ((s.launchOf s.cur).kernel.chain.drop (s.halPos + 1)).headD 0) + s.slotNo

/-- The inbound buffer of a slot (R217). -/
def State.halBuf (s : State) (k : Nat) : List HalEntry := SMap.get [] (s.core (coreOf k)).u.hal (slotOf k)
def State.setHalBuf (s : State) (k : Nat) (l : List HalEntry) : State :=
  s.updCore (coreOf k) (fun c => { c with u.hal := SMap.set [] c.u.hal (slotOf k) l })

/-- When a task is placed in a slot, entries of other launches leave its buffer (R217). -/
def State.sortHal (s : State) (k : Nat) : State :=
  s.setHalBuf k ((s.halBuf k).filter (fun e => e.launch = taskKey (s.getT k).id.task))

/-- Entries for a slot that a cut holds (R404); their places stay allotted (R217). -/
def State.halCut (s : State) (k : Nat) : Nat :=
  let c := (s.region (regionOf (coreOf k))).cut
  ((c.saved ++ c.stalled).filter (fun f => f.kind = 5 && 16 * f.dst + f.addr = k)).length

/-- Whether a send finds four entries present or in flight (R218). -/
def State.halFull (s : State) (k : Nat) : Bool :=
  4 ≤ (s.halBuf k).length + (s.hal.filter (fun f => f.dst = k)).length + s.halCut k

/-- A flit enters the network: its colour's SENT count rises (R403). -/
def State.countSent (s : State) (core : Nat) (colour : Bool) : State :=
  s.updCore core (fun c => if colour then { c with sent1 := c.sent1 + 1 } else { c with sent0 := c.sent0 + 1 })
def State.countRecv (s : State) (core : Nat) (colour : Bool) : State :=
  s.updCore core (fun c => if colour then { c with recv1 := c.recv1 + 1 } else { c with recv0 := c.recv0 + 1 })

/-- An entry sent by the current thread; discarded at position 63 (R218, R219). -/
def State.halSend (s : State) (kind : Nat) (data : VReg) : State :=
  if s.halPos = 63 then s
  else
    let colour := (s.core s.coreNo).colour
    let e : HalEntry := { kind := kind, data := data, launch := taskKey s.th.id.task }
    let f : HalFlit := { src := s.cur, task := s.groupTask s.cur, dst := s.halNext, colour := colour, entry := e }
    { s with hal := s.hal ++ [f] }.countSent s.coreNo colour

/-- The checks and waits of a halyard form (R218, R219, R223): it may need a head entry, and room to send. -/
def halReady (recv send : Bool) : M Unit := do
  notHandler
  specBind
  let s ← get
  if recv ∧ s.halPos ≠ 0 ∧ s.halBuf s.cur ≠ [] then logGuard s.regionNo
  if recv ∧ s.halPos ≠ 0 ∧ s.halBuf s.cur = [] then parkM .hrecv
  else if send ∧ s.halPos ≠ 63 ∧ s.halFull s.halNext then parkM .hsend
  else pure ()

/-- The head entry taken, an event of the order log (Table 16-4, kind 0x0B), which waits as an empty buffer makes it wait (R349); zero at
position 0 (R219). -/
def halTake : M HalEntry := do
  let s ← get
  if s.halPos = 0 then return {}
  else match s.halBuf s.cur with
    | [] => parkM .hrecv
    | e :: r => do
      let ev : Ev :=
        { kind := 11, task := s.groupTask s.cur, object := halObject s.coreNo s.slotNo, digest := crc32c (leBytes 128 e.data.toNat),
          aux := BitVec.ofNat 32 e.kind, wide := true }
      eventOrM .hrecv s.regionNo ev
      modify (fun s => s.setHalBuf s.cur r)
      return e

/-- HSEND (R218). -/
def execHsend (x : BitVec 5) (s : State) : Host.Outcome State Fault Refusal :=
  finish (do
    halReady false true
    modify (fun s => s.halSend 0 ((s.rdS x).setWidth 1024))
    retireM) s

/-- HRECV (R218). -/
def execHrecv (d : BitVec 5) (s : State) : Host.Outcome State Fault Refusal :=
  finish (do
    halReady true false
    let e ← halTake
    setS d (e.data.setWidth 64)
    retireM) s

/-- HSENDV (R218). -/
def execHsendv (a : BitVec 5) (s : State) : Host.Outcome State Fault Refusal :=
  finish (do
    halReady false true
    modify (fun s => s.halSend 1 (s.rdV a))
    retireM) s

/-- HRECVV (R218): a scalar or composite entry fills lanes 0 and 1. -/
def execHrecvv (d : BitVec 5) (s : State) : Host.Outcome State Fault Refusal :=
  finish (do
    halReady true false
    let e ← halTake
    setV d (if e.kind = 1 then e.data else (e.data.setWidth 64).setWidth 1024)
    retireM) s

/-- XSCAN (R220): the chain's state continued through this core's pairs, and the composite sent on. -/
def execXscan (d a x : BitVec 5) (s : State) : Host.Outcome State Fault Refusal :=
  finish (do
    need (decide (a.toNat < 31))
    halReady true true
    let s ← get
    let e ← halTake
    let ab := if s.halPos = 0 then (0x3F800000#32, 0x80000000#32) else (lane e.data 0, lane e.data 1)
    let h := f32Fma .rne ab.1 ((s.rdS x).setWidth 32) ab.2
    let va := s.rdV a
    let vb := s.rdV (next5 a)
    let out := (List.range 32).map (fun l => f32Fma .rne (lane va l) h.1 (lane vb l))
    let comp := composePair ab (lane va 31, lane vb 31)
    modify (fun s => s.halSend 2 (BitVec.ofNat 1024 (comp.1.1.toNat + 2 ^ 32 * comp.1.2.toNat)))
    vecDone d (ofLanes (out.map (fun p => p.1)), h.2 ||| comp.2 ||| orFlagList (out.map (fun p => p.2)))) s

end Sys2Proof.Machine
end

