-- ==== Sys2Proof/Machine/Wheel.lean ====
section
/-! DEFINITION. Bank memory's instructions and the wheels (07, R162, R168 to R174, R180 to R183). A bank access is performed when its queued
request meets its bank (`Machine/Bank.lean`); WPHASE and WWAIT compute the cycles the tables give. -/

namespace Sys2Proof.Machine

/-! The tables. -/

/-- Physical bank that port `c` of cluster `j` of a region meets in row `r` (R162): the default row is (c + r) mod 64. -/
def Wheel.bank (w : Wheel) (j r c : Nat) : Nat :=
  match w.inner with
  | none => (c + r) % 64
  | some l => (l.drop ((j * w.pi + r) * 64 + c)).headD 0

/-- Owner code of group `g` in step `st` (R168): the default row has codes 1, 2, 3, 4, 4, 5, 5, 6. -/
def Wheel.owner (w : Wheel) (st g : Nat) : Nat :=
  match w.outer with
  | none => ([1, 2, 3, 4, 4, 5, 5, 6].drop st).headD 0
  | some l => (l.drop (4 * st + g)).headD 0

/-- The tables in effect at a cycle, a pending swap taken into account (R173). -/
def Region.wheelAt (g : Region) (t : Nat) : Wheel :=
  match g.shadow with
  | some w => if g.swapAt ≤ t then w else g.wheel
  | none => g.wheel

/-- The home bank of a byte address of a cluster (R158). -/
def Cluster.home (c : Cluster) (a : Nat) : Nat := (c.bankmap.drop (a / 32 % c.n)).headD 0

/-- Whether a request of port `c` of cluster `own` for bank `b` of group `g` would meet in cycle `t` (R164, R170). -/
def Region.meets (rg : Region) (own g c b t : Nat) : Bool :=
  let w := rg.wheelAt t
  decide (w.bank g (t % w.pi) c = b) && (own = g || w.owner (t / w.pi % w.po) g = (own + 4 - g) % 4)

/-- The first cycle from `t` on in which a request meets, among the next `n`. -/
def Region.firstMeet (rg : Region) (own g c b : Nat) : Nat → Nat → Nat
  | 0, t => t
  | n + 1, t => if rg.meets own g c b t then t else Region.firstMeet rg own g c b n (t + 1)

/-- At its cycle a pending swap takes effect: all five tables change (R173). -/
def Region.swap (g : Region) : Region :=
  match g.shadow with
  | some w => if g.swapAt ≤ g.clock then { g with wheel := w, shadow := none, swapAt := 0 } else g
  | none => g

/-! Instructions. -/

/-- A quarter of a vector register (R180). -/
def quarter (v : VReg) (q : BitVec 2) : List Byte := leBytes 32 (v.toNat / 2 ^ (256 * q.toNat))
def setQuarter (v : VReg) (q : BitVec 2) (b : List Byte) : VReg :=
  let lo := 256 * q.toNat
  let x := v.toNat
  BitVec.ofNat 1024 (x % 2 ^ lo + leNat b * 2 ^ lo + x / 2 ^ (lo + 256) * 2 ^ (lo + 256))

/-- BLD (R180). -/
def execBld (d a : BitVec 5) (q : BitVec 2) (o : BitVec 10) (s : State) : Host.Outcome State Fault Refusal :=
  finish (do
    let l ← check (s.rdS a) (disp 10 o 32) 32 32 rR only12
    match ← readM l 32 with
    | some b => do
      modify (fun s => s.wrV d (setQuarter (s.rdV d) q b))
      retireM
    | none => retireM) s

/-- BST (R180). -/
def execBst (d a : BitVec 5) (q : BitVec 2) (o : BitVec 10) (s : State) : Host.Outcome State Fault Refusal :=
  finish (do
    let l ← check (s.rdS a) (disp 10 o 32) 32 32 rW only12
    writeM l (quarter (s.rdV d) q)
    retireM) s

/-- WPHASE (R181): the cycle in which a strong access issued now would meet, no other request being queued. DESIGN CHOICE (log 42): where the
port meets the bank in none of the cycles of a whole outer revolution of the largest tables, the cycle after the last one tried is written. -/
def execWphase (d a : BitVec 5) (o : BitVec 12) (s : State) : Host.Outcome State Fault Refusal :=
  finish (do
    let l ← check (s.rdS a) (disp 12 o 32) 32 32 0 only12
    let g := if segSpace l.seg = 1 then s.clusterNo % 4 else segCluster l.seg
    let bank := (s.cluster (4 * s.regionNo + g)).home (segBase l.seg + l.eo)
    let rg := s.region s.regionNo
    setS d (BitVec.ofNat 64 (rg.firstMeet (s.clusterNo % 4) g (s.coreNo % 64) bank 4608 (rg.clock + 2)))
    retireM) s

/-- WWAIT (R182): parks until the named inner phase, at least eight cycles on. -/
def execWwait (a : BitVec 5) (i : BitVec 12) (s : State) : Host.Outcome State Fault Refusal :=
  let rg := s.region s.regionNo
  finish (parkM (.wwait ((s.rdS a + i.signExtend 64).toNat % rg.wheel.pi) (rg.clock + 8))) s

/-- BMAPRD (R183). -/
def execBmaprd (d : BitVec 5) (c : BitVec 2) (i : BitVec 6) (s : State) : Host.Outcome State Fault Refusal :=
  let k := s.cluster (4 * s.regionNo + c.toNat)
  writesS d (BitVec.ofNat 64 (k.n * 2 ^ 8 + (if i.toNat < k.n then 2 ^ 7 + (k.bankmap.drop i.toNat).headD 0 else 0))) s

/-! Meetings. -/

/-- The first of some queued pieces performed: those that a replay holds are passed by, but not by one that touches the same bytes. -/
def State.serveOldest (s : State) (held : List RelReq) : List RelReq → State
  | [] => s
  | q :: r =>
    let p := if held.any (fun x => x.clash q) then (s, false) else s.performReq q
    if p.2 then p.1.dequeue q else s.serveOldest (q :: held) r

/-- The home bank of a request's block (R158). -/
def State.reqBank (s : State) (q : RelReq) : Nat := (s.cluster (keyCluster q.op.key)).home (q.op.key % 2 ^ 23)

/-- Whether one request ranks before another of its queue, which stands behind it: by cycle, then by slot (R163). -/
def RelReq.before (a b : RelReq) : Bool := decide (a.cycle < b.cycle) || (a.cycle = b.cycle && decide (a.who ≤ b.who))

/-- Requests by rank (R163). -/
def rankReq (q : RelReq) : List RelReq → List RelReq
  | [] => [q]
  | x :: r => if x.before q then x :: rankReq q r else q :: x :: r

/-- The meeting of a port: its oldest placed request that meets is served; without one the cycle is lost (R161, R163). A request waits for what its
thread has queued before it to the same bytes (R146). -/
def State.meet (s : State) (now : Nat) (l : List RelReq) (f : RelReq → Bool) : State :=
  s.serveOldest [] ((l.filter (fun q => q.placed && decide (q.cycle ≤ now) && f q &&
    !(l.takeWhile (fun x => x ≠ q)).any (fun x => x.who = q.who && x.clash q))).foldl (fun r q => rankReq q r) [])

/-- WHEEL_MEETING (R163, R164): a core port meets the bank of the cycle, once in each cycle. -/
def execWheelMeeting (core : Nat) (s : State) : Host.Outcome State Fault Refusal :=
  let rg := s.region (regionOf core)
  let t := rg.clock
  if t < (s.core core).met then .next s
  else
    let w := rg.wheelAt t
    let now := w.bank (clusterOf core % 4) (t % w.pi) (core % 64)
    .next ((s.updCore core (fun c => { c with met := t + 1 })).meet t (s.core core).wheel (fun q => s.reqBank q = now))

/-- The cores of a region that hold bank requests. -/
def State.queuedCores (s : State) (r : Nat) : List Nat :=
  (s.cores.filter (fun p => regionOf p.1 = r && (p.2.wheel ≠ [] || p.2.far ≠ []))).map (fun p => p.1)

/-- The state an event's outcome gives. -/
def afterOf (s : State) : Host.Outcome State Fault Refusal → State
  | .next s' => s'
  | _ => s

/-- An event taken for each of some units, in order. -/
def State.forEach (s : State) (l : List Nat) (f : Nat → State → Host.Outcome State Fault Refusal) : State :=
  l.foldl (fun s k => afterOf s (f k s)) s

/-! WHEELSET. -/

/-- The tests of R172, step 2, on the 128-byte head. -/
def headOk (b : List Byte) : Bool :=
  let pi := (b.headD 0).toNat
  let po := ((b.drop 1).headD 0).toNat
  (pi = 64 || pi = 128) && decide (4 ≤ po) && decide (po ≤ 16) && ((b.drop 2).take 62).all (fun x => x = 0) &&
  (b.drop (0x40 + 4 * po)).all (fun x => x = 0)

/-- Rows of 64 port entries. -/
def rowsOf : Nat → List Nat → List (List Nat)
  | 0, _ => []
  | n + 1, l => l.take 64 :: rowsOf n (l.drop 64)

/-- The wheel of an image (Table 07-3). -/
def wheelOf (b : List Byte) : Wheel :=
  let pi := (b.headD 0).toNat
  let po := ((b.drop 1).headD 0).toNat
  { pi := pi, po := po, outer := some (((b.drop 0x40).take (4 * po)).map (fun x => x.toNat)),
    inner := some (((b.drop 0x80).take (256 * pi)).map (fun x => x.toNat)) }

/-- The other tests of R171: inner rows are permutations; owner codes are 0 to 7; in a step each cluster owns at most one far port, and
over the steps every other one. -/
def Wheel.valid (w : Wheel) : Bool :=
  let clusters := List.range 4
  let owned := fun (st k : Nat) => clusters.filter (fun g => 1 ≤ w.owner st g && w.owner st g ≤ 3 && (g + w.owner st g) % 4 = k)
  (rowsOf (4 * w.pi) (w.inner.getD [])).all (fun r => (List.range 64).all (fun b => r.contains b)) &&
  (w.outer.getD []).all (fun c => decide (c ≤ 7)) &&
  (List.range w.po).all (fun st => clusters.all (fun k => decide ((owned st k).length ≤ 1))) &&
  clusters.all (fun k => clusters.all (fun g => g = k || (List.range w.po).any (fun st => (owned st k).contains g)))

/-- The swap cycle (R173): the first multiple of both revolutions after a cycle. -/
def swapCycle (old new : Wheel) (t : Nat) : Nat :=
  let l := Nat.lcm (old.pi * old.po) (new.pi * new.po)
  (t / l + 1) * l

/-- WHEELSET (R172). -/
def execWheelset (a : BitVec 5) (s : State) : Host.Outcome State Fault Refusal :=
  finish (do
    needPriv
    let l ← check (s.rdS a) 0 128 64 rR anySpace
    match ← readM l 128 with
    | none => retireM
    | some head => do
      need (headOk head)
      let n := 128 + 256 * (head.headD 0).toNat
      let s ← get
      if !s.limitOk s.clusterNo l.seg l.eo n then trap tSegLimit l.ptr
      else
        match ← readM { l with eo := l.eo + 128 } (n - 128) with
        | none => retireM
        | some b => do
          let w := wheelOf (head ++ b)
          need w.valid
          modify (fun s => s.updRegion s.regionNo (fun g => { g with shadow := some w, swapAt := swapCycle g.wheel w g.clock }))
          retireM) s

end Sys2Proof.Machine
end

