-- ==== Sys2Proof/Machine/Messages.lean ====
section
/-! DEFINITION. Messages (11, R255 to R267): the forms of major 0x29, a flit's arrival, refusal and retry, acknowledgements and replies,
the built-in handlers and the user handler of slot 15, and the landing of a halyard entry. -/

namespace Sys2Proof.Machine

/-! Sending. -/

/-- A message header (Table 11-1) of the current thread. -/
def State.header (s : State) (kind : Nat) (tag : BitVec 8) : Word :=
  BitVec.ofNat 64 ((if (s.core s.coreNo).colour then 2 ^ 63 else 0) + kind * 2 ^ 60 + s.slotNo * 2 ^ 56 + tag.toNat * 2 ^ 48 + 2 ^ 47 +
    s.th.id.lregion.toNat * 2 ^ 32 + s.coreNo % 256)

def Flit.colour (f : Flit) : Bool := f.header.getLsbD 63
/-- A posted operation (R259). -/
def Flit.posted (f : Flit) : Bool := !f.strong
/-- A posted or strong RAMO.FADD, whose flags return (R264). -/
def Flit.fadd (f : Flit) : Bool := f.kind = 3 && f.op = 10

/-- The flit of a checked access of the current thread to a remote core (R261). -/
def State.flit (s : State) (l : Loc) (kind : Nat) (tag : BitVec 8) : Flit :=
  let r := ((s.regEntry (taskVf s.th.id.task) (segLregion l.seg)).map (fun p => p.1)).getD 0
  { kind := kind, header := s.header kind tag, src := s.cur, task := s.groupTask s.cur, dst := 256 * r + segCore l.seg,
    addr := segBase l.seg + l.eo, eo := l.eo, lseg := segRights l.seg &&& rL ≠ 0, pc := s.th.reportPc, ptr := l.ptr }

/-- A flit enters the network (R255, R403). -/
def State.launchFlit (s : State) (f : Flit) : State :=
  { s with net := s.net ++ [f] }.countSent (coreOf f.src) f.colour

/-- A posted operation: a seventeenth parks (R259). -/
def postM (f : Flit) : M Unit := do
  let s ← get
  if 16 ≤ s.th.w.posted then parkM .posted
  else
    modify (fun s => { s.launchFlit f with
      th.w.posted := s.th.w.posted + 1
      th.w.fadds := s.th.w.fadds + (if f.fadd then 1 else 0) })
    retireM

/-- A strong remote operation parks until its reply (R264). -/
def remoteM (f : Flit) : M Unit := do
  modify (fun s => s.launchFlit { f with strong := true })
  parkM .reply

/-- A half of a vector register: 64 bytes (R260). -/
def vhalf (v : VReg) (h : BitVec 1) : List Byte := leBytes 64 (v.toNat / 2 ^ (512 * h.toNat))

/-- The log-full check of a remote access whose event will be logged (R347). -/
def remoteGuard (f : Flit) : M Unit := if f.lseg ∨ f.kind = 3 then logGuard (regionOf f.dst) else pure ()

/-- SEND (R262). -/
def execSend (d a : BitVec 5) (h : BitVec 1) (t : BitVec 8) (s : State) : Host.Outcome State Fault Refusal :=
  finish (do
    notHandler
    specOldest
    let l ← check (s.rdS a) 0 1 1 rW only5
    specBind
    let s ← get
    postM { s.flit l 0 t with payload := vhalf (s.rdV d) h }) s

/-- AMSG (R266). -/
def execAmsg (d a : BitVec 5) (h : BitVec 1) (t : BitVec 8) (s : State) : Host.Outcome State Fault Refusal :=
  finish (do
    notHandler
    specOldest
    let l ← check (s.rdS a) 0 1 1 rW only5
    specBind
    let s ← get
    postM { s.flit l 4 t with payload := vhalf (s.rdV d) h }) s

/-- RST of 1, 2, 4 or 8 bytes (R264). -/
def execRst (d a : BitVec 5) (z : BitVec 2) (o : BitVec 8) (s : State) : Host.Outcome State Fault Refusal :=
  let n := 2 ^ z.toNat
  finish (do
    specOldest
    let l ← check (s.rdS a) (disp 8 o n) n n rW only5
    specBind
    let s ← get
    let f := { s.flit l 1 0 with size := n, payload := leBytes n (s.rdS d).toNat }
    remoteGuard f
    postM f) s

/-- RST.V (R264). -/
def execRstV (d a : BitVec 5) (h : BitVec 1) (o : BitVec 8) (s : State) : Host.Outcome State Fault Refusal :=
  finish (do
    specOldest
    let l ← check (s.rdS a) (disp 8 o 64) 64 64 rW only5
    specBind
    let s ← get
    let f := { s.flit l 1 0 with size := 64, payload := vhalf (s.rdV d) h }
    remoteGuard f
    postM f) s

/-- RLD (R264). -/
def execRld (d a : BitVec 5) (z : BitVec 2) (o : BitVec 8) (s : State) : Host.Outcome State Fault Refusal :=
  let n := 2 ^ z.toNat
  finish (do
    specOldest
    let l ← check (s.rdS a) (disp 8 o n) n n rR only5
    specBind
    let s ← get
    let f := { s.flit l 2 0 with size := n, d := d.toNat }
    remoteGuard f
    remoteM f) s

/-- RAMO (R260, R264): ops 11 to 15 and FADD.D trap ILLEGAL; slot 15 may use it only with d = 0. -/
def execRamo (d a : BitVec 5) (z : BitVec 1) (o : BitVec 4) (b : BitVec 5) (s : State) : Host.Outcome State Fault Refusal :=
  let n := if z = 1 then 8 else 4
  finish (do
    need (decide (o.toNat < 11) && !(o.toNat = 10 && z = 1))
    if d ≠ 0 then notHandler
    specOldest
    let l ← check (s.rdS a) 0 n n rA only5
    specBind
    let s ← get
    let f := { s.flit l 3 0 with size := n, op := o.toNat, b := s.rdS b, cmp := s.rdS d, d := d.toNat }
    remoteGuard f
    if d = 0 then postM f else remoteM f) s

/-! Receiving. -/

/-- The oldest entry of a launch, and the queue without it (R263). -/
def takeRx (launch : Nat) : List RxEntry → Option (RxEntry × List RxEntry)
  | [] => none
  | e :: r => if e.launch = launch then some (e, r) else (takeRx launch r).map (fun p => (p.1, e :: p.2))

/-- The dequeue's event (Table 16-4, kind 0x05). -/
def State.recvEv (s : State) (k : Nat) (e : RxEntry) : Ev :=
  { kind := 5, task := s.groupTask k, object := rxObject (coreOf k) (taskLaunch (s.getT k).id.task), digest := crc32c e.payload,
    aux := e.header.setWidth 32, wide := true }

/-- The registers a receive writes (R263). -/
def Regs.received (r : Regs) (d v : Nat) (e : RxEntry) : Regs :=
  (r.wrV v (BitVec.ofNat 1024 (leNat e.payload))).wrS d e.header

def recvM (d v : BitVec 5) (park : Bool) : M Unit := do
  notHandler
  specBind
  let s ← get
  match takeRx (taskKey s.th.id.task) (s.core s.coreNo).u.rxq with
  | none =>
    if park then parkM (.recv d.toNat v.toNat)
    else do
      setS d 0
      retireM
  | some (e, q) => do
    logGuard s.regionNo
    eventOrM (if park then .recv d.toNat v.toNat else .replay s.regionNo) s.regionNo (s.recvEv s.cur e)
    modify (fun s => { s.updCore s.coreNo (fun c => { c with u.rxq := q }) with th.r := s.th.r.received d.toNat v.toNat e })
    retireM

/-- RECV (R263). -/
def execRecv (d v : BitVec 5) (s : State) : Host.Outcome State Fault Refusal := finish (recvM d v true) s
/-- RECVP (R263). -/
def execRecvp (d v : BitVec 5) (s : State) : Host.Outcome State Fault Refusal := finish (recvM d v false) s

/-- One parked RECV tried: it takes the oldest entry of its launch (R263). -/
def State.serveRecv (s : State) (k : Nat) : State :=
  match (s.getT k).w.park with
  | .recv d v =>
    match takeRx (taskKey (s.getT k).id.task) (s.core (coreOf k)).u.rxq with
    | none => s
    | some (e, q) =>
      match s.event (regionOf (coreOf k)) k (s.recvEv k e) with
      | .perform s => (s.updCore (coreOf k) (fun c => { c with u.rxq := q })).updT k (fun t => t.complete (fun r => r.received d v e))
      | .wait => s
      | .diverge s o rep => s.freeze k tDiverge o 0 (s.getT k).r.pc false false rep
  | _ => s

/-- The parked RECVs of a core tried in order of parking, ties to the lower slot (R140, R263). -/
def State.serveRecvs (s : State) (core : Nat) : State :=
  (s.waiters (fun p => match p with
    | .recv _ _ => true
    | _ => false)).foldl (fun s k => if coreOf k = core then s.serveRecv k else s) s

/-! Acknowledgements and replies. -/

def Flit.reply (f : Flit) (value : Word) (flags : BitVec 4) (code : BitVec 8) : Reply :=
  { dst := f.src, task := f.task, strong := f.strong, d := f.d, value := value, flags := flags, fadd := f.fadd, code := code,
    pc := f.pc, ptr := f.ptr }

/-- A reply or acknowledgement leaves for the sender (R259, R264). -/
def State.answer (s : State) (r : Reply) : State :=
  if r.strong then { s with reps := s.reps ++ [r] } else { s with acks := s.acks ++ [r] }

/-- No posted operation or halyard entry of a thread is unacknowledged (R296, R218); one that a cut holds is not acknowledged either. -/
def State.netQuiet (s : State) (k : Nat) : Bool :=
  (s.getT k).w.posted = 0 && !s.hal.any (fun f => f.src = k) &&
  !s.regions.any (fun p => (p.2.cut.saved ++ p.2.cut.stalled).any (fun f => f.kind = 5 && f.src = k))

/-- What an acknowledgement releases: a seventeenth posted operation is issued again, FENCE.NET completes. -/
def State.settle (s : State) (k : Nat) : State :=
  let t := s.getT k
  if t.st ≠ .parked then s
  else match t.w.park with
    | .posted => s.wakeT k
    | .fenceNet => if s.netQuiet k then s.updT k (fun t => t.complete id) else s
    | _ => s

/-- Whether an answer still finds its thread: slot 15 serves one task after another (R266). -/
def State.answers (s : State) (r : Reply) : Bool := s.groupTask r.dst = r.task || r.dst % 16 = 15

/-- ACK_ARRIVAL (R259): the count falls, flags are ORed, and a refusal becomes a deferred trap. -/
def execAckArrival (i : Nat) (s : State) : Host.Outcome State Fault Refusal :=
  match s.acks[i]? with
  | none => .next s
  | some r =>
    let s := { s with acks := s.acks.eraseIdx i }
    if !s.answers r then .next s
    else
      let s := s.updT r.dst (fun t =>
        { t with
          w.posted := t.w.posted - 1
          w.fadds := t.w.fadds - (if r.fadd then 1 else 0)
          r.fp := t.r.fp ||| r.flags
          is.deferred := if r.code = 0 then t.is.deferred
            else t.is.deferred ++ [{ code := r.code, pc := r.pc, ptr := r.ptr, report := r.report }] })
      .next (s.settle r.dst)

/-- REPLY_ARRIVAL (R264): sd is written and the thread is READY; an error traps at the instruction. -/
def execReplyArrival (i : Nat) (s : State) : Host.Outcome State Fault Refusal :=
  match s.reps[i]? with
  | none => .next s
  | some r =>
    let s := { s with reps := s.reps.eraseIdx i }
    let t := s.getT r.dst
    if !s.answers r ∨ (t.st ≠ .parked ∧ t.st ≠ .saving) ∨ t.w.park ≠ .reply then .next s
    else if r.code ≠ 0 then .next (s.freeze r.dst r.code r.ptr 0 t.r.pc false false r.report)
    else .next (s.updT r.dst (fun t => { t.complete (fun g => g.wrS r.d r.value) with r.fp := t.r.fp ||| r.flags }))

/-! Arrival. -/

/-- A permanent refusal (R259). -/
def State.refuse (s : State) (f : Flit) (code : BitVec 8) : State := s.answer (f.reply 0 0 code)

/-- A refusal returns the flit to its sender's retry buffer for its back-off, which doubles each time (R258). -/
def State.returnFlit (s : State) (f : Flit) : State :=
  s.updCore (coreOf f.src) (fun c =>
    { c with
      retryCt := if c.retryCt = BitVec.allOnes 64 then c.retryCt else c.retryCt + 1
      u.retry := c.u.retry ++ [{ f with backoff := min 1024 (2 * f.backoff), due := s.clockAt (coreOf f.src) + f.backoff }] })

/-- The record of a flit in a cut's ring (R404). -/
def Flit.record (f : Flit) : List Byte :=
  leBytes 8 f.header.toNat ++ leBytes 8 (f.dst * 2 ^ 32 + f.addr) ++ leBytes 8 (f.task.toNat / 2 ^ 32) ++ leBytes 8 0 ++
  (f.payload ++ List.replicate 64 0#8).take 64 ++ leBytes 32 0

/-- A flit held by the region's router for a cut: in the save buffer, or spilled to the ring; a full ring stalls capture (R404). -/
def State.capture (s : State) (r core : Nat) (f : Flit) : State :=
  let g := s.region r
  let keep := fun (s : State) => (s.updRegion r (fun g => { g with cut.saved := g.cut.saved ++ [f] })).countRecv core f.colour
  if g.cut.saved.length < 64 then keep s
  else
    let size := 2 ^ (12 + g.cut.ring.toNat % 16)
    let base := g.cut.ring.toNat / 2 ^ 12 % 2 ^ 44 * 2 ^ 12
    let full := s.updRegion r (fun g => { g with cut.ovf := true, cut.stalled := g.cut.stalled ++ [f] })
    if size < 128 * (g.cut.ringN + 1) then full
    else match s.translate r (base + 128 * g.cut.ringN) true with
      | (s, .ok pa) => keep ((s.setBytes (hbmKey pa) f.record).updRegion r (fun g => { g with cut.ringN := g.cut.ringN + 1 }))
      | _ => full

/-- Whether a flit is of the old colour of a cut under way, at a core that has flipped (R404). -/
def State.oldColour (s : State) (core : Nat) (f : Flit) : Bool :=
  let g := s.region (regionOf core)
  g.cut.going && !f.resent && f.colour = g.cut.col && (s.core core).colour ≠ g.cut.col

/-- Whether the scheduler has closed a core to a launch (R258). -/
def State.closed (s : State) (task : Word) (core : Nat) : Bool :=
  let n := taskKey task
  let l := s.launch n
  l.phase ≠ 1 && decide (l.tiles ≤ l.dispatched.length) &&
  !(List.range 15).any (fun i => let t := s.getT (16 * core + i); t.st ≠ .empty && taskKey t.id.task = n) &&
  !(List.range 32).any (fun r => (s.region r).contexts.any (fun c =>
    taskKey c.task = n && s.ctxAdmits r c core))

/-- Whether a core holds a task of a launch. -/
def State.holdsTask (s : State) (task : Word) (core : Nat) : Bool :=
  (List.range 15).any (fun i => let t := s.getT (16 * core + i); t.st ≠ .empty && taskKey t.id.task = taskKey task)

/-- The start of a launch's local-store window on a core (R130). -/
def Launch.window (l : Launch) (core : Nat) : Option Nat := (l.lsWin.find? (fun p => p.1 = core)).map (fun p => p.2)
/-- The window's size: LSBYTES rounded up to 128 (R129). -/
def Launch.windowSize (l : Launch) : Nat := (leNat ((l.record.drop 0x28).take 4) + 127) / 128 * 128

/-- RECV of a flit of the core's accepted flits is counted, but for one re-injected (R403, R424). -/
def State.accept (s : State) (f : Flit) : State := if f.resent then s else s.countRecv f.dst f.colour

/-- A halyard entry lands in its slot's buffer, unless a task of another launch holds the slot; a parked receive is issued again, and the
sender is acknowledged (R217, R218). -/
def State.landHal (s : State) (f : HalFlit) (counted : Bool) : State :=
  let t := s.getT f.dst
  let s :=
    if t.st ≠ .empty ∧ taskKey t.id.task ≠ f.entry.launch then s
    else
      let s := s.setHalBuf f.dst (s.halBuf f.dst ++ [f.entry])
      let s := if counted then s.countRecv (coreOf f.dst) f.colour else s
      if (s.getT f.dst).st = .parked ∧ (s.getT f.dst).w.park = .hrecv then s.wakeT f.dst else s
  s.settle f.src

/-- A halyard entry as a cut's router holds it (R404). -/
def HalFlit.flit (f : HalFlit) : Flit :=
  { kind := 5, header := BitVec.ofNat 64 ((if f.colour then 2 ^ 63 else 0) + 5 * 2 ^ 60 + f.entry.kind * 2 ^ 48 + 2 ^ 47),
    src := f.src, task := f.task, dst := coreOf f.dst, addr := slotOf f.dst, payload := leBytes 64 f.entry.data.toNat, entry := f.entry }

/-- A halyard entry reaches its core: captured when it is of the old colour there, or landed (R404). -/
def State.arriveHal (s : State) (f : HalFlit) : State :=
  if s.oldColour (coreOf f.dst) f.flit then s.capture (regionOf (coreOf f.dst)) (coreOf f.dst) f.flit else s.landHal f true

/-- A flit reaches its target (R257, R258, R404): refused for good, captured, refused for a while, or accepted. -/
def State.arrive (s : State) (f : Flit) : State :=
  let g := s.region (regionOf f.dst)
  let l := s.launch (taskKey f.task)
  if g.own.phase ≠ 0 ∨ g.own.gate = false then s.refuse f tRegionGone
  else if ¬(g.own.assigned = true ∧ g.own.vf = taskVf f.task) then s.refuse f tSegRights
  else if s.oldColour f.dst f then s.capture (regionOf f.dst) f.dst f
  else if f.kind = 5 then
    s.landHal { src := f.src, task := f.task, dst := 16 * f.dst + f.addr, colour := f.colour, entry := f.entry } (!f.resent)
  else if f.kind = 0 then
    if s.holdsTask f.task f.dst = false then
      (if s.closed f.task f.dst then s.refuse f tSegRights else s.returnFlit f)
    else if 32 ≤ (s.core f.dst).u.rxq.length then s.returnFlit f
    else
      let e : RxEntry := { header := f.header, payload := f.payload, launch := taskKey f.task }
      (((s.accept f).updCore f.dst (fun c => { c with u.rxq := c.u.rxq ++ [e] })).answer (f.reply 0 0 0)).serveRecvs f.dst
  else if f.kind = 4 ∧ l.kernel.handler = 0xFFFFFFFF then s.refuse f tSegRights
  else if f.kind = 4 ∧ l.window f.dst = none then
    (if s.closed f.task f.dst then s.refuse f tSegRights else s.returnFlit f)
  else if 16 ≤ (s.core f.dst).u.hq.length then s.returnFlit f
  else (s.accept f).updCore f.dst (fun c => { c with u.hq := c.u.hq ++ [f] })

/-- MESSAGE_ARRIVAL (R258). -/
def execMessageArrival (i : Nat) (s : State) : Host.Outcome State Fault Refusal :=
  match s.net[i]? with
  | none => .next s
  | some f => .next ({ s with net := s.net.eraseIdx i }.arrive f)

/-- The first flit of a retry buffer whose back-off is over, and the others. -/
def takeDue (now : Nat) : List Flit → Option (Flit × List Flit)
  | [] => none
  | f :: r => if f.due ≤ now then some (f, r) else (takeDue now r).map (fun p => (p.1, f :: p.2))

/-- MESSAGE_RETRY (R258): a flit whose back-off is over is sent again, or captured when its core has flipped, back-off or not (R404). -/
def execMessageRetry (core : Nat) (s : State) : Host.Outcome State Fault Refusal :=
  match (s.core core).u.retry.partition (fun f => s.oldColour core f) with
  | (f :: r, l) => .next ((s.updCore core (fun c => { c with u.retry := r ++ l })).capture (regionOf core) core f)
  | ([], l) =>
    match takeDue (s.clockAt core) l with
    | none => .next s
    | some (f, r) => .next { s.updCore core (fun c => { c with u.retry := r }) with net := s.net ++ [f] }

/-- HALYARD_LAND (R217, R218). -/
def execHalyardLand (i : Nat) (s : State) : Host.Outcome State Fault Refusal :=
  match s.hal[i]? with
  | none => .next s
  | some f => .next ({ s with hal := s.hal.eraseIdx i }.arriveHal f)

/-! Handlers. -/

/-- A built-in handler performed as one sequencer entry (R264): the state and answer; none when its event waits. -/
def State.handle (s : State) (f : Flit) : Option State :=
  let s := s.drainSeq f.dst
  let key := lsKey f.dst f.addr
  let ev := fun (kind aux : Nat) (b : List Byte) =>
    let d := valueDigest b
    { kind := kind, task := f.task, object := keyObject key, digest := d.1, wide := d.2, aux := BitVec.ofNat 32 aux, lseg := f.lseg,
      async := true, remote := regionOf (coreOf f.src) ≠ regionOf f.dst : Ev }
  let logged := fun (log : Bool) (e : Ev) (go : State → State) =>
    if log then
      match s.event (regionOf f.dst) f.src e with
      | .perform s => some (go s)
      | .wait => none
      | .diverge s o rep => some (s.answer { f.reply 0 0 tDiverge with ptr := o, report := rep })
    else some (go s)
  if f.kind = 1 then
    let cells := cellsOf key f.payload
    if (s.writeCells cells).2 then some ((if f.lseg then s.pad f.task (regionOf f.dst) else s).answer (f.reply 0 0 tBankPoison))
    else logged f.lseg (ev 1 0xFF f.payload) (fun s => (s.storeCells cells).1.answer (f.reply 0 0 0))
  else
  let s := s.readErrors f.task [(key, f.size)]
  if (s.poisonedAt key f.size).isSome then
    some ((if f.lseg ∨ f.kind = 3 then s.pad f.task (regionOf f.dst) else s).answer (f.reply 0 0 tBankPoison))
  else if f.kind = 2 then
    let b := s.bytes key f.size
    logged f.lseg (ev 2 0xFF b) (fun s => s.answer (f.reply (BitVec.ofNat 64 (leNat b)) 0 0))
  else
    let old := s.readLE key f.size
    let size8 := decide (f.size = 8)
    let r := amoNew f.op size8 old (f.b.toNat % 256 ^ f.size) (f.cmp.toNat % 256 ^ f.size)
    logged true (ev 3 (f.op + (if size8 then 16 else 0)) (leBytes f.size old)) (fun s =>
      (s.writeLE key f.size r.1).answer (f.reply (amoResult f.op size8 old) r.2 0))

/-- HANDLER_START (R265): the built-in handler at the head of the queue, while slot 15 runs nothing. -/
def execHandlerStart (core : Nat) (s : State) : Host.Outcome State Fault Refusal :=
  match (s.core core).u.hq with
  | [] => .next s
  | f :: r =>
    if f.kind = 4 ∨ (s.getT (16 * core + 15)).st ≠ .empty then .next s
    else match (s.updCore core (fun c => { c with u.hq := r })).handle f with
      | some s => .next s
      | none => .next s

/-- Slot 15 set up for the user handler of a flit (R266). -/
def State.startHandler (s : State) (core : Nat) (f : Flit) : State :=
  let l := s.launch (taskKey f.task)
  let g0 := segMake ((l.window core).getD 0) l.windowSize 0 (rR + rW + rA) 0 0 0 0 0
  let n := ((s.logicalOf (taskVf f.task) (regionOf core)).getD 0)
  s.updT (16 * core + 15) (fun t =>
    { t with
      st := .ready
      r := { (((t.r.wrS 1 f.header).wrS 2 (BitVec.ofNat 64 f.eo)).wrV 1 (BitVec.ofNat 1024 (leNat f.payload))) with
             pc := BitVec.ofNat 64 (4 * l.kernel.handler), g := SMap.set 0 [] 0 g0 }
      id := { task := f.task, lregion := BitVec.ofNat 5 n, priv := l.priv }
      is.ibuf := []
      is.gap := 8 })

/-- USER_HANDLER_START (R266). -/
def execUserHandlerStart (core : Nat) (s : State) : Host.Outcome State Fault Refusal :=
  match (s.core core).u.hq with
  | [] => .next s
  | f :: r =>
    if f.kind ≠ 4 ∨ (s.getT (16 * core + 15)).st ≠ .empty then .next s
    else
      let s := s.updCore core (fun c => { c with u.hq := r })
      .next ((s.answer (f.reply 0 0 0)).startHandler core f)

/-- HRET (R266): slot 15 is IDLE, its registers kept; elsewhere it traps ILLEGAL. -/
def execHret (s : State) : Host.Outcome State Fault Refusal :=
  finish (do
    let s ← get
    need (decide (s.slotNo = 15))
    let s := s.retire
    set { s with th.st := .empty, th.is.ibuf := [], th.is.rlx := false, th.id := {} }) s

end Sys2Proof.Machine
end

