-- ==== Sys2Proof/Machine/Debug.lean ====
section
/-! DEFINITION. Fetching and trapping as events (R51, R56, R384, R386), breakpoints (23, R444 to R447), counters and the trigger crossbar
(R439 to R443). -/

namespace Sys2Proof.Machine

/-- CODE_FETCH (R51, R74). -/
def execCodeFetch (s : State) : Host.Outcome State Fault Refusal := finish codeFetchM s

/-- ILLEGAL_WORD (R56, R57). -/
def execIllegalWord (w : BitVec 32) (s : State) : Host.Outcome State Fault Refusal := finish illegal { s with word := w, issuing := false }

/-- DEFERRED_TRAP (R384): the first pending one is taken, reported at the PC and pointer of its operation. -/
def execDeferredTrap (s : State) : Host.Outcome State Fault Refusal :=
  let s := { s with issuing := false }
  match s.th.is.deferred with
  | [] => .next s
  | d :: r =>
    let s := { s with th := { s.th.rewind with is := { s.th.rewind.is with deferred := r } } }
    if s.th.isGuess then .next (s.takeTrap d.code d.ptr 0)
    else .next (s.freeze s.cur d.code d.ptr 0 d.pc true false d.report)

/-- FAULT_PACKET_SEND (R386): a held packet is sent once the supervisor has read its mailbox. -/
def execFaultPacketSend (core : Nat) (s : State) : Host.Outcome State Fault Refusal :=
  match (s.core core).held with
  | [] => .next s
  | p :: r =>
    let s := s.updCore core (fun c => { c with held := r })
    .next (s.updRegion (regionOf core) (fun g =>
      { g with mailbox := (if g.mailbox.length < 256 then g.mailbox else g.mailbox.drop 1) ++ [p] }))

/-! Breakpoints. -/

/-- Whether breakpoint `n` matches a task at a PC (R445). -/
def State.bpMatches (s : State) (n : Nat) (task pc : Word) : Bool :=
  let x := SMap.get 0 s.pkg.bp (2 * n)
  let w := (SMap.get 0 s.pkg.bp (2 * n + 1)).toNat
  bit w 63 && decide (pc.toNat / 4 = w / 4 % 2 ^ 30) && decide (pc.toNat % 4 = 0) &&
  (match w / 2 ^ 61 % 4 with
    | 0 => decide (x = task)
    | 1 => decide (x >>> 32 = task >>> 32)
    | _ => decide (x >>> 56 = task >>> 56))

/-- The lowest breakpoint that matches the current thread at its PC (R445, R446). -/
def State.bpHit (s : State) : Option Nat :=
  (List.range 16).find? (fun n => s.bpMatches n (s.groupTask s.cur) s.th.r.pc)

/-- Whether the current thread is tested (R445, R446). -/
def State.bpTested (s : State) : Bool := !s.th.is.woken && !s.th.is.rlx && s.slotNo ≠ 15 && !s.th.isGuess

/-- BREAKPOINT_MATCH (R445): the slot freezes at the word; ONCE disarms; the match fires its trigger. -/
def execBreakpointMatch (s : State) : Host.Outcome State Fault Refusal :=
  let s := { s with issuing := false }
  match (if s.bpTested then s.bpHit else none) with
  | none => .next s
  | some n =>
    let w := SMap.get 0 s.pkg.bp (2 * n + 1)
    let s := if w.getLsbD 60 then { s with pkg.bp := SMap.set 0 s.pkg.bp (2 * n + 1) (w &&& 0x7FFFFFFFFFFFFFFF#64) } else s
    let s := s.fire (s.regionNo / 4) 1 n 0
    .next (s.takeTrap tBreakpoint 0 (BitVec.ofNat 64 ((n + 1) * 2 ^ 8)))

/-- BREAKPOINT_WRITE (R444, R447): a write with MATCH 3 is ignored. -/
def execBreakpointWrite (n word : Nat) (value : BitVec 64) (s : State) : Host.Outcome State Fault Refusal :=
  .next (if 16 ≤ n ∨ 2 ≤ word ∨ (word = 1 ∧ value.toNat / 2 ^ 61 % 4 = 3) then s
    else { s with pkg.bp := SMap.set 0 s.pkg.bp (2 * n + word) (if word = 0 then value else value &&& 0xF0000000FFFFFFFC#64) })

/-! Counters and triggers. -/

/-- PROFCTL_WRITE (R440, Table 23-2). -/
def execProfctlWrite (core : Nat) (value : BitVec 64) (s : State) : Host.Outcome State Fault Refusal :=
  .next (s.updCore core (fun c =>
    { c with prof :=
      { en := value.getLsbD 63, frz := value.getLsbD 62, filt := value.getLsbD 60,
        count := if value.getLsbD 61 then [] else c.prof.count, hist := if value.getLsbD 61 then [] else c.prof.hist } }))

/-- The pulses that act now in a core's counters: a freeze first, and a stop wins over a start (R443). -/
def Prof.act (p : Prof) (freeze stop start : Bool) : Prof :=
  let frz := p.frz || freeze
  { p with frz := frz, en := if stop then false else if start && !frz then true else p.en }

/-- The due pulses of a region act in every one of its cores (R443). -/
def State.actPulses (s : State) (r : Nat) : State :=
  let g := s.region r
  let due := (g.pulses.filter (fun p => decide (p.2 ≤ g.clock))).map (fun p => p.1)
  let w := g.proftrig.toNat
  let freeze := bit w 61 && due.contains (w / 2 ^ 16 % 64)
  let stop := bit w 62 && due.contains (w / 2 ^ 8 % 64)
  let start := bit w 63 && due.contains (w % 64)
  let s := s.setRegion r { g with pulses := g.pulses.filter (fun p => !decide (p.2 ≤ g.clock)) }
  if freeze || stop || start then
    (List.range 256).foldl (fun s i => s.updCore (256 * r + i) (fun c => { c with prof := c.prof.act freeze stop start })) s
  else s

/-- TRIGGER_PULSE (R443): a pulse of a line acts in the regions of its die in which it is due, with every other pulse due there. -/
def execTriggerPulse (die line : Nat) (s : State) : Host.Outcome State Fault Refusal :=
  .next ((List.range 4).foldl (fun s i =>
    let r := 4 * die + i
    if (s.region r).pulses.any (fun p => p.1 = line && decide (p.2 ≤ (s.region r).clock)) then s.actPulses r else s) s)

/-- TRIGIN (R442): an input pin reaches every die. -/
def execTrigin (pin : Nat) (s : State) : Host.Outcome State Fault Refusal := .next (s.fireOn (fun _ => true) 6 pin 0)

end Sys2Proof.Machine
end

