-- ==== Sys2Proof/Machine/Fences.lean ====
section
/-! DEFINITION. FENCE, FENCE.NET and ICSYNC (12, R295 to R301), and the return of a flushing read of host memory. -/

namespace Sys2Proof.Machine

/-- What each kind of FENCE waits for (Table 12-10). -/
def fenceWork (k : BitVec 2) : Work := if k = 0 then .reads else if k = 1 then .writes else .accesses

/-- FENCE.ACQ 0, .REL 1, .FULL 2 (R295, R296): scope codes 6 and 7, and kind 3 with a scope, trap ILLEGAL. A REL or FULL of SYSTEM scope
after host writes waits for the flushing read. -/
def execFence (z : BitVec 3) (k : BitVec 2) (s : State) : Host.Outcome State Fault Refusal :=
  finish (do
    need (decide (z.toNat < 6) && decide (k.toNat < 3))
    specBind
    waitM (fenceWork k)
    let s ← get
    if z.toNat = 5 ∧ k.toNat ≠ 0 ∧ s.th.w.hostDirty then do
      modify (fun s => s.updCore s.coreNo (fun c => { c with flush := c.flush ++ [s.cur] }))
      parkM .hostFlush
    else retireM) s

/-- FENCE.NET (R296). -/
def execFenceNet (s : State) : Host.Outcome State Fault Refusal :=
  finish (do
    specBind
    let s ← get
    if s.netQuiet s.cur then retireM else parkM .fenceNet) s

/-- HOST_READ_RETURN (R296): the oldest flushing read of a core returns and completes its fence. -/
def execHostReadReturn (core : Nat) (s : State) : Host.Outcome State Fault Refusal :=
  match (s.core core).flush with
  | [] => .next s
  | k :: r =>
    let s := s.updCore core (fun c => { c with flush := r })
    if (s.getT k).st = .parked ∧ (s.getT k).w.park = .hostFlush then
      .next (s.updT k (fun t => { t.complete id with w.hostDirty := false }))
    else .next s

/-- Whether a core lies in the scope of an ICSYNC of the current thread (R286, R301). -/
def State.inScope (s : State) (scope c : Nat) : Bool :=
  match scope with
  | 0 => c = s.coreNo
  | 1 => c = s.coreNo
  | 2 => clusterOf c = s.clusterNo
  | 3 => regionOf c = s.regionNo
  | _ => (s.vfRegions (taskVf s.th.id.task)).contains (regionOf c)

/-- The code that fetch holds is dropped: the buffers of the threads in scope, and what their cores still see (R300, R301). -/
def State.syncCode (s : State) (scope : Nat) : State :=
  let s := (s.threadKeys.filter (fun k => s.inScope scope (coreOf k) && (scope ≠ 0 || k = s.cur))).foldl
    (fun s k => s.updT k (fun t => { t with is.ibuf := [] })) s
  ((s.cores.map (fun p => p.1)).filter (fun c => s.inScope scope c)).foldl (fun s c => s.updCore c (fun x => { x with code := [] })) s

/-- ICSYNC (R301): the instruction buffer of every thread in scope is emptied, in the step of its issue. -/
def execIcsync (z : BitVec 3) (s : State) : Host.Outcome State Fault Refusal :=
  finish (do
    need (decide (z.toNat < 6))
    specBind
    modify (fun s => s.syncCode z.toNat)
    retireM) s

end Sys2Proof.Machine
end

