-- ==== Sys2Proof/Machine/Matrix.lean ====
section
/-! DEFINITION. Operand memory, accumulators and the matrix array (10): claims, OFILL and ODRAIN, the multiplies, accumulator moves and
ACCST, and gangs. A matrix command has its effect when it issues; the intake holds its place until it starts (R233). -/

namespace Sys2Proof.Machine

/-! Units. -/

/-- Unit codes (R227). -/
def unitCode (kind : BitVec 1) (n : BitVec 3) : Nat := if kind = 1 then 8 + n.toNat else n.toNat
def skUnit : Nat := 10

/-- The holder of a unit: slot + 1, 0 when free (R227). -/
def Units.holder (u : Units) (code : Nat) : Nat := SMap.get 0 u.hold code
/-- Slot 15 holds no unit: its code stands for a saved context (R228, R229). -/
def Units.holds (u : Units) (slot code : Nat) : Bool := slot ≠ 15 && u.holder code = slot + 1
/-- The slot whose number MXCLAIM shows for a thread's units: in a speculation group the owner's, so that a unit outlives the group slot that
claimed it (DEDUCED from R230 and R252: nothing but the four ways named there takes a unit from its holder). -/
def State.unitSlot (s : State) (k : Nat) : Nat := slotOf (if (s.getT k).sp.role = .none then k else (s.getT k).sp.owner)
def State.holds (s : State) (k code : Nat) : Bool := (s.core (coreOf k)).u.holds (s.unitSlot k) code

/-- OPERAND_SLOT with a unit code (R227). -/
def slotTrap {α : Type} (code : Nat) : M α := trap tOperandSlot (BitVec.ofNat 64 code)

/-- The lowest of some units that a thread does not hold. -/
def State.notHeld (s : State) (k : Nat) (units : List Nat) : Option Nat :=
  (List.range 11).find? (fun u => units.contains u && !s.holds k u)

def needHeld (code : Nat) : M Unit := do
  let s ← get
  if s.holds s.cur code then pure () else slotTrap code

def setHolder (code h : Nat) : M Unit :=
  modify (fun s => s.updCore s.coreNo (fun c => { c with u.hold := SMap.set 0 c.u.hold code h }))

/-- OCLAIM (R228). Every form of this major waits for the oldest iteration (R253). -/
def execOclaim (d : BitVec 5) (k : BitVec 1) (n : BitVec 3) (s : State) : Host.Outcome State Fault Refusal :=
  finish (do
    need (k = 0 || decide (n.toNat < 3))
    notHandler
    specBind
    let s ← get
    let u := unitCode k n
    let h := (s.core s.coreNo).u.holder u
    if h = s.unitSlot s.cur + 1 ∨ h = 0 then do
      setHolder u (s.unitSlot s.cur + 1)
      setS d (n.setWidth 64)
    else setS d (BitVec.allOnes 64)
    retireM) s

/-- OCLAIM.ANY (R228). -/
def execOclaimAny (d : BitVec 5) (k : BitVec 1) (s : State) : Host.Outcome State Fault Refusal :=
  finish (do
    notHandler
    specBind
    let s ← get
    let u := (s.core s.coreNo).u
    match (if k = 1 then [8, 9] else List.range 8).find? (fun x => u.holder x = 0) with
    | some x => do
      setHolder x (s.unitSlot s.cur + 1)
      setS d (BitVec.ofNat 64 (x % 8))
    | none => setS d (BitVec.allOnes 64)
    retireM) s

/-- ORELEASE (R228). -/
def execOrelease (k : BitVec 1) (n : BitVec 3) (s : State) : Host.Outcome State Fault Refusal :=
  finish (do
    need (k = 0 || decide (n.toNat < 3))
    notHandler
    specOldest
    needHeld (unitCode k n)
    specBind
    setHolder (unitCode k n) 0
    retireM) s

/-! Bulk accesses of this chapter: none is an event of the order log (R254). -/

/-- A strong read of located pieces (R240). -/
def bulkRead (l : Loc) (pieces : List (Nat × Nat)) : M (List Byte) := do
  let g ← strongM l none false pieces ((splitPieces pieces).map Micro.read)
  return g.bytes

/-- The cells of one row's bytes, as they are handed to memory (R246): 128-byte pieces in local store, blocks in bank memory, in increasing
address order. -/
def cellPieces (l : List Host.Cell) : List (List Host.Cell) :=
  let n := if l.all (fun c => isLs c.1) then 128 else 32
  (byAddress ((dedup (l.map (fun c => c.1 / n))).map (fun b => (b, ())))).map (fun p => l.filter (fun c => c.1 / n = p.1))

/-- A strong write of pieces, in order (R246). -/
def bulkWrite (l : Loc) (parts : List (List Host.Cell)) : M Unit := do
  let _ ← strongM l none false [] (parts.map Micro.write)

/-- The range OFILL and ODRAIN move: its start and, when BL is 3, the start of its scale bytes and their count for a row (R231). -/
structure FillLoc where
  el : Loc
  scale : Loc
  perRow : Nat
deriving DecidableEq, Repr

def checkFill (p : Word) (rows rights : Nat) : M FillLoc := do
  let s ← get
  let f := formatOf (ptrFmt p)
  let e2 := decide (f = .flt .e2m1)
  let b8 : Bool := match f with
    | .flt (.b8 _ _ _) => true
    | _ => false
  if ptrBl p ≠ 0 ∧ ¬(ptrBl p = 3 ∧ (e2 ∨ b8)) then formatTrap p (ptrFmt p)
  else
    let el ← check p 0 (128 * rows) 1 rights only0
    let perRow := if ptrBl p = 0 then 0 else if e2 then 8 else 4
    let so := scaleOffset 1 e2 3 el.seg el.eo
    if perRow ≠ 0 && !s.limitOk s.clusterNo el.seg so (perRow * rows) then trap tSegLimit el.ptr
    else
      let el ← check p 0 (128 * rows) 128 rights only0
      return { el := el, scale := { seg := el.seg, eo := so, ptr := el.ptr }, perRow := perRow }

/-- The scale bytes of rows that go with a format. -/
def drainScales (perRow : Nat) : Nat → List Byte → List Byte
  | 0, _ => []
  | r + 1, b => b.take perRow ++ drainScales perRow r (b.drop 8)

/-- The one sequencer entry of OFILL or ODRAIN (R231), which is relaxed (R287) and no event of the order log (R254): queued, or performed at once
in a speculation group (log 9). Poison leaves a deferred trap and nothing else. -/
def bulkMove (ptr : Word) (op : Micro) : M Unit := do
  let s ← get
  if s.th.isIter || s.th.isGuess then do
    set (s.order s.cur op.ranges)
    let g ← performAll ptr false [op]
    if g.poison then modify (fun s => s.defer s.cur tBankPoison s.th.reportPc ptr)
  else set (s.queueAll ptr false false 0 {} [op])

/-- OFILL (R231). DESIGN CHOICE (log 42): the slot's holder is checked before the checks of R105 and R106. -/
def execOfill (n : BitVec 3) (a : BitVec 5) (r : BitVec 6) (s : State) : Host.Outcome State Fault Refusal :=
  let rows := r.toNat + 1
  finish (do
    specOldest
    needHeld n.toNat
    let l ← checkFill (s.rdS a) rows rR
    let data ← locate l.el (128 * rows) rR false
    let sc ← locate l.scale (l.perRow * rows) rR false
    specBind
    bulkMove l.el.ptr (.fill n.toNat l.perRow data sc)
    retireM) s

/-- ODRAIN (R231), with the slot's contents at issue. DESIGN CHOICE (log 42): the holder is checked first, as in OFILL. -/
def execOdrain (n : BitVec 3) (a : BitVec 5) (r : BitVec 6) (s : State) : Host.Outcome State Fault Refusal :=
  let rows := r.toNat + 1
  finish (do
    specOldest
    needHeld n.toNat
    let l ← checkFill (s.rdS a) rows rW
    specStore l.el.seg
    let data ← locate l.el (128 * rows) rW true
    let sc ← locate l.scale (l.perRow * rows) rW true
    specBind
    let s ← get
    bulkMove l.el.ptr (.drain (layOver data (s.bytes (opKey s.coreNo n.toNat 0) (128 * rows)) ++
      layOver sc (drainScales l.perRow rows (s.bytes (scaleKey s.coreNo n.toNat 0 0) (8 * rows)))))
    retireM) s

/-- SKSET (R238). -/
def execSkset (a : BitVec 5) (s : State) : Host.Outcome State Fault Refusal :=
  finish (do
    specOldest
    needHeld skUnit
    specBind
    modify (fun s => s.updCore s.coreNo (fun c => { c with u.skMask := s.rdS a, u.skPos := 0 }))
    retireM) s

/-! Multiplies. -/

/-- What an MMA type reads (Table 10-4): the number of blocks, whether it is MX, and the element codes' format; none traps ILLEGAL. -/
inductive MmaFmt where
  | int (signed : Bool)
  | flt (a b : FFmt) (mx : Bool)
  /-- A binary8 code of R27 that is reserved. -/
  | bad (code : BitVec 6)
deriving DecidableEq, Repr

/-- The format of a binary8 field (R235): code 0x20 + field. -/
def b8Field (x : BitVec 5) : BitVec 6 := 0x20#6 + x.setWidth 6

def mmaFmt (t : BitVec 4) (e g : BitVec 5) : Option MmaFmt :=
  let b8 := fun (mx : Bool) =>
    match formatOf (b8Field e), formatOf (b8Field g) with
    | .flt a, .flt b => some (.flt a b mx)
    | .flt _, _ => some (MmaFmt.bad (b8Field g))
    | _, _ => some (MmaFmt.bad (b8Field e))
  let plain := fun (f : MmaFmt) => if e = 0 ∧ g = 0 then some f else none
  match t.toNat with
  | 0 => plain (.flt .bf16 .bf16 false)
  | 1 => plain (.flt .f16 .f16 false)
  | 2 => plain (.int true)
  | 3 => plain (.int false)
  | 5 => b8 false
  | 6 => b8 true
  | 7 => plain (.flt .e2m1 .e2m1 true)
  | _ => none

/-- nb of Table 10-4. -/
def MmaFmt.nb : MmaFmt → Nat
  | .int _ => 4
  | .flt .bf16 _ _ => 2
  | .flt .f16 _ _ => 2
  | .flt .e2m1 _ _ => 8
  | .flt _ _ _ => 4
  | .bad _ => 1

/-- Elements of a row's bytes (R225, R28). -/
def rowElems (f : FFmt) : List Byte → List FV
  | [] => []
  | [b] => if f = .e2m1 then [f.value (b.toNat % 16), f.value (b.toNat / 16)] else [f.value b.toNat]
  | b :: c :: r =>
    if f = .e2m1 then f.value (b.toNat % 16) :: f.value (b.toNat / 16) :: f.value (c.toNat % 16) :: f.value (c.toNat / 16) :: rowElems f r
    else if f = .f16 ∨ f = .bf16 then f.value (b.toNat + 256 * c.toNat) :: rowElems f r
    else f.value b.toNat :: f.value c.toNat :: rowElems f r

def rowInts (signed : Bool) (l : List Byte) : List Int := l.map (fun b => if signed then b.toInt else b.toNat)

/-- A list cut into blocks of 32 (R45). -/
def blocks32 {α : Type} : Nat → List α → List (List α)
  | 0, _ => []
  | n + 1, l => l.take 32 :: blocks32 n (l.drop 32)

/-- One floating cell (R236): the kept blocks added in order. -/
def cellFlt (mx : Bool) : List Bool → List (List FV) → List (List FV) → List Nat → List Nat → Word32 → Word32 × Flags
  | keep :: ks, a :: as, b :: bs, sa, sb, c =>
    let r := if keep then accumulateBlock c (a.zip b) (if mx then some (sa.headD 0, sb.headD 0) else none) else (c, 0)
    let q := cellFlt mx ks as bs (sa.drop 1) (sb.drop 1) r.1
    (q.1, r.2 ||| q.2)
  | _, _, _, _, _, c => (c, 0)

/-- One integer cell (R46). -/
def cellInt : List Bool → List (List Int) → List (List Int) → Word32 → Word32
  | keep :: ks, a :: as, b :: bs, c => cellInt ks as bs (if keep then dotInt c (a.zip b) else c)
  | _, _, _, c => c

/-- The rows of an operand slot as bytes, and of its scale table as codes. -/
def State.opRows (s : State) (c o : Nat) : List (List Byte) :=
  (List.range 64).map (fun r => s.bytes (opKey c o (128 * r)) 128)
def State.scaleRows (s : State) (c o : Nat) : List (List Nat) :=
  (List.range 64).map (fun r => (s.bytes (scaleKey c o r 0) 8).map (fun b => b.toNat))

def State.accCell (s : State) (c acc i j : Nat) : Word32 := BitVec.ofNat 32 (s.readLE (accKey c acc i j) 4)

/-- The product of R236: core `ca` gives oA and its scale table, core `c` gives oB and the accumulator. The new cells and flags. -/
def State.product (s : State) (f : MmaFmt) (keep : List Bool) (z : Bool) (ca oA c oB acc : Nat) : List Word32 × Flags :=
  let ra := s.opRows ca oA
  let rb := s.opRows c oB
  match f with
  | .int sg =>
    let a := ra.map (fun r => blocks32 4 (rowInts sg r))
    let b := rb.map (fun r => blocks32 4 (rowInts sg r))
    (((List.range 64).zip a).flatMap (fun i => ((List.range 64).zip b).map (fun j =>
      cellInt keep i.2 j.2 (if z then 0 else s.accCell c acc i.1 j.1))), 0)
  | .flt fa fb mx =>
    let a := (ra.map (fun r => blocks32 f.nb (rowElems fa r))).zip (s.scaleRows ca oA)
    let b := (rb.map (fun r => blocks32 f.nb (rowElems fb r))).zip (s.scaleRows c oB)
    let l := ((List.range 64).zip a).flatMap (fun i => ((List.range 64).zip b).map (fun j =>
      cellFlt mx keep i.2.1 j.2.1 i.2.2 j.2.2 (if z then 0x80000000#32 else s.accCell c acc i.1 j.1)))
    (l.map (fun p => p.1), orFlagList (l.map (fun p => p.2)))
  | .bad _ => ([], 0)

/-- Every cell of an accumulator written, row by row. -/
def State.setAcc (s : State) (c acc : Nat) (cells : List Word32) : State :=
  s.setBytes (accKey c acc 0 0) (cells.flatMap (fun w => leBytes 4 w.toNat))

/-- A matrix command of a thread takes its place in the intake (R233), with what it marks (R234). -/
def State.pushIntake (s : State) (k : Nat) (q : MxCmd) : State :=
  s.updCore (coreOf k) (fun c => { c with u.intake := c.u.intake ++ [{ q with who := k, task := s.groupTask k }] })

/-- The kept blocks of a sparse multiply, and sk after it (R236, R238). -/
def Units.keep (u : Units) (nb : Nat) : List Bool := (List.range nb).map (fun b => u.skMask.getLsbD ((u.skPos + b) % 64))
def State.walkSk (s : State) (c nb : Nat) : State := s.updCore c (fun c => { c with u.skPos := (c.u.skPos + nb) % 64 })

/-- The check of R237 in one member: code, ADDR and INFO of the trap; `units` are those it must hold. -/
def State.mmaFails (s : State) (k : Nat) (f : MmaFmt) (sparse : Bool) (units : List Nat) : Option (BitVec 8 × Word × Word) :=
  match s.notHeld k units with
  | some u => some (tOperandSlot, BitVec.ofNat 64 u, 0)
  | none =>
    if sparse && !s.holds k skUnit then some (tOperandSlot, BitVec.ofNat 64 skUnit, 0)
    else match f with
      | .bad code => some (tFormat, 0, code.setWidth 64)
      | _ => none

/-- One member's product entered and its flags ORed. -/
def State.runMma (s : State) (k : Nat) (f : MmaFmt) (keep : List Bool) (z : Bool) (ca oA oB acc : Nat) : State :=
  let r := s.product f keep z ca oA (coreOf k) oB acc
  (s.setAcc (coreOf k) acc r.1).updT k (fun t => { t with r.fp := t.r.fp ||| r.2 })

/-- MMA and MMAS outside the joint form (R235 to R237). -/
def mmaM (sparse : Bool) (e g : BitVec 5) (t : BitVec 4) (z c : BitVec 1) (b a : BitVec 3) : M Unit := do
  match mmaFmt t e g with
  | none => illegal
  | some f => do
    specOldest
    let s ← get
    match s.mmaFails s.cur f sparse [8 + c.toNat, a.toNat, b.toNat] with
    | some r => throw (.trap r.1 r.2.1 r.2.2)
    | none => do
      specBind
      let s ← get
      let keep := if sparse then (s.core s.coreNo).u.keep f.nb else List.replicate f.nb true
      let s := if sparse then s.walkSk s.coreNo f.nb else s
      set ((s.runMma s.cur f keep (decide (z = 1)) s.coreNo a.toNat b.toNat c.toNat).pushIntake s.cur
        { acc := c.toNat, slots := [a.toNat, b.toNat], sk := sparse })
      retireM

/-- Whether every member of a gang has issued the joint command that has not begun (R249). -/
def State.jointIssued (s : State) (ms : List Nat) : Bool :=
  ms.all (fun m => (s.core (coreOf m)).u.intake.any (fun q => q.who = m && !q.ready))

/-- The joint command that every member has issued: its products, with the leader's oA and sk, and its readiness to start (R249). -/
def State.runJoint (s : State) (ms : List Nat) (lead : Nat) (f : MmaFmt) (sparse z : Bool) (oA oB acc : Nat) : State :=
  let keep := if sparse then (s.core lead).u.keep f.nb else List.replicate f.nb true
  let s := if sparse then s.walkSk lead f.nb else s
  ms.foldl (fun s m => (s.runMma m f keep z lead oA oB acc).updCore (coreOf m) (fun c =>
    { c with u.intake := c.u.intake.map (fun q => if q.who = m then { q with ready := true } else q) })) s

/-- The joint forms (R249). Each member issues the word; the first checks every member. When one fails no member starts: the failing ones trap
and the others disband at the joint instruction. The products are formed once every member has issued it. -/
def mmaJointM (sparse : Bool) (e g : BitVec 5) (t : BitVec 4) (z c : BitVec 1) (b a : BitVec 3) : M Unit := do
  match mmaFmt t e g with
  | none => illegal
  | some f => do
    specOldest
    let s ← get
    if s.th.en.gangN = 0 then trap tGang 0
    else
      let lead := s.th.en.leader
      let ms := gangMembers s.cur s.th.en.gangN
      let fails := ms.filterMap (fun m =>
        (s.mmaFails m f sparse (if m = lead then [8 + c.toNat, a.toNat, b.toNat] else [8 + c.toNat, b.toNat])).map (fun r => (m, r)))
      if fails ≠ [] then
        set (fails.foldl (fun s p => s.freeze p.1 p.2.1 p.2.2.1 p.2.2.2 (s.getT p.1).r.pc false false []) s)
      else do
        let s := s.pushIntake s.cur { acc := c.toNat, slots := if s.cur = lead then [a.toNat, b.toNat] else [b.toNat],
                                      sk := sparse && s.cur = lead, joint := ms.map coreOf, ready := false }
        set (if s.jointIssued ms then s.runJoint ms (coreOf lead) f sparse (decide (z = 1)) a.toNat b.toNat c.toNat else s)
        retireM

/-- MMA (R236). -/
def execMma (e g : BitVec 5) (t : BitVec 4) (z c : BitVec 1) (b a : BitVec 3) (s : State) : Host.Outcome State Fault Refusal :=
  finish (mmaM false e g t z c b a) s
/-- MMAS (R236). -/
def execMmas (e g : BitVec 5) (t : BitVec 4) (z c : BitVec 1) (b a : BitVec 3) (s : State) : Host.Outcome State Fault Refusal :=
  finish (mmaM true e g t z c b a) s
/-- MMA.J (R249). -/
def execMmaJ (e g : BitVec 5) (t : BitVec 4) (z c : BitVec 1) (b a : BitVec 3) (s : State) : Host.Outcome State Fault Refusal :=
  finish (mmaJointM false e g t z c b a) s
/-- MMAS.J (R249). -/
def execMmasJ (e g : BitVec 5) (t : BitVec 4) (z c : BitVec 1) (b a : BitVec 3) (s : State) : Host.Outcome State Fault Refusal :=
  finish (mmaJointM true e g t z c b a) s

/-! Accumulator moves. -/

/-- ACCZ (R239). -/
def execAccz (c : BitVec 1) (s : State) : Host.Outcome State Fault Refusal :=
  finish (do
    specOldest
    needHeld (8 + c.toNat)
    specBind
    modify (fun s => (s.setAcc s.coreNo c.toNat (List.replicate 4096 0)).pushIntake s.cur { acc := c.toNat })
    retireM) s

/-- ACCLD (R240): the command enters the intake once the read is done. -/
def execAccld (a : BitVec 5) (c : BitVec 1) (s : State) : Host.Outcome State Fault Refusal :=
  finish (do
    specOldest
    needHeld (8 + c.toNat)
    let l ← check (s.rdS a) 0 16384 32 rR only012
    let pieces ← locate l 16384 rR false
    specBind
    let b ← bulkRead l pieces
    modify (fun s => (s.setBytes (accKey s.coreNo c.toNat 0 0) b).pushIntake s.cur { acc := c.toNat })
    retireM) s

/-- ACCRD (R241). -/
def execAccrd (d : BitVec 5) (r : BitVec 6) (h c : BitVec 1) (s : State) : Host.Outcome State Fault Refusal :=
  finish (do
    specOldest
    needHeld (8 + c.toNat)
    specBind
    let s ← get
    setV d (BitVec.ofNat 1024 (s.readLE (accKey s.coreNo c.toNat r.toNat (32 * h.toNat)) 128))
    retireM) s

/-! ACCST. -/

/-- How ACCST treats a format (R244). -/
inductive StFmt where
  | copy
  | int (f : IFmt)
  | flt (f : FFmt)
  | bad
deriving DecidableEq, Repr

def stFmt (p : Word) : StFmt :=
  match formatOf (ptrFmt p) with
  | .bytes => .copy
  | .int .i32 => .copy
  | .int .i64 => .bad
  | .int f => .int f
  | .flt .f32 => .copy
  | .flt f => .flt f
  | .reserved => .bad

/-- Half bytes of a stored cell: w is 1/2, 1, 2 or 4 bytes (R225, R243). -/
def StFmt.nibbles : StFmt → Nat
  | .copy => 8
  | .int .i16 => 4
  | .int _ => 2
  | .flt .f16 => 4
  | .flt .bf16 => 4
  | .flt .e2m1 => 1
  | .flt _ => 2
  | .bad => 8

/-- Offset of cell (i, j) in half bytes (Table 10-5): layouts 0 ROW, 1 COL, 2 TRN, 3 SWZ. -/
def cellAt (layout pitch nib i j : Nat) : Nat :=
  match layout with
  | 0 => 2 * i * pitch + j * nib
  | 3 => (256 * (i / 4) + 16 * (j / 4) + 4 * (i % 4) + j % 4) * nib
  | _ => 2 * j * pitch + i * nib

/-- floor(log2) of a format's largest finite value (Table 02-3). -/
def FFmt.emaxStored (f : FFmt) : Int := (ilog2 (f.magValue f.maxCode).1 : Int) + (f.magValue f.maxCode).2

/-- The scale code of a block of values (R245). -/
def blockScale (f : FFmt) (l : List FV) : Nat :=
  if l.any (fun v => v = .nan) then 0xFF
  else if l.any (fun v => match v with
    | .inf _ => true
    | _ => false) then 254
  else
    let logs := l.filterMap (fun v => match v with
      | .fin _ m e => if m = 0 then none else some ((ilog2 m : Int) + e)
      | _ => none)
    match logs with
    | [] => 127
    | x :: r =>
      let k := r.foldl max x - f.emaxStored + 127
      (max 0 (min 254 k)).toNat

/-- One element of a scaled block (R245): exact scaling, one rounding; a finite overflow clamps, an infinity follows SAT, and so does a negative
value for an unsigned format, which does not overflow (Table 02-7). -/
def scaledElem (f : FFmt) (mode : Nat) (sat : Bool) (seed : Word) (k : Nat) (v : FV) : (Nat × Flags) × Word :=
  if k = 0xFF then ((f.signedCode false 0, 0), seed)
  else match v with
    | .inf _ => convertStep f mode sat seed v
    | .fin true (_ + 1) _ => convertStep f mode (sat || f.signed) seed (v.scale (127 - (k : Int)))
    | _ => convertStep f mode true seed (v.scale (127 - (k : Int)))

/-- Cells converted in row-major order, the generator stepping through them (R41, R244). -/
def stepCells (step : Nat → Nat → Word → (Nat × Flags) × Word) : List (Nat × Nat) → Word → List ((Nat × Nat) × Nat) × Flags × Word
  | [], seed => ([], 0, seed)
  | (i, j) :: r, seed =>
    let x := step i j seed
    let q := stepCells step r x.2
    (((i, j), x.1.1) :: q.1, x.1.2 ||| q.2.1, q.2.2)

def allCells : List (Nat × Nat) := (List.range 64).flatMap (fun i => (List.range 64).map (fun j => (i, j)))

/-- Half-byte codes at offsets as bytes at offsets: two codes share a byte (R28). -/
def pairNibbles (l : List (Nat × Nat)) : List (Nat × Byte) :=
  (l.filter (fun p => p.1 % 2 = 0)).map (fun p =>
    (p.1 / 2, BitVec.ofNat 8 (p.2 + 16 * ((l.find? (fun q => q.1 = p.1 + 1)).map (fun q => q.2)).getD 0)))

/-- The bytes of one stored line of half-byte codes, whose offsets rise by one. -/
def lineNibbles : List (Nat × Nat) → List (Nat × Byte)
  | p :: q :: r => (p.1 / 2, BitVec.ofNat 8 (p.2 + 16 * q.2)) :: lineNibbles r
  | l => pairNibbles l

/-- A byte of an offset as a cell of memory. -/
def codeBytes (nib off code : Nat) : List (Nat × Byte) :=
  (List.range (nib / 2)).map (fun k => (off / 2 + k, BitVec.ofNat 8 (code / 256 ^ k)))

/-- The stored bytes of converted cells, by offset. In COL and TRN the cells that share a byte are neighbours in a column. -/
def storedBytes (layout pitch nib : Nat) (codes : List ((Nat × Nat) × Nat)) : List (Nat × Byte) :=
  if nib = 1 then
    let l := if layout = 1 ∨ layout = 2 then
        (List.range 64).flatMap (fun j => codes.filter (fun c => c.1.2 = j))
      else codes
    lineNibbles (l.map (fun c => (cellAt layout pitch nib c.1.1 c.1.2, c.2)))
  else codes.flatMap (fun c => codeBytes nib (cellAt layout pitch nib c.1.1 c.1.2) c.2)

/-- Keys of bytes at offsets from a located start: spaces 0 to 2 are contiguous. -/
def offCells (base : Nat) (l : List (Nat × Byte)) : List Host.Cell := l.map (fun p => (base + p.1, p.2))

/-- The block of a cell when BL is 3 (Table 10-5): along j in ROW, along i in TRN, named by its first cell. -/
def blockFirst (layout i j : Nat) : Nat × Nat := if layout = 2 then (i - i % 32, j) else (i, j - j % 32)
def blockCells (layout : Nat) (p : Nat × Nat) : List (Nat × Nat) :=
  (List.range 32).map (fun n => if layout = 2 then (p.1 + n, p.2) else (p.1, p.2 + n))
def allBlocks (layout : Nat) : List (Nat × Nat) :=
  (List.range 64).flatMap (fun n => [0, 32].map (fun m => if layout = 2 then (m, n) else (n, m)))

/-- The stored bytes of accumulator row `i` (R246): those whose last cell lies in it. -/
def rowBytes (layout pitch nib i : Nat) (codes : List ((Nat × Nat) × Nat)) : List (Nat × Byte) :=
  let row := fun (i : Nat) => (codes.drop (64 * i)).take 64
  if nib = 1 ∧ (layout = 1 ∨ layout = 2) then (if i % 2 = 0 then [] else storedBytes layout pitch nib (row (i - 1) ++ row i))
  else storedBytes layout pitch nib (row i)

/-- The blocks whose scale byte follows row `i` (R246): those whose last cell lies in it. -/
def rowBlocks (layout i : Nat) : List (Nat × Nat) :=
  if layout = 2 then (if i % 32 = 31 then (List.range 64).map (fun j => (i - 31, j)) else []) else [(i, 0), (i, 32)]

/-- ACCST waits in the intake for its start, with its thread parked (R233, R246). -/
def stored (p : Word) (acc : Nat) : M Unit := do
  match ← nextGot with
  | some _ => pure ()
  | none => do
    let s ← get
    let n := (s.core s.coreNo).reqNo + 1
    let s := (s.pushIntake s.cur { acc := acc, store := true }).updCore s.coreNo (fun x => { x with reqNo := n })
    set { s with th.w.acc := { s.th.w.acc with no := n, due := 0, want := [], cells := [], got := {}, ptr := p } }
    parkM .access

/-- ACCST (R242 to R246). -/
def execAccst (d a : BitVec 5) (z : BitVec 1) (r l : BitVec 3) (c : BitVec 1) (s : State) : Host.Outcome State Fault Refusal :=
  finish (do
    need (decide (l.toNat < 4) && rmConvOk r && (l ≠ 3 || d = 0))
    specOldest
    needHeld (8 + c.toNat)
    let s ← get
    let p := s.rdS a
    let f := stFmt p
    let plain : Bool := match f with
      | .copy => true
      | .int _ => true
      | _ => false
    need (!plain || (r = 0 && z = 0))
    let mx := decide (ptrBl p = 3)
    let scaled : Bool := match f with
      | .flt .e2m1 => true
      | .flt (.b8 _ _ _) => true
      | _ => false
    if f = .bad ∨ (ptrBl p ≠ 0 ∧ ¬(mx ∧ scaled ∧ (l = 0 ∨ l = 2))) then formatTrap p (ptrFmt p)
    else
      let nib := f.nibbles
      let g := s.th.r.rdG (ptrSeg p)
      let eo := ptrOff p
      if segRights g &&& rW ≠ rW ∨ only012 (segSpace g) = false then trap tSegRights p
      else
        let sp := (s.rdS d).toNat
        let pitch := if l = 3 ∨ sp = 0 then 32 * nib else sp
        if pitch % 32 ≠ 0 ∨ pitch < 32 * nib then trap tMisalign p
        else
          let n := if l = 3 then 2048 * nib else 63 * pitch + 32 * nib
          let scaleOf := fun (b : Nat × Nat) => scaleOffset 1 (decide (nib = 1)) 3 g (eo + cellAt l.toNat pitch nib b.1 b.2 / 2)
          if !s.limitOk s.clusterNo g eo n ∨ (mx ∧ (allBlocks l.toNat).any (fun b => !s.limitOk s.clusterNo g (scaleOf b) 1)) then
            trap tSegLimit p
          else if eo % 32 ≠ 0 then trap tMisalign p
          else do
            specStore g
            let loc : Loc := { seg := g, eo := eo, ptr := p }
            let el ← locate loc n rW true
            let sc ← locate { loc with eo := 0 } 1 rW true
            specBind
            let s ← get
            let core := s.coreNo
            let rows := (List.range 64).map (fun i => (List.range 64).map (fun j => s.accCell core c.toNat i j))
            let cell := fun (i j : Nat) => ((rows.drop i).headD []).drop j |>.headD 0
            let mode := s.convMode r
            let scales := (allBlocks l.toNat).map (fun b =>
              (b, match f with
                | .flt g => blockScale g ((blockCells l.toNat b).map (fun x => f32 (cell x.1 x.2)))
                | _ => 127))
            let scaleAt := fun (i j : Nat) => ((scales.find? (fun x => x.1 = blockFirst l.toNat i j)).map (fun x => x.2)).getD 127
            let step := fun (i j : Nat) (seed : Word) =>
              match f with
              | .flt g =>
                if mx then scaledElem g mode (decide (z = 1)) seed (scaleAt i j) (f32 (cell i j))
                else convertStep g mode (decide (z = 1)) seed (f32 (cell i j))
              | .int g => (((g.clamp (cell i j).toInt % 2 ^ 32).toNat, 0), seed)
              | _ => (((cell i j).toNat, 0), seed)
            let q := stepCells step allCells s.th.r.seed
            let base := (el.headD (0, 0)).1
            let sbase := (sc.headD (0, 0)).1
            stored p c.toNat
            bulkWrite loc ((List.range 64).flatMap (fun i =>
              cellPieces (offCells base (rowBytes l.toNat pitch nib i q.1)) ++
              cellPieces (if mx then (rowBlocks l.toNat i).map (fun b => (sbase + scaleOf b, BitVec.ofNat 8 (scaleAt b.1 b.2))) else [])))
            orFlagsM q.2.1
            modify (fun s => { s with th.r.seed := q.2.2 })
            retireM) s

/-! Gangs. -/

/-- GANG's wait of a parked slot. -/
def State.gangWait (s : State) (k : Nat) : Option Nat :=
  match (s.getT k).w.park with
  | .gang n => if (s.getT k).st = .parked then some n else none
  | _ => none

/-- GANG (R247): the launch must declare a co-resident GANG level of this width. -/
def execGang (n : BitVec 8) (s : State) : Host.Outcome State Fault Refusal :=
  finish (do
    need (n = 2 || n = 4 || n = 8)
    notHandler
    if s.th.sp.act ∨ s.th.sp.role ≠ .none then specTrap
    let declared := (s.launchOf s.cur).levels.any (fun l => l.domain = 7 && l.cores && l.width = n.toNat)
    if s.th.en.gangN ≠ 0 ∨ declared = false then trap tGang 0
    else
      let mine := gangMembers s.cur n.toNat
      let others := (s.threadKeys.filter (fun k => k ≠ s.cur)).filterMap (fun k =>
        (s.gangWait k).bind (fun m => if mine.contains k ∨ (gangMembers k m).contains s.cur then some (k, m) else none))
      if others.any (fun p => p.2 ≠ n.toNat) then do
        set (others.foldl (fun s p => s.freeze p.1 tGang 0 0 (s.getT p.1).r.pc false false []) s)
        trap tGang 0
      else parkM (.gang n.toNat)) s

/-- UNGANG (R250): the gang disbands when its last member has issued it, so every member goes on after it. -/
def execUngang (s : State) : Host.Outcome State Fault Refusal :=
  finish (do
    specOldest
    if s.th.en.gangN = 0 then trap tGang 0
    else do
      let s := s.retire
      let waiting := (gangMembers s.cur s.th.en.gangN).any (fun m => m ≠ s.cur && (s.getT m).is.delivered.isSome)
      set (if waiting then s else s.disbandGang s.cur)) s

end Sys2Proof.Machine
end

