-- ==== Sys2Proof/Machine/Engines.lean ====
section
/-! DEFINITION. Engine commands (11, R268 to R283; 06, R151): their layouts and checks at the fourth EPUSH, the chunks of a copy, the
lookups of a gather, an append, and the counts on a sync word. A command has at most one started chunk at a time, which is read and then
written one 32-byte block at a time. -/

namespace Sys2Proof.Machine

/-! Fields. -/

def Cmd.beat (c : Cmd) (i : Nat) : BitVec 128 := (c.beats.drop i).headD 0
/-- Bits of a beat. -/
def Cmd.bits (c : Cmd) (i lo n : Nat) : Nat := (c.beat i).toNat / 2 ^ lo % 2 ^ n
/-- A pointer in the low or high half of a beat. -/
def Cmd.lowPtr (c : Cmd) (i : Nat) : Word := (c.beat i).setWidth 64
def Cmd.highPtr (c : Cmd) (i : Nat) : Word := ((c.beat i) >>> 64).setWidth 64

def Cmd.kind (c : Cmd) : Nat := c.bits 0 0 4
def Cmd.tag (c : Cmd) : Nat := c.bits 0 8 8
def Cmd.named (c : Cmd) : Bool := c.bits 0 16 1 = 1
def Cmd.sat (c : Cmd) : Bool := c.bits 0 17 1 = 1
def Cmd.cvt (c : Cmd) : Bool := c.bits 0 18 1 = 1
def Cmd.trn (c : Cmd) : Bool := c.bits 0 19 1 = 1
def Cmd.osl (c : Cmd) : Bool := c.bits 0 20 1 = 1
def Cmd.dm1 (c : Cmd) : Nat := c.bits 0 21 2
def Cmd.start (c : Cmd) : Nat := c.bits 0 24 20

def sext32i (x : Nat) : Int := (BitVec.ofNat 32 x).toInt

/-- A dimension (Table 11-11). -/
structure Dim where
  ss : Int
  ds : Int
  ext : Nat
  bnd : Nat
  pb : Nat
  pa : Nat
deriving DecidableEq, Repr

def dimOf (v : BitVec 128) : Dim :=
  let x := v.toNat
  { ss := sext32i (x % 2 ^ 32), ds := sext32i (x / 2 ^ 32 % 2 ^ 32), ext := x / 2 ^ 64 % 2 ^ 20, bnd := x / 2 ^ 84 % 2 ^ 20,
    pb := x / 2 ^ 104 % 2 ^ 12, pa := x / 2 ^ 116 }

def Dim.dext (d : Dim) : Nat := d.pb + d.ext + d.pa

def Cmd.srcFmt (c : Cmd) : Format := formatOf (ptrFmt (c.lowPtr 1))
def Cmd.dstFmt (c : Cmd) : Format := formatOf (ptrFmt (c.highPtr 1))
/-- Element sizes of a copy (R275). -/
def Cmd.ws (c : Cmd) : Nat := c.srcFmt.size
def Cmd.wd (c : Cmd) : Nat := if c.cvt then c.dstFmt.size else c.ws

/-- The four dimensions of a copy, with the strides TRN sets (R275). -/
def Cmd.shape (c : Cmd) : List Dim :=
  let one : Dim := { ss := 0, ds := 0, ext := 1, bnd := 1, pb := 0, pa := 0 }
  let l := ((dimOf (c.beat 3) :: c.dims.map dimOf) ++ [one, one, one]).take 4
  if c.trn then
    match l with
    | d0 :: d1 :: r => { d0 with ds := c.wd * d1.dext } :: { d1 with ds := c.wd } :: r
    | l => l
  else l

def Cmd.total (c : Cmd) : Nat := (c.shape.map Dim.dext).foldl (· * ·) 1
/-- Chunks of a copy, and the bytes of one (R277). -/
def Cmd.chunks (c : Cmd) : Nat := (c.total * c.wd + 2047) / 2048
def Cmd.chunkBytes (c : Cmd) (n : Nat) : Nat := min 2048 (c.total * c.wd - 2048 * n)

/-- A position of a copy: in bounds or not, source and destination offset from their pointers (R275). -/
def posOf (trn : Bool) (dims : List Dim) (p : Nat) : Bool × Int × Int :=
  let order := if trn then (match dims with
    | d0 :: d1 :: r => d1 :: d0 :: r
    | l => l) else dims
  let r := order.foldl (fun (acc : Nat × Bool × Int × Int) d =>
    let j := acc.1 % d.dext
    let i : Int := (j : Int) - d.pb
    (acc.1 / d.dext, acc.2.1 && decide (0 ≤ i) && decide (i < d.ext) && decide (i < d.bnd),
      acc.2.2.1 + i * d.ss, acc.2.2.2 + j * d.ds)) (p, true, 0, 0)
  r.2

/-- The positions of a chunk. -/
def Cmd.positions (c : Cmd) (n : Nat) : List (Bool × Int × Int) :=
  let per := 2048 / c.wd
  let dims := c.shape
  (List.range (min per (c.total - per * n))).map (fun k => posOf c.trn dims (per * n + k))

/-- GATHER and APPEND (R280, R281). -/
def Cmd.nidx (c : Cmd) : Nat := c.bits 0 24 5 + 1
def Cmd.inv (c : Cmd) : Bool := c.bits 0 29 1 = 1
def Cmd.nstart (c : Cmd) : Nat := c.bits 0 32 5
def Cmd.rowBytes (c : Cmd) : Nat := c.bits 3 64 16
def Cmd.nblk (c : Cmd) : Nat := c.bits 3 80 32
def Cmd.bb (c : Cmd) : Nat := 16 * c.rowBytes
def Cmd.tpos (c : Cmd) : Nat := c.bits 0 32 32

/-- A2A (R282). -/
def Cmd.ranks (c : Cmd) : Nat := c.bits 0 24 8 + 1
def Cmd.rank (c : Cmd) : Nat := c.bits 0 32 8
def Cmd.cid (c : Cmd) : Nat := c.bits 0 40 16
def Cmd.blockBytes (c : Cmd) : Nat := c.bits 3 0 32
def Cmd.srcStride (c : Cmd) : Int := sext32i (c.bits 3 32 32)
def Cmd.dstStride (c : Cmd) : Int := sext32i (c.bits 3 64 32)

def Cmd.core (c : Cmd) : Nat := coreOf c.thread
def Cmd.vf (c : Cmd) : Nat := taskVf c.task
def Cmd.seg (c : Cmd) (p : Word) : BitVec 256 := SMap.get 0 c.segs (ptrSeg p)

/-! Checks at the fourth EPUSH (R270, R273 to R276). -/

abbrev Chk := Except (BitVec 8 × Word × Word)

def engSpace (sp : Nat) : Bool := sp ≤ 6
def dstSpace (sp : Nat) : Bool := sp ≤ 4 || sp = 6

def engineTrap {α : Type} (port : Nat) : Chk α := .error (tEngine, BitVec.ofNat 64 port, 0)

/-- The limit, rights and alignment of `n` bytes from an offset of a pointer (R276). -/
def State.checkPtr (s : State) (c : Cmd) (p : Word) (lo : Int) (n align rights : Nat) (space : Nat → Bool) : Chk Unit :=
  let g := c.seg p
  match s.checkSeg (clusterOf c.core) c.vf g (ptrOff p + lo) n align rights (space (segSpace g)) with
  | some code => .error (code, ptrWith p (ptrOff p + lo), 0)
  | none => .ok ()

/-- The span of strided elements: lowest offset and length (R276). -/
def spanOf (l : List (Nat × Int)) (w : Nat) : Int × Nat :=
  let lo := (l.map (fun p => min 0 (((p.1 : Int) - 1) * p.2))).foldl (· + ·) 0
  let hi := (l.map (fun p => max 0 (((p.1 : Int) - 1) * p.2))).foldl (· + ·) 0
  (lo, (hi - lo).toNat + w)

def Format.isInt : Format → Bool
  | .int _ => true
  | _ => false

def Format.isB8 : Format → Bool
  | .flt (.b8 _ _ _) => true
  | _ => false

/-- Whether a conversion's formats are allowed (R275). -/
def Cmd.cvtOk (c : Cmd) : Bool :=
  c.srcFmt ≠ .bytes && c.dstFmt ≠ .bytes && c.srcFmt ≠ .flt .e2m1 && c.dstFmt ≠ .flt .e2m1 && ptrBl (c.highPtr 1) = 0

/-- The sync word a command names (R147, R276). -/
def State.syncKey (s : State) (c : Cmd) : Option Nat :=
  if c.named then
    match s.resolveSync c.core c.vf (c.seg (c.lowPtr 2)) (c.lowPtr 2) with
    | .ok k => some k
    | .error _ => none
  else none

def State.checkSync (s : State) (c : Cmd) : Chk Unit :=
  if c.named then
    match s.resolveSync c.core c.vf (c.seg (c.lowPtr 2)) (c.lowPtr 2) with
    | .ok _ => .ok ()
    | .error code => .error (code, c.lowPtr 2, 0)
  else .ok ()

def formatErr {α : Type} (p : Word) : Chk α := .error (tFormat, p, (ptrFmt p).setWidth 64)

/-- The checks of a COPY that come before its dimensions are read (R274 to R276). -/
def State.checkCopyHead (s : State) (c : Cmd) : Chk Unit := do
  if c.bits 0 44 20 ≠ 0 ∨ (c.trn ∧ c.dm1 = 0) then engineTrap 0
  if c.srcFmt = .reserved then formatErr (c.lowPtr 1)
  if c.cvt then
    if c.dstFmt = .reserved then formatErr (c.highPtr 1)
    if !c.cvtOk then engineTrap 0
    if ptrBl (c.lowPtr 1) ≠ 0 ∧ c.srcFmt.isInt then formatErr (c.lowPtr 1)
  let shp := c.highPtr 2
  if c.dm1 ≠ 0 then s.checkPtr c shp 0 (16 * c.dm1) 1 rR only0

/-- Where a COPY's further dimensions lie (R274). -/
def Cmd.dimsKey (c : Cmd) : Nat := lsKey c.core (segBase (c.seg (c.highPtr 2)) + ptrOff (c.highPtr 2))

/-- A COPY checked (R274 to R276): the command with its further dimensions. -/
def State.checkCopy (s : State) (c : Cmd) : Chk Cmd := do
  s.checkCopyHead c
  let shp := c.highPtr 2
  let at0 := c.dimsKey
  if c.dm1 ≠ 0 ∧ (s.poisonedAt at0 (16 * c.dm1)).isSome then .error (tBankPoison, shp, 0)
  let c := { c with dims := (List.range c.dm1).map (fun i => BitVec.ofNat 128 (s.readLE (at0 + 16 * i) 16)) }
  let dims := c.shape
  if dims.any (fun d => d.ext = 0) then engineTrap 0
  let lim := dims.map (fun d => (min d.ext d.bnd, d.ss))
  if lim.any (fun p => p.1 = 0) then
    let g := c.seg (c.lowPtr 1)
    if segRights g &&& rR = 0 ∨ !engSpace (segSpace g) ∨ !s.lregionOk c.vf g then .error (tSegRights, c.lowPtr 1, 0)
  else
    let sp := spanOf lim c.ws
    s.checkPtr c (c.lowPtr 1) sp.1 sp.2 1 rR engSpace
    if c.cvt ∧ ptrBl (c.lowPtr 1) ≠ 0 then
      let g := c.seg (c.lowPtr 1)
      let place := fun (o : Int) => scaleOffset c.ws false (ptrBl (c.lowPtr 1)) g (ptrOff (c.lowPtr 1) + o).toNat
      let lo := place sp.1
      let hi := place (sp.1 + sp.2 - c.ws)
      if !s.limitOk (clusterOf c.core) g lo (hi - lo + 1) then .error (tSegLimit, c.lowPtr 1, 0)
  let dsp := spanOf (dims.map (fun d => (d.dext, d.ds))) c.wd
  let dp := c.highPtr 1
  if c.osl then
    let x := dp.toNat
    if x ≠ x % 8 + x / 2 ^ 16 % 2 ^ 13 * 2 ^ 16 then engineTrap 0
    if !s.holds c.thread (x % 8) then .error (tOperandSlot, BitVec.ofNat 64 (x % 8), 0)
    let o : Int := ((x / 2 ^ 16 % 2 ^ 13 : Nat) : Int) + dsp.1
    if o < 0 ∨ 8192 < o + dsp.2 then engineTrap 0
  else s.checkPtr c dp dsp.1 dsp.2 1 rW dstSpace
  s.checkSync c
  return { c with next := c.start, done := c.start }

/-- Beat 3 of GATHER and APPEND, and the base checks of TABP and POOLP (R280, R281). -/
def State.checkPool (s : State) (c : Cmd) (tabp : Word) (poolRights : Nat) : Chk Unit := do
  if c.bits 3 112 16 ≠ 0 ∨ c.rowBytes % 32 ≠ 0 ∨ c.rowBytes = 0 ∨ 4096 < c.rowBytes then engineTrap 1
  s.checkPtr c tabp 0 1 1 rR engSpace
  s.checkPtr c (c.lowPtr 3) 0 1 1 poolRights (if poolRights = rR then engSpace else dstSpace)

/-- A GATHER checked (R280). -/
def State.checkGather (s : State) (c : Cmd) : Chk Cmd := do
  if c.bits 0 17 7 ≠ 0 ∨ c.bits 0 30 2 ≠ 0 ∨ c.bits 0 37 27 ≠ 0 then engineTrap 1
  s.checkPtr c (c.lowPtr 1) 0 (4 * c.nidx) 1 rR only0
  s.checkPool c (c.highPtr 1) rR
  s.checkPtr c (c.highPtr 2) 0 (c.nidx * c.bb) 1 rW dstSpace
  s.checkSync c
  return { c with index := c.nstart, done := c.nstart }

/-- An APPEND checked (R281). -/
def State.checkAppend (s : State) (c : Cmd) : Chk Cmd := do
  if c.bits 0 17 7 ≠ 0 ∨ c.bits 0 24 8 ≠ 0 ∨ c.highPtr 2 ≠ 0 then engineTrap 1
  if !(c.srcFmt = .flt .f32 || c.srcFmt = .flt .f16 || c.srcFmt = .flt .bf16 || c.srcFmt.isB8) then formatErr (c.lowPtr 1)
  s.checkPtr c (c.lowPtr 1) 0 c.rowBytes 1 rR engSpace
  s.checkPool c (c.highPtr 1) (rR + rW)
  s.checkPtr c (c.highPtr 0) 0 1 1 (rR + rW) dstSpace
  s.checkSync c
  return c

/-- An A2A checked (R282). -/
def State.checkA2A (s : State) (c : Cmd) : Chk Cmd := do
  if c.bits 0 17 7 ≠ 0 ∨ c.bits 0 56 8 ≠ 0 ∨ c.highPtr 0 ≠ 0 ∨ c.ranks < 2 ∨ c.ranks ≤ c.rank ∨ c.bits 3 96 32 ≠ 0 ∨ c.blockBytes % 64 ≠ 0 then
    engineTrap 2
  let sp := spanOf [(c.ranks, c.srcStride)] c.blockBytes
  s.checkPtr c (c.lowPtr 1) sp.1 sp.2 1 rR engSpace
  let dp := spanOf [(c.ranks, c.dstStride)] c.blockBytes
  s.checkPtr c (c.highPtr 1) dp.1 dp.2 1 rW dstSpace
  s.checkPtr c (c.highPtr 2) 0 (4 * c.ranks) 1 rR only0
  s.checkSync c
  return c

/-- The command of four beats, as pushed by a thread. -/
def State.newCmd (s : State) (k port : Nat) (beats : List (BitVec 128)) : Cmd :=
  let t := s.getT k
  { thread := k, task := s.groupTask k, port := port, beats := beats, quiet := SMap.get false t.en.quiet port, segs := t.r.g,
    uid := (s.core (coreOf k)).u.cmdNo }

/-- The read of a COPY's further dimensions at the push meets the errors of their words (R132, R274). -/
def State.readDims (s : State) (c : Cmd) : State :=
  if c.port = 0 ∧ c.bits 0 4 4 = 0 ∧ c.bits 0 23 1 = 0 ∧ c.kind = 1 ∧ c.dm1 ≠ 0 ∧ (s.checkCopyHead c).isOk then
    s.readErrors c.task [(c.dimsKey, 16 * c.dm1)]
  else s

/-- A command of a thread's four beats, checked (R270, R273, R276): port 3 takes every KIND unchecked (R283). -/
def State.makeCmd (s : State) (k port : Nat) (beats : List (BitVec 128)) : Chk Cmd :=
  let c := s.newCmd k port beats
  if port = 3 then .ok c
  else if c.bits 0 4 4 ≠ 0 ∨ c.bits 0 23 1 ≠ 0 then engineTrap port
  else if c.kind = 1 ∧ port = 0 then s.checkCopy c
  else if c.kind = 2 ∧ port = 1 then s.checkGather c
  else if c.kind = 3 ∧ port = 1 then s.checkAppend c
  else if c.kind = 4 ∧ port = 2 then s.checkA2A c
  else engineTrap port

/-- FIFO room for a command and a result element to reserve (R270). -/
def State.portRoom (s : State) (core port : Nat) : Bool :=
  let u := (s.core core).u
  (SMap.get [] u.fifoIn port).length < 4 && SMap.get 0 u.rsv port < 16

/-- A checked command moves into the input FIFO and reserves a result element (R268). -/
def State.enterCmd (s : State) (core port : Nat) (c : Cmd) : State :=
  s.updCore core (fun x =>
    { x with
      u.fifoIn := SMap.set [] x.u.fifoIn port (SMap.get [] x.u.fifoIn port ++ [c])
      u.rsv := SMap.set 0 x.u.rsv port (SMap.get 0 x.u.rsv port + 1)
      u.cmdNo := x.u.cmdNo + 1 })

/-! What an engine reads and writes. -/

/-- Where `n` bytes at an offset of a segment lie for an engine (R276, R278, R410, R412): keys and lengths, or the status that ends the command. A
page fault sends its request and waits for nothing. -/
def State.engineKeys (s : State) (c : Cmd) (g : BitVec 256) (off : Int) (n : Nat) (write : Bool) : State × Except Nat (List (Nat × Nat)) :=
  let own := clusterOf c.core
  let marked := fun (r : Nat) (a : Nat) (p : State × Except Nat (List (Nat × Nat))) =>
    if write then (p.1.markSpan s r ((pagePieces a n).map (fun q => q.1)), p.2) else p
  let paged := fun (r : Nat) (a : Nat) => marked r a <|
    (pagePieces a n).foldl (fun (acc : State × Except Nat (List (Nat × Nat))) q =>
      match acc with
      | (s, .error e) => (s, .error e)
      | (s, .ok l) =>
        match s.translate r q.1 write with
        | (s, .ok pa) => (s, .ok (l ++ [(hbmKey pa, q.2)]))
        | (s, .fatal) => (s, .error 3)
        | (s, .refused) => (s, .error 3)
        | (s, .gone) => (s, .error 6)
        | (s, .fault) =>
          (s.requestPage r { task := c.task, core := c.core, slot := slotOf c.thread, dva := q.1, kind := 3 }, .error 1)) (s, .ok [])
  if !s.limitOk own g off n then (s, .error 3)
  else
    let a := segBase g + off.toNat
    match segSpace g with
    | 0 => (s, .ok [(lsKey c.core a, n)])
    | 1 => (s, .ok [(bankKey own a, n)])
    | 2 => (s, .ok [(bankKey (own - own % 4 + segCluster g) a, n)])
    | 3 => paged (regionOf c.core) a
    | 4 =>
      match s.regEntry c.vf (segLregion g) with
      | none => (s, .error 3)
      | some (r, _) =>
        if (s.region r).own.phase ≠ 0 ∨ (s.region r).own.gate = false then (s, .error 6)
        else match s.windowCheck r c.vf (segWindow g) a n (if write then rW else rR) with
          | some code => (s, .error (if code = tRegionGone then 6 else 3))
          | none => paged r a
    | 5 =>
      match s.regEntry c.vf (segLregion g) with
      | some (r, false) =>
        if (s.region r).own.phase ≠ 0 ∨ (s.region r).own.gate = false then (s, .error 6)
        else if ¬((s.region r).own.assigned = true ∧ (s.region r).own.vf = c.vf) then (s, .error 3)
        else (s, .ok [(lsKey (256 * r + segCore g) a, n)])
      | _ => (s, .error 3)
    | _ => (s, .ok [(hostKey (a % 2 ^ 56), n)])

/-- What an action of an engine gives: it is done, it must wait, or it ends the command with a status (Table 11-9). -/
inductive EngRes (α : Type) where
  | ok (s : State) (a : α)
  | wait (s : State)
  | stop (s : State) (status : Nat)

def EngRes.bind {α β : Type} (r : EngRes α) (f : State → α → EngRes β) : EngRes β :=
  match r with
  | .ok s a => f s a
  | .wait s => .wait s
  | .stop s x => .stop s x

/-- The lane on which an engine meets a block of bank memory in the current cycle, one that has not served an engine in it (R168, R169): of the
pushing core's cluster, while the far port belongs to the copy engines; any lane, while it belongs to the fabric port, for the collective
engine. -/
def State.laneFor (s : State) (c : Cmd) (key : Nat) : Option Nat :=
  let k := keyCluster key
  let g := s.region (k / 4)
  let w := g.wheelAt g.clock
  let fabric := decide (c.kind = 4 ∨ clusterOf c.core / 4 ≠ k / 4)
  if w.owner (g.clock / w.pi % w.po) (k % 4) ≠ (if fabric then 6 else 4) then none
  else (if fabric then List.range 64 else (List.range 16).map (fun i => 16 * (clusterOf c.core % 4) + i)).find? (fun l =>
    w.bank (k % 4) (g.clock % w.pi) l = (s.cluster k).home (key % 2 ^ 23) && !(g.laneAt = g.clock && g.lanes.contains (64 * (k % 4) + l)))

/-- An engine reaches a block: in bank memory when one of its lanes meets the block's bank (R169), in local store after the earlier entries of
the sequencer (R126). -/
def State.reach (s : State) (c : Cmd) (key : Nat) : Option State :=
  if isBank key then
    let s := s.forEach (s.queuedCores (keyCluster key / 4)) execWheelMeeting
    (s.laneFor c key).map (fun l => s.updRegion (keyCluster key / 4) (fun g =>
      { g with laneAt := g.clock, lanes := (if g.laneAt = g.clock then g.lanes else []) ++ [64 * (keyCluster key % 4) + l] }))
  else if isLs key then some (s.drainSeq (key / 2 ^ 18))
  else some s

/-- An event of the order log that an engine causes for its command's task (R154, Table 16-4). One that must wait leaves the action undone, in
the state `s0` from before it; a divergence leaves a deferred trap (R351). -/
def State.engineEvent (s s0 : State) (c : Cmd) (key kind : Nat) (digest : Word32 × Bool) (aux : Nat) (lseg : Bool) : EngRes Unit :=
  let r := keyRegion key (regionOf c.core)
  match s.event r c.thread { kind := kind, task := c.task, object := keyObject key, digest := digest.1, wide := digest.2,
                             aux := BitVec.ofNat 32 aux, lseg := lseg, async := true, remote := r ≠ regionOf c.core } with
  | .perform s => .ok s ()
  | .wait => .wait s0
  | .diverge s o rep =>
    .wait (if s.runs c.thread c.task then s.updT c.thread (fun t =>
      { t with is.deferred := t.is.deferred ++ [{ code := tDiverge, pc := t.r.pc, ptr := o, report := rep }] }) else s)

def loggedSeg (g : BitVec 256) : Bool := segRights g &&& rL ≠ 0

/-- A few bytes of local store read at once by an engine (R280, R282); a poisoned word ends the command with status 2 (R278). -/
def State.engineGet (s : State) (c : Cmd) (p : Word) (off : Int) (n : Nat) : EngRes (List Byte) :=
  match s.engineKeys c (c.seg p) (ptrOff p + off) n false with
  | (t, .error x) => .stop t x
  | (t, .ok l) =>
    let t := t.drainSeq c.core
    let t := t.readErrors c.task l
    if l.any (fun q => (t.poisonedAt q.1 q.2).isSome) then .stop t 2
    else if loggedSeg (c.seg p) then
      (t.engineEvent s c (firstKey l) 2 (valueDigest (t.piecesBytes l)) 0xFF true).bind (fun u _ => .ok u (u.piecesBytes l))
    else .ok t (t.piecesBytes l)

/-- The cells of bytes an engine will write. -/
def State.engineCells (s : State) (c : Cmd) (p : Word) (off : Int) (b : List Byte) : State × Except Nat (List Host.Cell) :=
  match s.engineKeys c (c.seg p) (ptrOff p + off) b.length true with
  | (s, .error e) => (s, .error e)
  | (s, .ok l) => (s, .ok (layOver l b))

/-- The pieces of ranges, each an offset from a pointer and a length, that an engine will read. -/
def State.planReads (c : Cmd) (p : Word) : List (Int × Nat) → State → State × Except Nat (List (Nat × Nat))
  | [], s => (s, .ok [])
  | q :: r, s =>
    match s.engineKeys c (c.seg p) (ptrOff p + q.1) q.2 false with
    | (s, .error x) => (s, .error x)
    | (s, .ok l) =>
      match State.planReads c p r s with
      | (s, .error x) => (s, .error x)
      | (s, .ok m) => (s, .ok (l ++ m))

/-! Blocks of a chunk. -/

/-- The parts of pieces that lie in a 32-byte block. -/
def inBlock (b : Nat) (l : List (Nat × Nat)) : List (Nat × Nat) :=
  l.filterMap (fun p =>
    let lo := max p.1 b
    let hi := min (p.1 + p.2) (b + 32)
    if lo < hi then some (lo, hi - lo) else none)

def blockKeys (l : List (Nat × Nat)) : List Nat := (blocksOf l).map (fun b => b.1)

/-- A chunk that reads pieces; those of `logged` segments are events. -/
def Chunk.reading (ch : Chunk) (want logged : List (Nat × Nat)) : Chunk :=
  { ch with phase := 2, want := want, left := blockKeys want, got := [], logR := blockKeys logged }

/-- A chunk that writes cells. -/
def Chunk.writing (ch : Chunk) (cells logged : List Host.Cell) : Chunk :=
  { ch with phase := 3, want := [], left := [], got := [], logR := [], cells := cells, logW := blockKeys (logged.map (fun x => (x.1, 1))) }

/-- The bytes a chunk has read, in the order of its elements. -/
def Chunk.bytesRead (ch : Chunk) : List Byte :=
  ch.want.flatMap (fun p => (List.range p.2).map (fun i =>
    match ch.got.find? (fun x => x.1 = (p.1 + i) / 32 * 32) with
    | some x => (x.2.drop ((p.1 + i) % 32)).headD 0
    | none => 0))

/-- The blocks that a chunk still has to read, or to write. -/
def Chunk.blocks (ch : Chunk) : List Nat := if ch.phase = 3 then blockKeys (ch.cells.map (fun x => (x.1, 1))) else ch.left

/-- A block read (R277, R294): a poisoned word in it ends the command (R278). -/
def State.readBlock (s : State) (c : Cmd) (ch : Chunk) (b : Nat) : EngRes Chunk :=
  match s.reach c b with
  | none => .wait s
  | some t =>
    let mine := inBlock b ch.want
    let t := t.readErrors c.task (if isBank b then [(b, 32)] else mine)
    if mine.any (fun q => (t.poisonedAt q.1 q.2).isSome) then .stop t 2
    else
      let done := { ch with left := ch.left.erase b, got := ch.got ++ [(b, t.bytes b 32)] }
      if ch.logR.contains b then
        (t.engineEvent s c (firstKey mine) 2 (valueDigest (t.piecesBytes (byAddress mine))) 0xFF true).bind (fun u _ => .ok u done)
      else .ok t done

/-- A block written (R277, R294): of a poisoned word that it covers in part it writes nothing (R278). -/
def State.writeBlock (s : State) (c : Cmd) (ch : Chunk) (b : Nat) : EngRes Chunk :=
  match s.reach c b with
  | none => .wait s
  | some t =>
    let mine := ch.cells.filter (fun x => x.1 / 32 = b / 32)
    let t := t.readErrors c.task (Micro.write mine).reads
    let store := fun (t : State) =>
      let w := t.storeCells mine
      EngRes.ok w.1 { ch with begun := true, cells := ch.cells.filter (fun x => x.1 / 32 ≠ b / 32), bad := ch.bad || w.2 }
    if ch.logW.contains b then
      let keys := (byAddress ((dedup (mine.map (fun x => x.1))).map (fun k => (k, ())))).map (fun p => p.1)
      (t.engineEvent s c (firstCell mine) 1 (valueDigest (keys.map (fun k => (t.setCells mine).byte k))) 0xFF true).bind (fun u _ => store u)
    else store t

/-- What a copy's conversion gives for an element (R275, R36): rounding RNE, no flags. -/
def convElem (fs fd : Format) (k : Option Nat) (sat : Bool) (x : Nat) : Nat :=
  match fs with
  | .flt f =>
    let v := f32 (match k with
      | some k => (widenScaled (f.value x) k).1
      | none => widen (f.value x))
    match fd with
    | .flt g => (g.convert .rne sat v).1
    | .int i => ((i.convert .rne v).1 % 2 ^ 64).toNat
    | _ => 0
  | .int i =>
    let n : Int := (match i with
      | .i8 => (BitVec.ofNat 8 x).toInt
      | .u8 => (x : Int)
      | .i16 => (BitVec.ofNat 16 x).toInt
      | .i32 => (BitVec.ofNat 32 x).toInt
      | .i64 => (BitVec.ofNat 64 x).toInt)
    match fd with
    | .flt g => (g.convert .rne sat (FV.ofInt n)).1
    | .int j => (j.clamp n % 2 ^ 64).toNat
    | _ => 0
  | _ => 0

/-- Whether a COPY reads a scale byte for each element (R275). -/
def Cmd.scaled (c : Cmd) : Bool := c.cvt && ptrBl (c.lowPtr 1) ≠ 0

/-- The ranges that positions of a COPY read: each element in bounds, and its scale byte. -/
def Cmd.sources (c : Cmd) (l : List (Bool × Int × Int)) : List (Int × Nat) :=
  let p := c.lowPtr 1
  (l.filter (fun q => q.1)).flatMap (fun q => (q.2.1, c.ws) ::
    (if c.scaled then [(Int.ofNat (scaleOffset c.ws false (ptrBl p) (c.seg p) ((ptrOff p : Int) + q.2.1).toNat) - ptrOff p, 1)] else []))

/-- The bytes of each position and its destination offset, from the bytes read: converted, or the fill element (R275). -/
def Cmd.values (c : Cmd) : List (Bool × Int × Int) → List Byte → List (Int × List Byte)
  | [], _ => []
  | q :: r, b =>
    if q.1 then
      let x := b.take c.ws
      let k := ((b.drop c.ws).headD 0).toNat
      (q.2.2, if c.cvt then leBytes c.wd (convElem c.srcFmt c.dstFmt (if c.scaled then some k else none) c.sat (leNat x)) else x) ::
        c.values r (b.drop (c.ws + (if c.scaled then 1 else 0)))
    else (q.2.2, leBytes c.wd ((c.beat 0).toNat / 2 ^ 64)) :: c.values r b

/-- The cells of a position's bytes: in a segment, or in an operand slot (R276). -/
def State.copyCells (s : State) (c : Cmd) (off : Int) (b : List Byte) : State × Except Nat (List Host.Cell) :=
  if c.osl then
    let x := (c.highPtr 1).toNat
    (s, .ok (cellsOf (opKey c.core (x % 8) (((x / 2 ^ 16 % 2 ^ 13 : Nat) : Int) + off).toNat) b))
  else s.engineCells c (c.highPtr 1) off b

/-- The cells of every position of a chunk. -/
def State.layCopy (c : Cmd) : List (Int × List Byte) → State → State × Except Nat (List Host.Cell)
  | [], s => (s, .ok [])
  | q :: r, s =>
    match s.copyCells c q.1 q.2 with
    | (s, .error x) => (s, .error x)
    | (s, .ok l) =>
      match State.layCopy c r s with
      | (s, .error x) => (s, .error x)
      | (s, .ok m) => (s, .ok (l ++ m))

/-- An address that tells destinations apart: a key, or a region's DVA (MODEL). -/
def State.absAddr (s : State) (c : Cmd) (g : BitVec 256) (off : Int) : Nat :=
  let a := segBase g + off.toNat
  match segSpace g with
  | 0 => lsKey c.core a
  | 1 => bankKey (clusterOf c.core) a
  | 2 => bankKey (clusterOf c.core - clusterOf c.core % 4 + segCluster g) a
  | 3 => 2 ^ 64 * (regionOf c.core + 1) + a
  | 4 => 2 ^ 64 * (((s.regEntry c.vf (segLregion g)).map (fun p => p.1)).getD 31 + 1) + a
  | 5 => lsKey (256 * ((s.regEntry c.vf (segLregion g)).map (fun p => p.1)).getD 31 + segCore g) a
  | _ => hostKey a

/-- The destination range of a chunk, from the lowest byte to the highest (R277). -/
def State.chunkRange (s : State) (c : Cmd) (n : Nat) : Nat × Nat :=
  let place := fun (o : Int) =>
    if c.osl then opKey c.core ((c.highPtr 1).toNat % 8) ((((c.highPtr 1).toNat / 2 ^ 16 % 2 ^ 13 : Nat) : Int) + o).toNat
    else s.absAddr c (c.seg (c.highPtr 1)) (ptrOff (c.highPtr 1) + o)
  let l := (c.positions n).map (fun p => place p.2.2)
  match l with
  | [] => (0, 0)
  | x :: r => let lo := r.foldl min x; (lo, r.foldl max x + c.wd - lo)

/-- Whether a chunk of a later command overlaps an unperformed chunk of an earlier command of its engine (R277). -/
def State.blocked (s : State) (earlier : List Cmd) (c : Cmd) : Bool :=
  let mine := s.chunkRange c c.next
  earlier.any (fun o => o.kind = 1 && o.status.isNone &&
    (List.range (o.chunks - o.done)).any (fun i => overlap (s.chunkRange o (o.done + i)) mine))

/-! Counts (R151). -/

/-- The event of a write of a sync word through a segment with right L (R154). -/
def State.syncEvent (s s0 : State) (c : Cmd) (key : Nat) (w : BitVec 128) : EngRes Unit :=
  if loggedSeg (c.seg (c.lowPtr 2)) then s.engineEvent s0 c key 1 (valueDigest (leBytes 16 w.toNat)) 0xFF true else .ok s ()

/-- An engine update (R151): bytes added with `update`, PEND falling, FAULT and ERR set. A poisoned word drops it, releases its waiters and is
reported as status 2 (R152). -/
def State.engineSync (s : State) (c : Cmd) (key add : Nat) (fault pend : Bool) : EngRes Unit :=
  match s.reach c key with
  | none => .wait s
  | some t =>
    let t := t.readErrors c.task [if isBank key then (key / 32 * 32, 32) else (key, 16)]
    if t.syncPoison key then .stop (t.releasePoison key) 2
    else
      let u := if fault then (t.readSync key, false) else syncUpdate (t.readSync key) add
      let w := if pend then syncPendAdd u.1 false else u.1
      let w := if fault then syncFault w else w
      if u.2 then
        (t.engineEvent s c key 4 (BitVec.ofNat 32 (syncGen w), false) (syncCount w) (loggedSeg (c.seg (c.lowPtr 2)))).bind (fun t _ =>
          .ok ((t.writeSync key w).release key) ())
      else (t.syncEvent s c key w).bind (fun t _ => .ok (t.writeSync key w) ())

/-- PEND of the sync word that a command names rises for its chunk, before any of its bytes is written (R151). -/
def State.raisePend (s : State) (c : Cmd) (ch : Chunk) : EngRes Chunk :=
  match s.syncKey c with
  | none => .ok s { ch with pend := true }
  | some k =>
    match s.reach c k with
    | none => .wait s
    | some t =>
      let t := t.readErrors c.task [if isBank k then (k / 32 * 32, 32) else (k, 16)]
      if t.syncPoison k then .stop (t.releasePoison k) 2
      else
        let w := syncPendAdd (t.readSync k) true
        (t.syncEvent s c k w).bind (fun t _ => .ok (t.writeSync k w) { ch with pend := true })

/-! The engines' lists. -/

def State.engine (s : State) (e : Nat) : List Cmd := SMap.get [] s.engines e
def State.setEngine (s : State) (e : Nat) (l : List Cmd) : State := { s with engines := SMap.set [] s.engines e l }
def State.setCmd (s : State) (e i : Nat) (c : Cmd) : State := s.setEngine e ((s.engine e).set i c)
def Cmd.engineNo (c : Cmd) : Nat := if c.parent.isSome then engineOf c.core 0 else engineOf c.core c.port

/-- Deficit round robin between VFs (R282, R422): whether VF `v` is served now among those with something waiting, a turn of VF `u` being
`quantum` times its weight; the state counts what it takes. A VF of weight 0 has no share, and is not held back. -/
def State.share (s : State) (key quantum : Nat) (waiting : List Nat) (v : Nat) : Option State :=
  let weight := fun (u : Nat) => (SMap.get 0 s.pkg.linkwt u).toNat
  let x := SMap.get (0, 0) s.pkg.share key
  let w := waiting.filter (fun u => weight u ≠ 0)
  let put := fun (n : Nat) => some { s with pkg.share := SMap.set (0, 0) s.pkg.share key (v, n) }
  if weight v = 0 then some s
  else if 0 < x.2 ∧ w.contains x.1 then (if x.1 = v then put (x.2 - 1) else none)
  else if ((List.range 32).map (fun i => (x.1 + 1 + i) % 32)).find? (fun u => w.contains u) = some v then put (quantum * weight v - 1)
  else none

/-- The VFs with a collective command waiting in a die's input FIFOs (R282). -/
def State.a2aWaiting (s : State) (die : Nat) : List Nat :=
  s.cores.filterMap (fun p =>
    if regionOf p.1 / 4 = die then
      match SMap.get [] p.2.u.fifoIn 2 with
      | c :: _ => some c.vf
      | [] => none
    else none)

/-- ENGINE_COMMAND_TAKE (R268, R277): the engine takes the head of a port's FIFO while fewer than eight commands are active; the collective
engine shares its commands between the VFs (R25, R282). -/
def execEngineCommandTake (core port : Nat) (s : State) : Host.Outcome State Fault Refusal :=
  match SMap.get [] (s.core core).u.fifoIn port with
  | [] => .next s
  | c :: r =>
    let e := engineOf core port
    if 3 ≤ port ∨ 8 ≤ ((s.engine e).filter (fun c => c.parent.isNone)).length then .next s
    else
      match if port = 2 then s.share (e - 160) 1 (s.a2aWaiting (e - 160)) c.vf else some s with
      | none => .next s
      | some s => .next ((s.updCore core (fun x => { x with u.fifoIn := SMap.set [] x.u.fifoIn port r })).setEngine e (s.engine e ++ [c]))

/-- MAILBOX_COMMAND (R283): a port-3 command goes to the region supervisor. -/
def execMailboxCommand (core : Nat) (s : State) : Host.Outcome State Fault Refusal :=
  match SMap.get [] (s.core core).u.fifoIn 3 with
  | [] => .next s
  | c :: r =>
    .next ((s.updCore core (fun x => { x with u.fifoIn := SMap.set [] x.u.fifoIn 3 r })).updRegion (regionOf core) (fun g =>
      { g with port3 := g.port3 ++ [c] }))

/-! Copies. -/

/-- Whether the operand slot a copy writes is still held by the thread that pushed it (R232). -/
def State.oslOk (s : State) (c : Cmd) : Bool := !c.osl || (s.runs c.thread c.task && s.holds c.thread ((c.highPtr 1).toNat % 8))

/-- Whether a command still has work that a save would return (R395): a COPY with an unstarted chunk, a GATHER with a further index. -/
def Cmd.returnable (c : Cmd) : Bool :=
  c.status.isNone && c.parent.isNone &&
  ((c.kind = 1 && decide (c.next < c.chunks)) || (c.kind = 2 && decide (c.index + (if c.busy || c.started.isSome then 1 else 0) < c.nidx)))

/-- The commands of a thread's task in input FIFOs and engines. -/
def State.threadCmds (s : State) (k : Nat) : List Cmd :=
  let u := (s.core (coreOf k)).u
  let fifo := (List.range 3).flatMap (fun p => SMap.get [] u.fifoIn p)
  let act := (List.range 3).flatMap (fun p => s.engine (engineOf (coreOf k) p))
  (fifo ++ act).filter (fun c => c.thread = k && c.task = s.groupTask k)

/-- The returnable commands of a thread, oldest first (R395). -/
def State.returnables (s : State) (k : Nat) : List Cmd :=
  let l := (s.threadCmds k).filter Cmd.returnable
  (l.foldl (fun r c => insertBy (fun i => (i, 0)) c.uid r) []).filterMap (fun u => l.find? (fun c => c.uid = u))

/-- Whether a command may start further work: in a save, only when four newer ones remain to be returned (R395). -/
def State.mayStart (s : State) (c : Cmd) : Bool :=
  c.parent.isSome || (s.getT c.thread).st ≠ .saving ||
  (let l := s.returnables c.thread; (l.take (l.length + (s.getT c.thread).en.repush.length - 4)).any (fun x => x.uid = c.uid))

/-- The ranges a started chunk reads, planned (R277): nothing has been written when one cannot be reached (R278). -/
def State.plan (s : State) (c : Cmd) (ch : Chunk) : State × Except Nat Chunk :=
  let reads := fun (s : State) (p : Word) (l : List (Int × Nat)) =>
    match State.planReads c p l s with
    | (s, .error x) => (s, Except.error x)
    | (s, .ok m) => (s, .ok (ch.reading m (if loggedSeg (c.seg p) then m else [])))
  match c.kind with
  | 1 => reads s (c.lowPtr 1) (c.sources (c.positions ch.no))
  | 3 =>
    let row := if c.row.isSome then (s, Except.ok []) else State.planReads c (c.lowPtr 1) [(0, c.rowBytes)] s
    match row with
    | (s, .error x) => (s, .error x)
    | (s, .ok m) =>
      let dim := c.rowBytes / c.ws
      match if c.tpos % 16 = 0 then (s, Except.ok []) else State.planReads c (c.highPtr 0) [(8 * dim * ch.no, 8 * dim)] s with
      | (s, .error x) => (s, .error x)
      | (s, .ok o) =>
        (s, .ok (ch.reading (m ++ o) ((if loggedSeg (c.seg (c.lowPtr 1)) then m else []) ++ (if loggedSeg (c.seg (c.highPtr 0)) then o else []))))
  | _ => reads s (c.lowPtr 1) [(ch.no * c.srcStride + ch.off, 64)]

/-- A row's summary entry (R281): minima and maxima, FP32. -/
def summaryOf (first : Bool) (row old : List Word32) : List Word32 :=
  let dim := row.length
  if first then row ++ row
  else
    let v := fun (isMax : Bool) (a b : Word32) =>
      BitVec.ofNat 32 (if isMax then FFmt.f32.vmax a.toNat b.toNat else FFmt.f32.vmin a.toNat b.toNat)
    (old.zip row).map (fun p => v false p.1 p.2) ++ ((old.drop dim).zip row).map (fun p => v true p.1 p.2)

/-- Bytes as elements of a size. -/
def elemsOf (w : Nat) : Nat → List Byte → List Nat
  | 0, _ => []
  | n + 1, b => leNat (b.take w) :: elemsOf w n (b.drop w)

/-- What an APPEND writes (R281): the row in its block, and the summary entry. -/
def State.layAppend (s : State) (c : Cmd) (ch : Chunk) : State × Except Nat (List Host.Cell × List Host.Cell) :=
  let dim := c.rowBytes / c.ws
  let row := match c.row with
    | some v => leBytes c.rowBytes v.toNat
    | none => ch.bytesRead.take c.rowBytes
  let old := if c.row.isSome then ch.bytesRead else ch.bytesRead.drop c.rowBytes
  match c.srcFmt with
  | .flt f =>
    let vals := (elemsOf c.ws dim row).map (fun x => widen (f.value x))
    let sum := summaryOf (decide (c.tpos % 16 = 0)) vals ((elemsOf 4 (2 * dim) old).map (fun x => BitVec.ofNat 32 x))
    match s.engineCells c (c.lowPtr 3) ((16 * ch.no + c.tpos % 16) * c.rowBytes) row with
    | (s, .error x) => (s, .error x)
    | (s, .ok a) =>
      match s.engineCells c (c.highPtr 0) (8 * dim * ch.no) (sum.flatMap (fun (w : Word32) => leBytes 4 w.toNat)) with
      | (s, .error x) => (s, .error x)
      | (s, .ok b) => (s, .ok (a, b))
  | _ => (s, .error 3)

/-- A chunk that has read all its blocks lays out what it will write (R277). -/
def State.layOut (s : State) (c : Cmd) (ch : Chunk) : EngRes Chunk :=
  if ch.left ≠ [] then .ok s ch
  else
    let one := fun (p : Word) (logs : Bool) (r : State × Except Nat (List Host.Cell)) =>
      match r with
      | (s, .error x) => EngRes.stop s x
      | (s, .ok l) => .ok s (ch.writing l (if logs && loggedSeg (c.seg p) then l else []))
    match c.kind with
    | 1 => one (c.highPtr 1) (!c.osl) (State.layCopy c (c.values (c.positions ch.no) ch.bytesRead) s)
    | 3 =>
      match s.layAppend c ch with
      | (s, .error x) => .stop s x
      | (s, .ok (a, b)) =>
        .ok s (ch.writing (a ++ b) ((if loggedSeg (c.seg (c.lowPtr 3)) then a else []) ++ (if loggedSeg (c.seg (c.highPtr 0)) then b else [])))
    | _ => one (c.highPtr 1) true (s.engineCells c (c.highPtr 1) (ch.no * c.dstStride + ch.off) ch.bytesRead)

/-- The next action of a chunk, on the `j`th of the blocks it has left: PEND raised, its reads planned, a block read, or a block written. -/
def State.work (s : State) (c : Cmd) (ch : Chunk) (j : Nat) : EngRes Chunk :=
  if c.named && !ch.pend then s.raisePend c ch
  else if ch.phase = 1 then
    match s.plan c ch with
    | (s, .error x) => .stop s x
    | (s, .ok ch) => s.layOut c ch
  else match ch.blocks[j]? with
    | none => .wait s
    | some b => if ch.phase = 3 then s.writeBlock c ch b else (s.readBlock c ch b).bind (fun s ch => s.layOut c ch)

/-- A command after an action of its chunk: a status that ends it leaves PEND to be lowered at its end (R278). -/
def State.putChunk (e i : Nat) (c : Cmd) : EngRes Chunk → State
  | .ok s ch => s.setCmd e i { c with started := some ch }
  | .wait t => t
  | .stop s x => s.setCmd e i { c with status := some x, started := none, owed := (c.started.map Chunk.pend).getD false }

/-- A chunk counted (Table 11-7). -/
def Cmd.counted (c : Cmd) (ch : Chunk) : Cmd :=
  let c := { c with started := none, bytes := c.bytes + ch.bytes }
  if c.kind = 4 then
    let n := SMap.get 0 c.arrived ch.no + ch.bytes
    { c with arrived := SMap.set 0 c.arrived ch.no n, done := if n = c.blockBytes then c.done + 1 else c.done }
  else if c.kind = 3 then { c with done := 1 }
  else { c with done := ch.no + 1 }

/-- A chunk that is being written (R277, R278): a block is written, or the chunk is complete and is counted on its sync word (R151). One that
finds its operand slot no longer held before its first block is dropped whole (R232). -/
def State.finishChunk (s : State) (e i : Nat) (c : Cmd) (ch : Chunk) (j : Nat) : State :=
  if !ch.begun && !s.oslOk c then State.putChunk e i c (.stop s 4)
  else if ch.cells ≠ [] ∨ (c.named && !ch.pend) = true then State.putChunk e i c (s.work c ch j)
  else if ch.bad then State.putChunk e i c (.stop s 2)
  else match s.syncKey c with
    | none => s.setCmd e i (c.counted ch)
    | some k =>
      match s.engineSync c k ch.bytes false true with
      | .ok s _ => s.setCmd e i (c.counted ch)
      | .wait s => s
      | .stop s x => s.setCmd e i { c with status := some x, started := none }

/-- CHUNK_COMPLETE (R151, R277): the `j`th block that a chunk has left to write arrives; when none is left, the chunk is counted. -/
def execChunkComplete (unit i : Nat) (s : State) : Host.Outcome State Fault Refusal :=
  let engine := unit % 2 ^ 16
  let j := unit / 2 ^ 16
  match (s.engine engine)[i]? with
  | none => .next s
  | some c =>
    match c.started with
    | none => .next s
    | some ch => .next (if ch.phase = 3 ∧ c.kind ≠ 3 then s.finishChunk engine i c ch j else s)

/-! Gather and append. -/

/-- The entry's number in the region's cache of the block table, which becomes its most recent (R280). -/
def State.btcGet (s : State) (c : Cmd) (tabp : Word) (l : Nat) : Option (State × Nat) :=
  let r := regionOf c.core
  let t := s.absAddr c (c.seg tabp) (ptrOff tabp)
  let g := s.region r
  let here := fun (x : Nat × Nat × Nat × Nat) => x.1 = c.vf && x.2.1 = t && x.2.2.1 = l
  (g.btc.find? here).map (fun x => (s.setRegion r { g with btc := g.btc.filter (fun y => !here y) ++ [x] }, x.2.2.2))

/-- An entry read from the block table is cached (R280): 256 entries, least recently used dropped. -/
def State.btcPut (s : State) (c : Cmd) (tabp : Word) (l p : Nat) : State :=
  let t := s.absAddr c (c.seg tabp) (ptrOff tabp)
  s.updRegion (regionOf c.core) (fun g =>
    { g with btc := (if g.btc.length < 256 then g.btc else g.btc.drop 1) ++ [(c.vf, t, l, p)] })

/-- A lookup that has missed: the strong read of the table's entry, whose blocks are read one at a time (R280). -/
def State.lookup (s : State) (c : Cmd) (l : Nat) : EngRes Chunk :=
  let tabp := c.highPtr 1
  match State.planReads c tabp [(4 * l, 4)] s with
  | (s, .error x) => .stop s x
  | (s, .ok m) => .ok s { Chunk.reading {} m (if loggedSeg (c.seg tabp) then m else []) with no := l, phase := 0 }

/-- A block of a lookup read: the physical block number once all are. -/
def State.lookupBlock (s : State) (c : Cmd) (ch : Chunk) (b : Nat) : EngRes (Chunk × Option Nat) :=
  (s.readBlock c ch b).bind (fun s ch =>
    if ch.left ≠ [] then .ok s (ch, none)
    else
      let p := leNat ch.bytesRead
      .ok (s.btcPut c (c.highPtr 1) ch.no p) (ch, some p))

/-- Every entry of a block table dropped (R280, INV). -/
def State.btcDrop (s : State) (c : Cmd) : State :=
  let t := s.absAddr c (c.seg (c.highPtr 1)) (ptrOff (c.highPtr 1))
  s.updRegion (regionOf c.core) (fun g => { g with btc := g.btc.filter (fun x => !(x.1 = c.vf && x.2.1 = t)) })

/-- A pointer's offset moved. -/
def ptrMove (p : Word) (n : Nat) : Word := ptrWith p (ptrOff p + n)

/-- The COPY sub-command of an index (R280): BB bytes as 8-byte elements; a BOUND of 0 makes every position read FILL. -/
def Cmd.subCopy (c : Cmd) (src : Option Word) (n : Nat) : Cmd :=
  let i64 := fun (p : Word) => (p &&& 0x03FFFFFFFFFFFFFF#64) ||| ((0x05#64) <<< 58)
  let beat0 := BitVec.ofNat 128 (1 + (if c.named then 2 ^ 16 else 0) + c.tag * 2 ^ 8 + (c.beat 0).toNat / 2 ^ 64 * 2 ^ 64)
  let beat1 := (i64 (ptrMove (c.highPtr 2) (n * c.bb))) ++ (i64 (src.getD 0))
  let beat2 := (0#64) ++ (c.lowPtr 2)
  let len := c.bb / 8
  let beat3 := BitVec.ofNat 128 (8 + 8 * 2 ^ 32 + len * 2 ^ 64 + (if src.isSome then len else 0) * 2 ^ 84)
  { c with port := 1, beats := [beat0, beat1, beat2, beat3], parent := some c.uid, next := 0, done := 0, bytes := 0, started := none,
           last := false, owed := false, status := none, rsv := false, busy := false }

/-- The destination of a GATHER's index. -/
def State.gatherRange (s : State) (c : Cmd) (n : Nat) : Nat × Nat :=
  (s.absAddr c (c.seg (c.highPtr 2)) (ptrOff (c.highPtr 2) + n * c.bb), c.bb)

/-- Whether an index's destination overlaps that of an unperformed index of an earlier GATHER of the engine (R277, R280). -/
def State.gatherBlocked (s : State) (earlier : List Cmd) (c : Cmd) : Bool :=
  let mine := s.gatherRange c c.index
  earlier.any (fun o => o.kind = 2 && o.status.isNone &&
    (List.range (o.nidx - o.index)).any (fun i => overlap (s.gatherRange o (o.index + i)) mine))

/-- The sub-command of a GATHER's index joins the copy engine of the pushing core's cluster: a block of the pool, or a fill (R280). -/
def State.subIssue (s : State) (e i : Nat) (c : Cmd) (p : Option Nat) : State :=
  let k := engineOf c.core 0
  let pool := c.lowPtr 3
  let go := fun (src : Option Word) =>
    let s := s.setCmd e i { c with busy := true, started := none }
    s.setEngine k (s.engine k ++ [c.subCopy src c.index])
  match p with
  | none => go none
  | some p =>
    if !s.limitOk (clusterOf c.core) (c.seg pool) (ptrOff pool + p * c.bb) c.bb then
      s.setCmd e i { c with status := some 3, started := none }
    else go (some (ptrMove pool (p * c.bb)))

/-- GATHER_INDEX (R280): one logical index is looked up, through the region's cache or with a read of the table, and its sub-command is
issued. -/
def execGatherIndex (region i : Nat) (s : State) : Host.Outcome State Fault Refusal :=
  let e := 128 + region
  match (s.engine e)[i]? with
  | none => .next s
  | some c =>
    let put := fun (r : EngRes (Chunk × Option Nat)) =>
      match r with
      | .ok s (ch, none) => s.setCmd e i { c with started := some ch }
      | .ok s (_, some p) => s.subIssue e i c (some p)
      | .wait s => s
      | .stop s x => s.setCmd e i { c with status := some x, started := none }
    if c.kind ≠ 2 ∨ c.status.isSome ∨ c.busy then .next s
    else match c.started with
      | some ch =>
        (match ch.left.find? (fun b => (s.reach c b).isSome) with
          | none => .next s
          | some b => .next (put (s.lookupBlock c ch b)))
      | none =>
        if c.nidx ≤ c.index ∨ !s.mayStart c ∨ s.gatherBlocked ((s.engine e).take i) c then .next s
        else
          let s := if c.inv ∧ c.index = c.nstart then s.btcDrop c else s
          match s.engineGet c (c.lowPtr 1) (4 * c.index) 4 with
          | .stop s x => .next (s.setCmd e i { c with status := some x })
          | .wait s => .next s
          | .ok s b =>
            let l := sext32i (leNat b)
            if l < 0 ∨ (c.nblk : Int) ≤ l then .next (s.subIssue e i c none)
            else match s.btcGet c (c.highPtr 1) l.toNat with
              | some (s, p) => .next (s.subIssue e i c (some p))
              | none => .next (put ((s.lookup c l.toNat).bind (fun s ch => .ok s (ch, none))))

/-- Whether some Ifetis port of a package's ROUTE mask is up (R428, R429). -/
def State.routeUp (s : State) (pkg : Nat) : Bool :=
  (List.range (Config.ports s.pkg.partC)).any (fun p => (SMap.get 0 s.pkg.route pkg).getLsbD p && (SMap.get 0 s.pkg.linkst p).getLsbD 63)

/-! Starts. -/

/-- A COPY may start its next chunk (R277, R395). -/
def State.canStart (s : State) (e i : Nat) (c : Cmd) : Bool :=
  c.kind = 1 && c.status.isNone && c.started.isNone && decide (c.next < c.chunks) && s.mayStart c && !s.blocked ((s.engine e).take i) c

/-- A collective may send its next 64 bytes (R282). -/
def Cmd.canSend (c : Cmd) : Bool :=
  c.kind = 4 && c.status.isNone && c.sending.isNone && decide (c.sent < c.ranks) && !(c.sent + 1 = c.ranks && c.started.isSome)

/-- The commands of an engine in the order in which the round robin asks them: those after the last that started a chunk first (R277). -/
def askOrder (l : List Cmd) : List Nat :=
  match l.findIdx? (fun c => c.last) with
  | none => List.range l.length
  | some n => (List.range l.length).map (fun i => (n + 1 + i) % l.length)

/-- Whether 64 bytes that a collective would write to a rank's block overlap a block that an earlier collective of the engine has still to
receive (R277). -/
def State.a2aBlocked (s : State) (earlier : List Cmd) (c : Cmd) (rank off : Nat) : Bool :=
  let at' := fun (x : Cmd) (o : Int) => s.absAddr x (x.seg (x.highPtr 1)) (ptrOff (x.highPtr 1) + o)
  earlier.any (fun o => o.kind = 4 && o.status.isNone && (List.range o.ranks).any (fun r =>
    decide (SMap.get 0 o.arrived r < o.blockBytes) && overlap (at' o (r * o.dstStride), o.blockBytes) (at' c (rank * c.dstStride + off), 64)))

/-- The command whose turn it is to start a chunk (R277): a collective's own block waits as a chunk of a copy does. -/
def State.starter (s : State) (e : Nat) : Option Nat :=
  (askOrder (s.engine e)).find? (fun i =>
    match (s.engine e)[i]? with
    | some c => s.canStart e i c ||
        (c.canSend && !(c.sent + 1 = c.ranks && s.a2aBlocked ((s.engine e).take i) c c.rank c.index))
    | none => false)

/-- The last command to start a chunk is marked. -/
def State.markLast (s : State) (e i : Nat) : State :=
  s.setEngine e (((List.range (s.engine e).length).zip (s.engine e)).map (fun p => { p.2 with last := decide (p.1 = i) }))

/-- A chunk of a COPY starts, for a thread that still holds its operand slot (R232, R277). -/
def State.startCopy (s : State) (e i : Nat) (c : Cmd) (j : Nat) : State :=
  let c := { c with last := true }
  let s := s.markLast e i
  if !s.oslOk c then s.setCmd e i { c with status := some 4 }
  else
    let ch : Chunk := { no := c.next, phase := 1, bytes := c.chunkBytes c.next }
    let c := { c with started := some ch, next := c.next + 1 }
    State.putChunk e i c ((s.setCmd e i c).work c ch j)

/-- 64 more bytes of a collective's blocks are on their way (R282): for each other rank in turn, and then the block that stays here. An absent
route ends the command GONE (R429), an Ifetis weight of 0 SEGMENT (R422). -/
def State.startSend (s : State) (e i : Nat) (c : Cmd) : State :=
  let c := { c with last := true }
  let s := s.markLast e i
  let m := c.sent + 1
  let c' := if c.blockBytes ≤ c.index + 64 then { c with sent := m, index := 0 } else { c with index := c.index + 64 }
  if SMap.get 0 s.pkg.linkwt c.vf = 0 then s.setCmd e i { c with status := some 3 }
  else if c.blockBytes = 0 then s.setCmd e i { c with sent := c.ranks, done := c.ranks }
  else if m = c.ranks then s.setCmd e i { c' with started := some { no := c.rank, off := c.index, phase := 1, bytes := 64 } }
  else
    let k := (c.rank + m) % c.ranks
    match s.engineGet c (c.highPtr 2) (4 * k) 4 with
    | .stop s x => s.setCmd e i { c with status := some x }
    | .wait s => s
    | .ok s gb =>
      let x := leNat gb
      if x % 2 ^ 16 ≠ s.pkg.pkgid.toNat ∧ !s.routeUp (x % 2 ^ 16) then s.setCmd e i { c with status := some 6 }
      else match s.plan c { no := k, off := c.index, dest := x, phase := 1, bytes := 64 } with
        | (s, .error x) => s.setCmd e i { c with status := some x }
        | (s, .ok ch) => s.setCmd e i { c' with sending := some ch }

/-- A block of the bytes a collective sends is read; a flit that is whole leaves (R282). -/
def State.sendBlock (s : State) (e i : Nat) (c : Cmd) (ch : Chunk) (j : Nat) : State :=
  match ch.left[j]? with
  | none => s
  | some b =>
    match s.readBlock c ch b with
    | .wait s => s
    | .stop s x => s.setCmd e i { c with status := some x, sending := none }
    | .ok s ch =>
      if ch.left ≠ [] then s.setCmd e i { c with sending := some ch }
      else
        let f : A2AFlit := { vf := c.vf, cid := c.cid, srcRank := c.rank, dstRank := ch.no, pkg := ch.dest % 2 ^ 16, die := ch.dest / 2 ^ 16 % 8,
                             offset := ch.off, payload := ch.bytesRead, src := regionOf c.core }
        let s := s.setCmd e i { c with sending := none }
        { s with a2a := s.a2a ++ [f] }

/-- CHUNK_START (R277): the next command in turn starts a chunk; one that has started raises PEND and reads its blocks, the `j`th of those left.
A collective sends its blocks by the same event (R282). -/
def execChunkStart (unit i : Nat) (s : State) : Host.Outcome State Fault Refusal :=
  let engine := unit % 2 ^ 16
  let j := unit / 2 ^ 16
  match (s.engine engine)[i]? with
  | none => .next s
  | some c =>
    match c.started, c.sending with
    | _, some ch => .next (s.sendBlock engine i c ch j)
    | some ch, none =>
      .next (if ch.phase ≠ 3 ∧ (c.kind = 1 ∨ c.kind = 4) then State.putChunk engine i c (s.work c ch j)
        else if s.starter engine = some i then s.startSend engine i c else s)
    | none, none =>
      .next (if s.starter engine = some i then (if c.kind = 1 then s.startCopy engine i c j else s.startSend engine i c) else s)

/-- APPEND_PERFORM (R281): an append is looked up, read and written one block at a time; those to one block in the engine's arrival order, each
row and its summary together; then the row is counted (R327). -/
def execAppendPerform (unit i : Nat) (s : State) : Host.Outcome State Fault Refusal :=
  let e := 128 + unit % 2 ^ 16
  let j := unit / 2 ^ 16
  match (s.engine e)[i]? with
  | none => .next s
  | some c =>
    let earlier := ((s.engine e).take i).filter (fun o => o.kind = 3 && o.status.isNone && o.done = 0)
    let l := c.tpos / 16
    let known := fun (s : State) (p : Nat) => s.setCmd e i { c with started := some { no := p, phase := 1, bytes := c.rowBytes } }
    if c.kind ≠ 3 ∨ c.status.isSome ∨ c.done ≠ 0 then .next s
    else match c.started with
      | none =>
        if c.nblk ≤ l then .next (s.setCmd e i { c with status := some 5 })
        else match s.btcGet c (c.highPtr 1) l with
          | some (s, p) => .next (known s p)
          | none => .next (State.putChunk e i c (s.lookup c l))
      | some ch =>
        if ch.phase = 0 then
          (match ch.left[j]? with
            | none => .next s
            | some b =>
              match s.lookupBlock c ch b with
              | .ok s (ch, none) => .next (s.setCmd e i { c with started := some ch })
              | .ok s (_, some p) => .next (known s p)
              | .wait s => .next s
              | .stop s x => .next (s.setCmd e i { c with status := some x, started := none }))
        else if ch.phase = 1 ∧ earlier.any (fun o => (match o.started with
            | some x => x.phase = 0 || x.no = ch.no
            | none => true)) then .next s
        else if ch.phase = 3 then .next (s.finishChunk e i c ch j)
        else .next (State.putChunk e i c (s.work c ch j))

/-! The collective. -/

/-- The Ifetis port by which a flit for another package leaves: the first of its route that is up (R428, R429). -/
def State.portFor (s : State) (pkg : Nat) : Option Nat :=
  (List.range (Config.ports s.pkg.partC)).find? (fun p => (SMap.get 0 s.pkg.route pkg).getLsbD p && (SMap.get 0 s.pkg.linkst p).getLsbD 63)

/-- A port carries a flit, which its link retries until it passes: RETRIES counts the retries (R428, Table 22-3). -/
def State.overPort (s : State) (p : Nat) : State :=
  let w := SMap.get 0 s.pkg.linkst p
  let n := SMap.get 0 s.pkg.linkFlits p
  let r := min 0xFFFF (w.toNat / 2 ^ 32 % 2 ^ 16 + Config.linkRetries p n)
  { s with
    pkg.linkst := SMap.set 0 s.pkg.linkst p ((w &&& 0xFFFF0000FFFFFFFF#64) ||| BitVec.ofNat 64 (r * 2 ^ 32))
    pkg.linkFlits := SMap.set 0 s.pkg.linkFlits p (n + 1) }

/-- A command that its engine ends at once with a status: a chunk under way is given up (R278). -/
def Cmd.cancel (c : Cmd) (x : Nat) : Cmd :=
  { c with status := some x, started := none, sending := none, owed := c.owed || (c.started.map Chunk.pend).getD false }

/-- A flit of a collective refused for ever: the command that sent it ends GONE (R429). -/
def State.sendGone (s : State) (f : A2AFlit) : State :=
  let e := 160 + f.src / 4
  s.setEngine e ((s.engine e).map (fun c =>
    if c.kind = 4 ∧ c.vf = f.vf ∧ c.cid = f.cid ∧ c.rank = f.srcRank ∧ c.status.isNone then c.cancel 6 else c))

/-- A2A_ARRIVAL (R282): a flit lands at the command of its VF, CID and rank, which writes and counts it; one that finds no command is refused, and
is sent again after a back-off (R258). A flit for another package leaves by an Ifetis port, which serves the VFs by weight (R422); with no port
of its route UP it is refused, and the command that sent it ends GONE (R429). -/
def execA2aArrival (i : Nat) (s : State) : Host.Outcome State Fault Refusal :=
  match s.a2a[i]? with
  | none => .next s
  | some f =>
    let gone := fun (s : State) => { s with a2a := s.a2a.eraseIdx i }
    let now := (s.region f.src).clock
    if now < f.due then .next s
    else if f.pkg ≠ s.pkg.pkgid.toNat then
      match s.portFor f.pkg with
      | none => .next ((gone s).sendGone f)
      | some p =>
        let waiting := (s.a2a.filter (fun x => x.pkg ≠ s.pkg.pkgid.toNat && s.portFor x.pkg = some p)).map (fun x => x.vf)
        .next (match s.share (8 + p) 16 waiting f.vf with
          | some t => gone (t.overPort p)
          | none => s)
    else
      let e := 160 + f.die
      match (s.engine e).findIdx? (fun c => c.kind = 4 && c.vf = f.vf && c.cid = f.cid && c.rank = f.dstRank && c.status.isNone) with
      | none => .next { s with a2a := s.a2a.set i { f with due := now + f.backoff, backoff := min 1024 (2 * f.backoff) } }
      | some n =>
        match (s.engine e)[n]? with
        | none => .next s
        | some c =>
          if c.started.isSome ∨ s.a2aBlocked ((s.engine e).take n) c f.srcRank f.offset then .next s
          else match s.engineCells c (c.highPtr 1) (f.srcRank * c.dstStride + f.offset) f.payload with
          | (s, .error x) => .next ((gone s).setCmd e n { c with status := some x })
          | (s, .ok cells) =>
            .next ((gone s).setCmd e n { c with started := some (({ no := f.srcRank, bytes := f.payload.length } : Chunk).writing cells
              (if loggedSeg (c.seg (c.highPtr 1)) then cells else [])) })

/-- COLLECTIVE_ENGINE_FAULT (R419): the engine's active A2A commands end GONE at every rank. -/
def execCollectiveEngineFault (die : Nat) (s : State) : Host.Outcome State Fault Refusal :=
  let hit := (s.engine (160 + die)).map (fun c => (c.vf, c.cid))
  .next ((List.range (Config.dies s.pkg.partC)).foldl (fun s d =>
    s.setEngine (160 + d) ((s.engine (160 + d)).map (fun c =>
      if c.status.isNone ∧ hit.contains (c.vf, c.cid) then c.cancel 6 else c))) s)

/-! Ends and results. -/

/-- Whether a command has nothing left to do (R277, R280, R282). -/
def Cmd.ended (c : Cmd) : Bool :=
  c.started.isNone && c.sending.isNone && !c.busy &&
  (c.status.isSome ||
    (match c.kind with
      | 1 => decide (c.chunks ≤ c.done)
      | 2 => decide (c.nidx ≤ c.index)
      | 3 => decide (1 ≤ c.done)
      | _ => decide (c.ranks ≤ c.done) && decide (c.ranks ≤ c.sent)))

/-- Whether flits of a collective wait to leave for another package: until they have left, it may still end GONE (R429). -/
def State.sendsOut (s : State) (e : Nat) (c : Cmd) : Bool :=
  c.kind = 4 && c.status.isNone &&
  s.a2a.any (fun f => f.pkg ≠ s.pkg.pkgid.toNat && 160 + f.src / 4 = e && f.vf = c.vf && f.cid = c.cid && f.srcRank = c.rank)

/-- NEXT of a result element (Table 11-7). -/
def Cmd.nextNo (c : Cmd) : Nat := if c.kind = 2 then c.index else c.done

/-- The result element (Table 11-7). -/
def Cmd.element (c : Cmd) : Word :=
  BitVec.ofNat 64 (c.tag * 2 ^ 56 + c.status.getD 0 * 2 ^ 52 + c.nextNo % 2 ^ 20 * 2 ^ 32 + c.bytes % 2 ^ 32)

/-- A result element enters a core's output FIFO; a parked EPOP of its slot is issued again (R271). -/
def State.deliver (s : State) (core port slot : Nat) (task element : Word) : State :=
  let s := s.updCore core (fun x =>
    { x with u.fifoOut := SMap.set [] x.u.fifoOut port (SMap.get [] x.u.fifoOut port ++ [{ slot := slot, task := task, element := element }]) })
  let k := 16 * core + slot
  if (s.getT k).st = .parked ∧ (s.getT k).w.park = .epop port ∧ s.groupTask k = task then s.wakeT k else s

/-- A reservation released (R271, R272, R395). -/
def State.unreserve (s : State) (core port : Nat) : State :=
  s.updCore core (fun x => { x with u.rsv := SMap.set 0 x.u.rsv port (SMap.get 0 x.u.rsv port - 1) })

/-- A sub-command's end noted in its GATHER (R280): bytes, the next index, or its status. -/
def State.subEnd (s : State) (sub : Cmd) : State :=
  let e := engineOf sub.core 1
  s.setEngine e ((s.engine e).map (fun c =>
    if c.kind = 2 ∧ c.core = sub.core ∧ some c.uid = sub.parent then
      { c with busy := false, bytes := c.bytes + sub.bytes, status := sub.status, owed := sub.owed,
               index := if sub.status.isSome then c.index else c.index + 1 }
    else c))

/-- A command leaves its engine; the round robin goes on after it (R277). -/
def State.leave (s : State) (e i : Nat) : State :=
  let l := s.engine e
  let was := (l[i]?.map Cmd.last).getD false
  let s := s.setEngine e (l.eraseIdx i)
  if was && 0 < i then s.markLast e (i - 1) else s

/-- COMMAND_END (R278): the failure is marked on the sync word (R151) and, for an append of a commit, in its descriptor (R327); the
result element is delivered unless the command was QUIET and ends DONE (R272). -/
def execCommandEnd (engine i : Nat) (s : State) : Host.Outcome State Fault Refusal :=
  match (s.engine engine)[i]? with
  | none => .next s
  | some c =>
    let ends := fun (s : State) =>
      let s := s.leave engine i
      let s := if c.status.isSome ∧ c.parent.isNone ∧ c.rsv then s.fire (regionOf c.core / 4) 5 0 0 else s
      let s := s.reclaim (taskKey c.task)
      let s := match c.row, c.status with
        | some _, some x => s.descFail c.desc x
        | _, _ => s
      if c.parent.isSome then s.subEnd c
      else if c.rsv = false then s
      else if c.quiet ∧ c.status.isNone then s.unreserve c.core c.port
      else s.deliver c.core c.port (slotOf c.thread) c.task c.element
    if !c.ended ∨ s.sendsOut engine c then .next s
    else if c.parent.isSome ∨ c.status.isNone then .next (ends s)
    else match s.syncKey c with
      | none => .next (ends s)
      | some k =>
        match s.engineSync c k 0 true c.owed with
        | .ok s _ => .next (ends s)
        | .stop s _ => .next (ends s)
        | .wait s => .next s

/-- MAILBOX_RESULT (R283): firmware returns the element of the oldest port-3 command of a slot. One that ends DONE with QUIET set releases its
reservation without an element (R272). -/
def execMailboxResult (core slot : Nat) (element : Word) (s : State) : Host.Outcome State Fault Refusal :=
  let g := s.region (regionOf core)
  match g.port3.findIdx? (fun c => c.thread = 16 * core + slot) with
  | none => .next s
  | some n =>
    match g.port3[n]? with
    | none => .next s
    | some c =>
      let s := s.setRegion (regionOf core) { g with port3 := g.port3.eraseIdx n }
      let s := if element.toNat / 2 ^ 52 % 16 = 0 then s else s.fire (regionOf core / 4) 5 0 0
      .next (if c.quiet ∧ element.toNat / 2 ^ 52 % 16 = 0 then s.unreserve core 3 else s.deliver core 3 slot c.task element)

/-! Instructions of major 0x2A. -/

/-- EPUSH (R270): a first beat releases; a fourth is checked, waits for room, and moves the command into the FIFO. -/
def execEpush (b a : BitVec 5) (e : BitVec 2) (s : State) : Host.Outcome State Fault Refusal :=
  let port := e.toNat
  let beat : BitVec 128 := s.rdS b ++ s.rdS a
  finish (do
    notHandler
    specOldest
    if port = 2 ∧ (Config.cap0 s.pkg.partC).getLsbD 0 = false then trap tEngine 2
    let s ← get
    let asm := SMap.get [] s.th.en.asm port
    if asm.length < 3 then do
      specBind
      if asm = [] then waitM .beat
      modify (fun s => { s with th.en.asm := SMap.set [] s.th.en.asm port (asm ++ [beat]) })
      retireM
    else do
      let s := s.readDims (s.newCmd s.cur port (asm ++ [beat]))
      set s
      match s.makeCmd s.cur port (asm ++ [beat]) with
      | .error x => throw (.trap x.1 x.2.1 x.2.2)
      | .ok c => do
        specBind
        if !s.portRoom s.coreNo port then parkM (.epush port)
        else do
          modify (fun s => { s.enterCmd s.coreNo port c with th.en.asm := SMap.set [] s.th.en.asm port [] })
          retireM) s

/-- The oldest element of a slot's task, and the FIFO without it (R271, R395). -/
def takeResult (slot : Nat) (task : Word) : List Result → Option (Result × List Result)
  | [] => none
  | x :: r => if x.slot = slot ∧ x.task = task then some (x, r) else (takeResult slot task r).map (fun p => (p.1, x :: p.2))

/-- EPOP (R271): an event of the order log (Table 16-4, kind 0x0C). -/
def execEpop (d : BitVec 5) (e : BitVec 2) (s : State) : Host.Outcome State Fault Refusal :=
  let port := e.toNat
  finish (do
    notHandler
    specBind
    let s ← get
    match takeResult s.slotNo (s.groupTask s.cur) (SMap.get [] (s.core s.coreNo).u.fifoOut port) with
    | none => parkM (.epop port)
    | some (x, r) => do
      logGuard s.regionNo
      eventOrM (.epop port) s.regionNo
        { kind := 12, task := s.groupTask s.cur, object := fifoObject s.coreNo port s.slotNo,
          digest := x.element.setWidth 32, aux := (x.element >>> 32).setWidth 32 }
      modify (fun s => (s.updCore s.coreNo (fun c => { c with u.fifoOut := SMap.set [] c.u.fifoOut port r })).unreserve s.coreNo port)
      setS d x.element
      retireM) s

/-- EPOLL (Table 11-8). -/
def execEpoll (d : BitVec 5) (e : BitVec 2) (s : State) : Host.Outcome State Fault Refusal :=
  let port := e.toNat
  finish (do
    notHandler
    specBind
    let s ← get
    let u := (s.core s.coreNo).u
    let res := ((SMap.get [] u.fifoOut port).filter (fun x => x.slot = s.slotNo && x.task = s.groupTask s.cur)).length
    setS d (BitVec.ofNat 64 (SMap.get 0 u.rsv port * 2 ^ 24 + (SMap.get [] s.th.en.asm port).length * 2 ^ 16 +
      (16 - 4 * (SMap.get [] u.fifoIn port).length) * 2 ^ 8 + res))
    retireM) s

/-- ECFG (R272). -/
def execEcfg (a : BitVec 5) (e : BitVec 2) (s : State) : Host.Outcome State Fault Refusal :=
  finish (do
    need (decide ((s.rdS a).toNat < 2))
    notHandler
    specBind
    modify (fun s => { s with th.en.quiet := SMap.set false s.th.en.quiet e.toNat ((s.rdS a).getLsbD 0) })
    retireM) s

/-! Chunks that must be done before something else changes (R125, R416). -/

/-- Whether a command's chunk under way touches a byte that a test selects. -/
def Cmd.touches (c : Cmd) (f : Nat → Bool) : Bool :=
  (c.started.toList ++ c.sending.toList).any (fun ch => ch.want.any (fun q => f q.1) || ch.cells.any (fun q => f q.1))

/-- The chunk under way of an engine's `i`th command goes on while a test selects the command, and does not have to wait. -/
def State.settleChunk (f : Cmd → Bool) (e i : Nat) : Nat → State → State
  | 0, s => s
  | n + 1, s =>
    match (s.engine e)[i]? with
    | none => s
    | some c =>
      if !f c then s
      else
        let t := if c.kind = 3 then afterOf s (execAppendPerform (e - 128) i s)
          else afterOf s (match c.started with
            | some ch => if ch.phase = 3 ∧ c.sending.isNone then execChunkComplete e i s else execChunkStart e i s
            | none => execChunkStart e i s)
        if (t.engine e)[i]? = some c then t else State.settleChunk f e i n t

/-- What engines have under way in the commands that a test selects is performed. -/
def State.settleEngines (s : State) (f : Cmd → Bool) : State :=
  s.engines.foldl (fun s p => (List.range p.2.length).foldl (fun s i => State.settleChunk f p.1 i 8192 s) s) s

end Sys2Proof.Machine
end

