-- ==== Sys2Proof/Machine/Bank.lean ====
section
/-! DEFINITION. BANKRET and its completion (07, R175, R176), the events that serve queued accesses (R126, R127, R161, R163, R170, R288),
the wheel swap and the WWAIT wake (R173, R182), and the starts of queued unit commands (R193, R209, R233) and of a gang (R247). -/

namespace Sys2Proof.Machine

/-! Retiring a bank. -/

/-- Whether a segment's space is the bank group of a package cluster, for a core. -/
def groupSeg (core cluster : Nat) (g : BitVec 256) : Bool :=
  (segSpace g = 1 && clusterOf core = cluster) ||
  (segSpace g = 2 && 4 * regionOf core + segCluster g = cluster)

/-- The pointers a command names as source or destination, by kind (Table 11-7). -/
def Cmd.ends (c : Cmd) : List Word :=
  match c.kind with
  | 1 => if c.osl then [c.lowPtr 1] else [c.lowPtr 1, c.highPtr 1]
  | 2 => [c.lowPtr 1, c.highPtr 1, c.highPtr 2, c.lowPtr 3]
  | 3 => [c.lowPtr 1, c.highPtr 1, c.lowPtr 3, c.highPtr 0]
  | _ => [c.lowPtr 1, c.highPtr 1]

/-- Whether a command names the bank group of a cluster. -/
def Cmd.namesGroup (c : Cmd) (cluster : Nat) : Bool := c.ends.any (fun p => groupSeg c.core cluster (c.seg p))

/-- Whether a key lies in the bank memory of a package cluster. -/
def inBank (cluster key : Nat) : Bool := isBank key && (key - 2 ^ 32) / 2 ^ 23 = cluster

/-- The cluster is idle (R175); slot 15 holds no task (R76). -/
def State.clusterIdle (s : State) (k : Nat) : Bool :=
  !s.threadKeys.any (fun t => (s.getT t).st ≠ .empty && slotOf t ≠ 15 && clusterOf (coreOf t) = k) &&
  (s.cluster k).windows = [] &&
  !s.cores.any (fun p => (p.2.wheel ++ p.2.far).any (fun q => inBank k q.op.key)) &&
  !s.engines.any (fun p => p.2.any (fun c => c.namesGroup k)) &&
  !s.cores.any (fun p => p.2.u.fifoIn.any (fun q => decide (q.1 < 3) && q.2.any (fun c => c.namesGroup k)))

/-- The status of a BANKRET (Table 07-6, R175): a bank already retired, then N falling below 32, then a cluster not idle. -/
def State.bankretStatus (s : State) (k b : Nat) : Nat :=
  if (s.cluster k).retired.contains b then 2 else if (s.cluster k).n ≤ 32 then 3 else if s.clusterIdle k then 0 else 1

/-- BANKRET (R175). -/
def execBankret (d : BitVec 5) (c : BitVec 2) (b : BitVec 6) (s : State) : Host.Outcome State Fault Refusal :=
  finish (do
    needPriv
    let k := 4 * s.regionNo + c.toNat
    let n := s.bankretStatus k b.toNat
    if n = 0 then parkM (.bankret d.toNat k b.toNat)
    else do
      setS d (BitVec.ofNat 64 n)
      retireM) s

/-- The bank memory of a cluster zeroised, its poison cleared (R176). -/
def State.zeroGroup (s : State) (k : Nat) : State :=
  { s with mem := s.mem.filter (fun p => !inBank k p.1), poison := s.poison.filter (fun p => !inBank k (8 * p.1)),
           upsets := s.upsets.filter (fun p => !inBank k (8 * p.1)) }

/-- BANKRET_COMPLETE (R176). DESIGN CHOICE (log 42): a second BANKRET for the cluster that was issued before this one completes is not tested
again when it completes itself. N and the bank map change, the group is zeroised, and the thread is READY with status 0. -/
def execBankretComplete (thread : Nat) (s : State) : Host.Outcome State Fault Refusal :=
  match (s.getT thread).w.park with
  | .bankret d k b =>
    if (s.getT thread).st = .parked ∨ (s.getT thread).st = .saving then
      let x := s.cluster k
      let s := (s.setCluster k { x with retired := x.retired ++ [b] }).zeroGroup k
      .next (s.updT thread (fun t => t.complete (fun r => r.wrS d 0)))
    else .next s
  | _ => .next s

/-! Queued accesses served. -/

/-- LS_ACCESS_PERFORM (R126, R127): the sequencer performs the entry at its head. -/
def execLsAccessPerform (core : Nat) (s : State) : Host.Outcome State Fault Refusal := .next (s.serveOldest [] (s.core core).seq)

/-- Places a thread's entry has taken in a queue. -/
def placedOf (who : Nat) (l : List RelReq) : Nat := (l.filter (fun q => q.who = who && q.placed)).length

/-- The first staged request whose slot has a place free, placed in a cycle (R161). -/
def placeOne (cycle : Nat) (all : List RelReq) : List RelReq → List RelReq
  | [] => []
  | q :: r =>
    if !q.placed && decide (placedOf q.who all < 32) then { q with placed := true, cycle := max q.cycle cycle } :: r
    else q :: placeOne cycle all r

/-- REQUEST_PLACE (R161): a staged request of a port's wheel queue, or else of its far queue, is placed, in the cycle after a place frees. -/
def execRequestPlace (core : Nat) (s : State) : Host.Outcome State Fault Refusal :=
  let c := s.core core
  let t := s.clockAt core + 1
  let w := placeOne t c.wheel c.wheel
  .next (s.setCore core (if w ≠ c.wheel then { c with wheel := w } else { c with far := placeOne t c.far c.far }))

/-- FAR_MEETING (R167, R170): a far-port lane meets a bank of another group, once in each cycle, after the near meetings of that cycle. -/
def execFarMeeting (core : Nat) (s : State) : Host.Outcome State Fault Refusal :=
  let rg := s.region (regionOf core)
  let t := rg.clock
  if t < (s.core core).farMet then .next s
  else
    let s := s.forEach (s.queuedCores (regionOf core)) execWheelMeeting
    .next ((s.updCore core (fun c => { c with farMet := t + 1 })).meet t (s.core core).far
      (fun q => rg.meets (clusterOf core % 4) (keyCluster q.op.key % 4) (core % 64) (s.reqBank q) t))

/-- What the ports of a region have not done in the cycle that ends: its near meetings, then its far ones, and the placements for the next
cycle (R161, R167). -/
def State.endCycle (s : State) (r : Nat) : State :=
  let l := s.queuedCores r
  let s := (s.forEach l execWheelMeeting).forEach l execFarMeeting
  s.forEach (l.flatMap (fun c => (((s.core c).wheel ++ (s.core c).far).filter (fun q => !q.placed)).map (fun _ => c))) execRequestPlace

/-- MEMORY_CONTROLLER_ACCESS (R288, R290): an access of a core on its way to memory is performed there, unless an earlier one of its thread
touches the same bytes. -/
def execMemoryControllerAccess (unit : Nat) (s : State) : Host.Outcome State Fault Refusal :=
  let core := unit % 2 ^ 16
  let i := unit / 2 ^ 16
  let l := (s.core core).mem
  match l[i]? with
  | none => .next s
  | some q =>
    if (l.take i).any (fun x => x.who = q.who && x.clash q) then .next s
    else .next (s.serveReq q)

/-! The wheels. -/

/-- WHEEL_SWAP (R173). -/
def execWheelSwap (region : Nat) (s : State) : Host.Outcome State Fault Refusal := .next (s.updRegion region Region.swap)

/-- WWAIT_WAKE (R182): a thread in WWAIT is READY at the named phase of the tables in effect. -/
def execWwaitWake (thread : Nat) (s : State) : Host.Outcome State Fault Refusal :=
  let t := s.getT thread
  let g := s.region (regionOf (coreOf thread))
  match t.w.park with
  | .wwait phase earliest =>
    .next (if t.st = .parked ∧ earliest ≤ g.clock ∧ g.clock % (g.wheelAt g.clock).pi = phase then s.updT thread (fun t => t.complete id) else s)
  | _ => .next s

/-! Units and gangs. -/

/-- VECTOR_COMMAND_START (R193). -/
def execVectorCommandStart (core : Nat) (s : State) : Host.Outcome State Fault Refusal :=
  .next (s.updCore core (fun c => { c with u.vcq := c.u.vcq.drop 1 }))

/-- A special-function result reaches a saved context: SFPEND of its area loses the bit of the register (R209, R394). -/
def State.sfArrive (s : State) (q : UnitCmd) : State :=
  match (List.range 32).findSome? (fun r => ((s.region r).contexts.find? (fun c => c.task = q.task)).map (fun c => (r, c.area))) with
  | none => s
  | some (r, area) => match s.readDva r (area + 0x1204) 4 with
    | (s, some b) =>
      let left := BitVec.ofNat 32 (leNat b) &&& ~~~(q.regs.foldl (fun (m : Word32) n => m ||| (1#32 <<< n)) 0#32)
      (s.writeDva r (area + 0x1204) (leBytes 4 left.toNat)).getD s
    | (s, none) => s

/-- SF_REQUEST_START (R209): the result goes to the thread's context, in its slot or in its save area. -/
def execSfRequestStart (core : Nat) (s : State) : Host.Outcome State Fault Refusal :=
  match (s.core core).u.sfq with
  | [] => .next s
  | q :: r =>
    let s := s.updCore core (fun c => { c with u.sfq := r })
    .next (if s.runs q.who q.task then s else s.sfArrive q)

/-- MATRIX_COMMAND_START (R233, R249): the command at the head of an intake starts; a joint one starts in all members together, when it is at
the head of every member's intake. -/
def execMatrixCommandStart (core : Nat) (s : State) : Host.Outcome State Fault Refusal :=
  match (s.core core).u.intake with
  | [] => .next s
  | q :: _ =>
    let l := if q.joint = [] then [core] else q.joint
    .next (if l.all (fun c => match (s.core c).u.intake with
        | x :: _ => x.joint = q.joint && x.ready
        | [] => false) then l.foldl (fun s c => s.updCore c (fun x => { x with u.intake := x.u.intake.drop 1 })) s
      else s)

/-- The width of a gang that a thread waits for with all its members (R247). -/
def State.gangReady (s : State) (k : Nat) : Option Nat :=
  (s.gangWait k).bind (fun n => if (gangMembers k n).all (fun m => s.gangWait m = some n) then some n else none)

/-- GANG_FORM (R247, R248): every member has issued GANG; they are READY together, led by the member of the lowest column. -/
def execGangForm (leader : Nat) (s : State) : Host.Outcome State Fault Refusal :=
  match s.gangReady leader with
  | none => .next s
  | some n =>
    let l := gangMembers leader n
    .next (l.foldl (fun s m => s.updT m (fun t =>
      let t := t.complete id
      { t with en.gangN := n, en.leader := l.headD leader, is.delivered := none, is.sent := false, is.ibuf := [] })) s)

end Sys2Proof.Machine
end

