-- ==== Sys2Proof/Machine/LoadStore.lean ====
section
/-! DEFINITION. Loads and stores, full/empty words, atomics, sync words and RLX (06, R134 to R150, R450). -/

namespace Sys2Proof.Machine

/-! Plain loads and stores. -/

/-- A plain load of `n` bytes (R135). -/
def plainLoad (n : Nat) (signed : Bool) (d a : BitVec 5) (o : BitVec 12) : M Unit := do
  let p ← getS a
  let l ← check p (disp 12 o n) n n rR anySpace
  match ← readM l n with
  | some b => do
    setS d (extendLE signed b)
    retireM
  | none => retireM

/-- A plain store of `n` bytes (R135). -/
def plainStore (n : Nat) (d a : BitVec 5) (o : BitVec 12) : M Unit := do
  let p ← getS a
  let v ← getS d
  let l ← check p (disp 12 o n) n n rW anySpace
  writeM l (leBytes n v.toNat)
  retireM

/-- LD.B (R135). -/
def execLdB (d a : BitVec 5) (o : BitVec 12) (s : State) : Host.Outcome State Fault Refusal := finish (plainLoad 1 false d a o) s

/-- LD.H (R135). -/
def execLdH (d a : BitVec 5) (o : BitVec 12) (s : State) : Host.Outcome State Fault Refusal := finish (plainLoad 2 false d a o) s

/-- LD.W (R135). -/
def execLdW (d a : BitVec 5) (o : BitVec 12) (s : State) : Host.Outcome State Fault Refusal := finish (plainLoad 4 false d a o) s

/-- LD.D (R135). -/
def execLdD (d a : BitVec 5) (o : BitVec 12) (s : State) : Host.Outcome State Fault Refusal := finish (plainLoad 8 false d a o) s

/-- LD.BS (R135). -/
def execLdBs (d a : BitVec 5) (o : BitVec 12) (s : State) : Host.Outcome State Fault Refusal := finish (plainLoad 1 true d a o) s

/-- LD.HS (R135). -/
def execLdHs (d a : BitVec 5) (o : BitVec 12) (s : State) : Host.Outcome State Fault Refusal := finish (plainLoad 2 true d a o) s

/-- LD.WS (R135). -/
def execLdWs (d a : BitVec 5) (o : BitVec 12) (s : State) : Host.Outcome State Fault Refusal := finish (plainLoad 4 true d a o) s

/-- ST.B (R135). -/
def execStB (d a : BitVec 5) (o : BitVec 12) (s : State) : Host.Outcome State Fault Refusal := finish (plainStore 1 d a o) s

/-- ST.H (R135). -/
def execStH (d a : BitVec 5) (o : BitVec 12) (s : State) : Host.Outcome State Fault Refusal := finish (plainStore 2 d a o) s

/-- ST.W (R135). -/
def execStW (d a : BitVec 5) (o : BitVec 12) (s : State) : Host.Outcome State Fault Refusal := finish (plainStore 4 d a o) s

/-- ST.D (R135). -/
def execStD (d a : BitVec 5) (o : BitVec 12) (s : State) : Host.Outcome State Fault Refusal := finish (plainStore 8 d a o) s

/-! Converting loads and stores. -/

/-- A checked converting access: its format, its element, and its scale byte if BL is not 0. -/
structure ConvLoc where
  fmt : Format
  el : Loc
  scale : Option Loc
deriving DecidableEq, Repr

/-- The check of a converting access (R105, R106): FORMAT, rights, the limit of the element and of its scale byte, alignment. -/
def checkConv (p : Word) (o : BitVec 12) (rights : Nat) : M ConvLoc := do
  let s ← get
  let f := formatOf (ptrFmt p)
  let eo : Int := ptrOff p + disp 12 o f.size
  let bad := match f with
    | .bytes => true
    | .reserved => true
    | .int _ => decide (ptrBl p ≠ 0)
    | .flt _ => false
  if bad then formatTrap (ptrWith p eo) (ptrFmt p)
  else
    let g := s.th.r.rdG (ptrSeg p)
    let el ← check p (disp 12 o f.size) f.size 1 rights anySpace
    if ptrBl p = 0 then do
      let el ← check p (disp 12 o f.size) f.size f.size rights anySpace
      return { fmt := f, el := el, scale := none }
    else
      let so := scaleOffset f.size (decide (f = .flt .e2m1)) (ptrBl p) g el.eo
      if !s.limitOk s.clusterNo g so 1 then trap tSegLimit (ptrWith p eo)
      else
        let el ← check p (disp 12 o f.size) f.size f.size rights anySpace
        return { fmt := f, el := el, scale := some { seg := g, eo := so, ptr := el.ptr } }

/-- The two reads of a converting load, placed together in increasing address order (R450): the element's bytes and the scale byte. -/
def readConv (fmt : BitVec 6) (c : ConvLoc) : M (Option (List Byte × Option Nat)) := do
  match c.scale with
  | none =>
    match ← readM c.el c.fmt.size with
    | some b => return some (b, none)
    | none => return none
  | some sc => do
    let pe ← locate c.el c.fmt.size rR false
    let ps ← if pe.isEmpty then pure [] else locate sc 1 rR false
    let use : Use := { cvt := some (fmt, pe, firstKey ps) }
    if sc.eo < c.el.eo then do
      match ← readParts c.el [ps, pe] use with
      | some b => return some (b.drop 1, some (leNat (b.take 1)))
      | none => return none
    else do
      match ← readParts c.el [pe, ps] use with
      | some b => return some (b.take c.fmt.size, some (leNat (b.drop c.fmt.size)))
      | none => return none

/-- LD.CVT (R136). DESIGN CHOICE (log 9): one that discards its data, with d = 0, sets the overflow and underflow flags of its scaling all the same,
whether strong or relaxed; R36 does not say so of an element that is discarded. -/
def execLdCvt (d a : BitVec 5) (o : BitVec 12) (s : State) : Host.Outcome State Fault Refusal :=
  finish (do
    let p ← getS a
    let c ← checkConv p o rR
    match ← readConv (ptrFmt p) c with
    | some r => do
      let v := convLoaded c.fmt r.2 r.1
      setS d v.1
      orFlagsM v.2
      retireM
    | none => retireM) s

/-- ST.CVT and ST.CVT.SAT (R137, R450). Without a scale byte, and in an iteration whose stores are buffered, the value is converted now;
otherwise when the scale byte has been read, with the generator state of the issue (R41). -/
def convStore (sat : Bool) (d a : BitVec 5) (o : BitVec 12) : M Unit := do
  let p ← getS a
  let x ← getS d
  let c ← checkConv p o (if ptrBl p = 0 then rW else rR + rW)
  let s ← get
  let mode := s.th.r.rmode.toNat
  let seed := s.th.r.seed
  if !s.goesOn then specStore c.el.seg
  let pe ← locate c.el c.fmt.size rW true
  if !s.goesOn && segRights c.el.seg &&& rL ≠ 0 then specBind
  match c.scale with
  | none => do
    let r := convStored c.fmt sat mode seed 127 x
    writeParts c.el (layOver pe r.1.1)
    modify (fun s => { s with th.r.seed := r.2 })
    orFlagsM r.1.2
    retireM
  | some sc => do
    let ps ← if pe.isEmpty then pure [] else locate sc 1 rR false
    let s ← get
    if s.buffers then do
      match ← readPieces sc ps with
      | some b => do
        let r := convStored c.fmt sat mode seed (leNat b) x
        writeParts c.el (layOver pe r.1.1)
        modify (fun s => { s with th.r.seed := r.2 })
        orFlagsM r.1.2
      | none => pure ()
      retireM
    else do
      let g ← if ps.isEmpty then pure none else microM c.el (.conv (firstKey ps) pe (ptrFmt p) sat mode seed x)
      modify (fun s => { s with th.r.seed := (convStored c.fmt sat mode seed 127 x).2 })
      orFlagsM ((g.map (fun g => g.flags)).getD 0)
      retireM

/-- ST.CVT (R137). -/
def execStCvt (d a : BitVec 5) (o : BitVec 12) (s : State) : Host.Outcome State Fault Refusal := finish (convStore false d a o) s
/-- ST.CVT.SAT (R137). -/
def execStCvtSat (d a : BitVec 5) (o : BitVec 12) (s : State) : Host.Outcome State Fault Refusal := finish (convStore true d a o) s

/-! Full/empty words. -/

/-- The word of a full/empty form (R138): its checked access and key. Full/empty forms bind an iteration (R323). -/
def feWord (a : BitVec 5) (o : BitVec 12) (rights : Nat) : M (Loc × Nat) := do
  let p ← getS a
  specOldest
  let l ← check p (disp 12 o 8) 8 8 rights only0
  specBind
  let s ← get
  return (l, lsKey s.coreNo (segBase l.seg + l.eo))

/-- A waiting form in the wrong state (R139): it parks, or traps ILLEGAL in slot 15 (R141). -/
def feWait (r : Nat) (p : Park) : M Unit := do
  let s ← get
  if s.slotNo = 15 then do
    set (s.pad (s.groupTask s.cur) r)
    illegal
  else parkM p

/-- A logged wait that meets poison traps BANK_POISON; its reserved record is padding (R133, R344). -/
def fePoison (r : Nat) (ptr : Word) : M Unit := do
  modify (fun s => s.pad (s.groupTask s.cur) r)
  trap tBankPoison ptr

/-- LDF and LDFE (R138, R139). -/
def feLoad (form : Nat) (d a : BitVec 5) (o : BitVec 12) : M Unit := do
  let (l, key) ← feWord a o (if form = 0 then rR else rR + rW)
  let lseg := segRights l.seg &&& rL ≠ 0
  let s ← get
  logGuard s.regionNo
  modify (fun s => (s.order s.cur [(key, 8)]).readErrors (s.groupTask s.cur) [(key, 8)])
  let s ← get
  if s.isPoison key then fePoison s.regionNo l.ptr
  else if !s.isFull key then feWait s.regionNo (.fullEmpty form key 0 d.toNat lseg)
  else
    let v := BitVec.ofNat 64 (s.readLE key 8)
    eventM s.regionNo (accessEv s 2 key (v.setWidth 32) false form lseg)
    setS d v
    retireM
    if form = 1 then modify (fun s => (s.setFull key false).serve key)

/-- LDF (R138). -/
def execLdf (d a : BitVec 5) (o : BitVec 12) (s : State) : Host.Outcome State Fault Refusal := finish (feLoad 0 d a o) s
/-- LDFE (R138). -/
def execLdfe (d a : BitVec 5) (o : BitVec 12) (s : State) : Host.Outcome State Fault Refusal := finish (feLoad 1 d a o) s

/-- STF (R138, R139). -/
def execStf (d a : BitVec 5) (o : BitVec 12) (s : State) : Host.Outcome State Fault Refusal :=
  finish (do
    let v ← getS d
    let (l, key) ← feWord a o (rR + rW)
    let lseg := segRights l.seg &&& rL ≠ 0
    logGuard s.regionNo
    modify (fun s => (s.order s.cur [(key, 8)]).readErrors (s.groupTask s.cur) [(key, 8)])
    let s ← get
    if s.isPoison key then fePoison s.regionNo l.ptr
    else if s.isFull key then feWait s.regionNo (.fullEmpty 2 key v 0 lseg)
    else
      eventM s.regionNo (accessEv s 1 key (v.setWidth 32) false 2 lseg)
      retireM
      modify (fun s => ((s.writeLE key 8 v.toNat).setFull key true).serve key)) s

/-- STFF, SETE and SETF (R138). -/
def feSet (mode : Nat) (v : Word) (a : BitVec 5) (o : BitVec 12) : M Unit := do
  let (l, key) ← feWord a o rW
  let _ ← microM l (.fe mode key v)
  retireM

/-- STFF (R138). -/
def execStff (d a : BitVec 5) (o : BitVec 12) (s : State) : Host.Outcome State Fault Refusal := finish (feSet 3 (s.rdS d) a o) s
/-- SETE (R138). -/
def execSete (a : BitVec 5) (o : BitVec 12) (s : State) : Host.Outcome State Fault Refusal := finish (feSet 4 0 a o) s
/-- SETF (R138). -/
def execSetf (a : BitVec 5) (o : BitVec 12) (s : State) : Host.Outcome State Fault Refusal := finish (feSet 5 0 a o) s

/-! Atomics. -/

/-- The spaces an AMO reaches (R144). -/
def amoSpace (sp : Nat) : Bool := sp ≤ 4

/-- AMO (R142, R143): check, then one atomic action; sd receives the old value. -/
def amo (op : Nat) (size8 : Bool) (d a b : BitVec 5) : M Unit := do
  let p ← getS a
  let vb ← getS b
  let vd ← getS d
  let n := if size8 then 8 else 4
  specOldest
  let l ← check p 0 n n rA amoSpace
  let pieces ← locate l n rA true
  specBind
  match ← if pieces.isEmpty then pure none else microM l (.amo op size8 (firstKey pieces) vb vd) with
  | some g => do
    setS d g.value
    orFlagsM g.flags
    retireM
  | none => retireM

/-- AMO.ADD (R143). -/
def execAmoAdd (d a b : BitVec 5) (z : BitVec 1) (s : State) : Host.Outcome State Fault Refusal := finish (amo 0 (z = 1) d a b) s

/-- AMO.MIN (R143). -/
def execAmoMin (d a b : BitVec 5) (z : BitVec 1) (s : State) : Host.Outcome State Fault Refusal := finish (amo 1 (z = 1) d a b) s

/-- AMO.MAX (R143). -/
def execAmoMax (d a b : BitVec 5) (z : BitVec 1) (s : State) : Host.Outcome State Fault Refusal := finish (amo 2 (z = 1) d a b) s

/-- AMO.MINU (R143). -/
def execAmoMinu (d a b : BitVec 5) (z : BitVec 1) (s : State) : Host.Outcome State Fault Refusal := finish (amo 3 (z = 1) d a b) s

/-- AMO.MAXU (R143). -/
def execAmoMaxu (d a b : BitVec 5) (z : BitVec 1) (s : State) : Host.Outcome State Fault Refusal := finish (amo 4 (z = 1) d a b) s

/-- AMO.SWAP (R143). -/
def execAmoSwap (d a b : BitVec 5) (z : BitVec 1) (s : State) : Host.Outcome State Fault Refusal := finish (amo 5 (z = 1) d a b) s

/-- AMO.CAS (R143). -/
def execAmoCas (d a b : BitVec 5) (z : BitVec 1) (s : State) : Host.Outcome State Fault Refusal := finish (amo 6 (z = 1) d a b) s

/-- AMO.AND (R143). -/
def execAmoAnd (d a b : BitVec 5) (z : BitVec 1) (s : State) : Host.Outcome State Fault Refusal := finish (amo 7 (z = 1) d a b) s

/-- AMO.OR (R143). -/
def execAmoOr (d a b : BitVec 5) (z : BitVec 1) (s : State) : Host.Outcome State Fault Refusal := finish (amo 8 (z = 1) d a b) s

/-- AMO.XOR (R143). -/
def execAmoXor (d a b : BitVec 5) (z : BitVec 1) (s : State) : Host.Outcome State Fault Refusal := finish (amo 9 (z = 1) d a b) s

/-- AMO.FADD (R143): .W only. -/
def execAmoFadd (d a b : BitVec 5) (s : State) : Host.Outcome State Fault Refusal := finish (amo 10 false d a b) s

/-! Sync words. -/

/-- The word of a sync form (R147, R148). -/
def syncWord (a : BitVec 5) (o : BitVec 12) (rights : Nat) : M (Loc × Nat) := do
  let p ← getS a
  specOldest
  let l ← check p (disp 12 o 16) 16 16 rights only012
  let pieces ← locate l 16 rights true
  specBind
  return (l, firstKey pieces)

/-- SYNCARM (R148). -/
def execSyncarm (d a : BitVec 5) (o : BitVec 12) (s : State) : Host.Outcome State Fault Refusal :=
  finish (do
    let (l, key) ← syncWord a o (rR + rW)
    let _ ← microM l (.sync 0 key ((s.rdS d).setWidth 32))
    retireM) s

/-- SYNCADD (R148, R149). -/
def execSyncadd (d a : BitVec 5) (o : BitVec 12) (s : State) : Host.Outcome State Fault Refusal :=
  finish (do
    let (l, key) ← syncWord a o (rR + rW)
    let _ ← microM l (.sync 1 key ((s.rdS d).setWidth 32))
    retireM) s

/-- WAITGEN (R150). -/
def execWaitgen (d a : BitVec 5) (o : BitVec 12) (s : State) : Host.Outcome State Fault Refusal :=
  finish (do
    let held := (s.rdS d).setWidth 32
    let (l, key) ← syncWord a o rR
    let lseg := segRights l.seg &&& rL ≠ 0
    let s ← get
    if s.goesOn then do
      let g ← strongM l (some (keyRegion key s.regionNo)) lseg [] []
      setS d g.value
      retireM
    else do
      logGuard (keyRegion key s.regionNo)
      if isBank key then do
        let _ ← strongM l (some (keyRegion key s.regionNo)) lseg [] [.wait key held d.toNat]
      else do
        modify (fun s => (s.order s.cur [(key, 16)]).readErrors (s.groupTask s.cur) [(key, 16)])
        let s ← get
        if s.syncPoison key then fePoison (keyRegion key s.regionNo) l.ptr
        else
          let w := s.readSync key
          if syncGen w = held.toNat then feWait (keyRegion key s.regionNo) (.waitgen key held d.toNat lseg l.ptr)
          else
            eventM (keyRegion key s.regionNo) (accessEv s 2 key (BitVec.ofNat 32 (syncGen w)) false 2 lseg)
            setS d ((w >>> 64).setWidth 64)
            retireM) s

/-- RLX (R145): the next word is marked. -/
def execRlx (s : State) : Host.Outcome State Fault Refusal :=
  let s := s.retire
  .next { s with th.is.rlx := true, th.is.stepped := false }

end Sys2Proof.Machine
end

