-- ==== Sys2Proof/Machine/Speculation.lean ====
section
/-! DEFINITION. Speculation groups (15): opening and closing a group, windows and guess routines, acceptance and commit, and the forms
of major 0x2C. While a group is open the owner is parked at its SPECB word and its registers are the committed state. -/

namespace Sys2Proof.Machine

/-! The SPECB word (Table 15-1). -/

def Spec.endOff (p : Spec) : Word := p.specb &&& 0xFF#64
def Spec.guessIx (p : Spec) : Nat := p.specb.toNat / 2 ^ 8 % 4
def Spec.mode (p : Spec) : Nat := p.specb.toNat / 2 ^ 10 % 4
/-- K by its code (Table 15-1). -/
def kOf (code : Nat) : Nat := 2 ^ (code + 1)
def Spec.k (p : Spec) : Nat := kOf (p.specb.toNat / 2 ^ 12 % 4)
/-- The SPECE word and the body's first word. -/
def Spec.endPc (p : Spec) : Word := p.specbPc + 4 * p.endOff
def Spec.bodyPc (p : Spec) : Word := p.specbPc + 4

/-- The position of the window's next decision (R320). -/
def Spec.posKey (p : Spec) (own a : Nat) : Nat := if p.inOwner then own else (p.slots.drop a).headD own

/-- Iterations of the open window. -/
def Spec.winN (p : Spec) : Nat := min (max p.width 1) (p.n - p.winW)

/-! Matching (R321). -/

/-- ord of an FP32 pattern. -/
def ordF32 (x : Word32) : Int := if x.getLsbD 31 then -((x.toNat % 2 ^ 31 : Nat) : Int) else (x.toNat % 2 ^ 31 : Nat)

/-- The magnitude of an exact value. -/
def FV.abs : FV → FV
  | .fin _ m e => .fin false m e
  | .inf _ => .inf false
  | .nan => .nan

def FV.isFin : FV → Bool
  | .fin _ _ _ => true
  | _ => false

/-- Whether a lane of a guess matches the true carry. -/
def laneMatch (mode : Nat) (tol g t : Word32) : Bool :=
  if g = t then true
  else if mode = 1 then
    f32 g ≠ .nan && f32 t ≠ .nan && decide ((ordF32 t - ordF32 g).natAbs ≤ tol.toNat)
  else if mode = 2 then
    (f32 g).isFin && (f32 t).isFin &&
    (FV.cmp ((f32 g).add false (f32 t).neg).1.abs ((f32 tol).abs.mul (f32 t).abs).1 ≠ some .gt)
  else false

/-- match(out, g) over the carry set. -/
def carryMatch (mode : Nat) (tol cs cv : Word32) (out g : Regs) : Bool :=
  (List.range 32).all (fun i => !cs.getLsbD i || out.rdS i = g.rdS i) &&
  (List.range 32).all (fun i => !cv.getLsbD i ||
    (List.range 32).all (fun j =>
      laneMatch mode tol (BitVec.ofNat 32 ((g.rdV i).toNat / 2 ^ (32 * j))) (BitVec.ofNat 32 ((out.rdV i).toNat / 2 ^ (32 * j)))))

/-- Registers with the carry set taken from others. -/
def Regs.withCarry (r g : Regs) (cs cv : Word32) : Regs :=
  let r := (List.range 32).foldl (fun r i => if cs.getLsbD i then r.wrS i (g.rdS i) else r) r
  (List.range 32).foldl (fun r i => if cv.getLsbD i then r.wrV i (g.rdV i) else r) r

/-! Starting routines and iterations. -/

/-- An iteration's generator seed (R41, R319). -/
def iterSeed (seed : Word) (j : Nat) : Word := seed ^^^ (BitVec.ofNat 64 j * 0x9E3779B97F4A7C15#64)

/-- The registers an iteration enters its body with (R319). -/
def iterRegs (base : Regs) (body : Word) (j : Nat) : Regs :=
  { base.wrS 1 (BitVec.ofNat 64 j) with pc := body, fp := 0, rep := {}, seed := iterSeed base.seed j }

/-- The registers a guess routine starts with (R318). -/
def guessRegs (base : Regs) (body entry : Word) (m j : Nat) : Regs :=
  { (base.wrS 1 (BitVec.ofNat 64 m)).wrS 31 body with pc := entry, fp := 0, rep := {}, seed := iterSeed base.seed j }

/-- A group slot set running with a role. -/
def Thread.startRole (t o : Thread) (own : Nat) (role : SpecRole) (r : Regs) (g : Option Regs) : Thread :=
  { t with st := .ready, r := r, id := o.id, is := { lastIss := t.is.lastIss }, w := {},
           sp := { owner := own, role := role, guess := g }, en := { o.en with gangN := 0, leader := 0, asm := [] } }

/-- The owner's own slot set running an iteration (R336). -/
def Thread.startOwn (t : Thread) (own j : Nat) (base : Regs) : Thread :=
  { t with st := .ready, r := iterRegs base t.sp.bodyPc j, is := { lastIss := t.is.lastIss, deferred := t.is.deferred },
           w := { t.w with park := .none }, sp := { t.sp with owner := own, role := .iter j, isBound := false, inOwner := true, base := some base } }

/-- The owner goes on at the SPECE word (R317, R328). -/
def Thread.closeGroup (t : Thread) : Thread :=
  { t with st := .ready, r.pc := t.sp.endPc, is := t.is.done, w.park := .none,
           sp := { t.sp with winOpen := false, base := none, role := .none, isBound := false, inOwner := false } }

/-- A window starts (R314, R318, R319), or the group closes when no iteration is left (R317). -/
def State.startWindow (s : State) (own : Nat) : State :=
  let o := s.getT own
  if o.sp.n ≤ o.sp.c then s.updT own Thread.closeGroup
  else
    let w := o.sp.c
    let s := s.updT own (fun t => { t with sp := { t.sp with winOpen := true, winW := w, winA := 0, base := some t.r } })
    if o.sp.slots = [] then s.updT own (fun t => t.startOwn own w o.r)
    else
      let entry := BitVec.ofNat 64 (4 * ((s.launchOf own).kernel.guess.drop o.sp.guessIx).headD 0)
      (List.range (min o.sp.width (o.sp.n - w))).foldl (fun s m =>
        s.updT (o.sp.posKey own m) (fun t =>
          if m = 0 then t.startRole o own (.iter w) (iterRegs o.r o.sp.bodyPc w) none
          else t.startRole o own (.guess m) (guessRegs o.r o.sp.bodyPc entry m (w + m)) none)) s

/-- WINDOW_START (R314): the owner waits with no window open. -/
def execWindowStart (owner : Nat) (s : State) : Host.Outcome State Fault Refusal :=
  let o := s.getT owner
  .next (if o.sp.act ∧ !o.sp.winOpen ∧ o.st = .parked ∧ o.w.park = .specIdle then s.startWindow owner else s)

/-! Decisions (R320). -/

/-- The order log's record of a decided window (R337); the window stays open while its record must wait (R347, R349). -/
def State.endWindow (s : State) (own : Nat) : State :=
  let o := s.getT own
  let r := regionOf (coreOf own)
  let done := fun (s : State) => s.updT own (fun t =>
    { t with st := .parked, w.park := .specIdle, sp := { t.sp with winOpen := false, base := none, windows := t.sp.windows + 1 } })
  if (s.log r).mode = 1 ∧ (s.log r).free = 0 then s
  else match s.event r own { kind := 9, task := o.id.task, object := 0xC000000000000000#64 ||| (o.sp.specbPc &&& 0xFFFFFFFF#64),
                             digest := BitVec.ofNat 32 o.sp.winW, aux := BitVec.ofNat 32 o.sp.winA } with
    | .perform s => done s
    | .wait => s
    | .diverge s x rep => s.freeze own tDiverge x 0 o.r.pc false false rep

/-- The next decision of an open window (R320): a confirmed guess, whose iteration is now the oldest, or a mismatch, which squashes. -/
def State.judge (s : State) (own : Nat) : State :=
  let o := s.getT own
  let a := o.sp.winA
  if o.sp.winN ≤ a then s
  else
    let k := o.sp.posKey own a
    let t := s.getT k
    match t.sp.role with
    | .none => s
    | .slot => s
    | .guess _ => if t.sp.noGuess then s.squashFrom own a else s
    | .iter _ =>
      let kern := (s.launchOf own).kernel
      if a ≠ 0 ∧ !carryMatch o.sp.mode o.sp.tol kern.carryS kern.carryV o.r (t.sp.guess.getD {}) then s.squashFrom own a
      else match t.sp.held with
        | some (code, addr, info) =>
          (s.updT k (fun t => { t with sp.held := none })).freeze k code addr info t.r.pc false false []
        | none => s

/-- Whether an open window is decided: every iteration of it has committed or has been squashed (R314). -/
def State.decided (s : State) (own : Nat) : Bool :=
  let o := s.getT own
  decide (o.sp.winN ≤ o.sp.winA) || decide ((s.getT (o.sp.posKey own o.sp.winA)).sp.role = .slot)

/-- Posted operations of an iteration become its owner's: their acknowledgements go to the owner (R259, R296). -/
def State.adopt (s : State) (k own : Nat) : State :=
  if k = own then s
  else
    let t := s.getT k
    let ff := fun (f : Flit) => if f.src = k then { f with src := own } else f
    let fr := fun (r : Reply) => if r.dst = k then { r with dst := own } else r
    let fc := fun (c : Core) => { c with u.retry := c.u.retry.map ff, u.hq := c.u.hq.map ff }
    let s := if t.w.posted = 0 ∧ t.w.park ≠ .reply then s
      else { s with net := s.net.map ff, acks := s.acks.map fr, reps := s.reps.map fr, cores := s.cores.map (fun p => (p.1, fc p.2)) }
    let s := { s with hal := s.hal.map (fun (f : HalFlit) => if f.src = k then { f with src := own } else f) }
    s.updT own (fun o =>
      { o with
        w.posted := o.w.posted + t.w.posted
        w.fadds := o.w.fadds + t.w.fadds
        w.hostDirty := o.w.hostDirty || t.w.hostDirty
        is.deferred := o.is.deferred ++ t.is.deferred })

/-- The end of commit(j) of R320, its stores and appends performed: the owner's registers. -/
def State.commitIter (s : State) (own k : Nat) : State :=
  let s := s.adopt k own
  let t := s.getT k
  let o := s.getT own
  let old := if k = own then o.sp.base.getD o.r else o.r
  let r : Regs := { t.r with pc := o.sp.specbPc, seed := old.seed, fp := old.fp ||| t.r.fp, rep := {} }
  let s := if k = own then s else s.updT k (fun t => { t.squashed with w := { park := .specIdle } })
  s.updT own (fun o =>
    { o with
      st := .parked
      r := r
      w.park := .specIdle
      sp := { o.sp with c := o.sp.c + 1, winA := o.sp.winA + 1, commits := o.sp.commits + 1, lastSeed := t.r.seed, role := .none,
                        isBound := false, inOwner := false, flushing := false, flush := 0 } })

/-- Whether the guess routine of an open window's next position still runs, and does not wait for the commit itself (R318). DEDUCED (log 16): the
commit before it waits, so that no window accepts a guess whose routine was still running when the previous iteration committed (R338), and no
guess is refused for its timing (R320, R322). -/
def State.guessRuns (s : State) (own : Nat) : Bool :=
  let o := s.getT own
  decide (o.sp.winA + 1 < o.sp.winN) &&
  (let t := s.getT (o.sp.posKey own (o.sp.winA + 1))
   t.isGuess && !t.sp.noGuess && t.w.park ≠ .oldest)

/-- SPEC_COMMIT (R320): the oldest iteration, retired, commits: its stores and appends are performed one at a time (R451), then its registers
become the owner's, and the next one is decided; a routine that has ended is judged; a decided window ends, with its record, in an event of its
own, which nothing orders against what the commit has handed over (R359). -/
def execSpecCommit (owner : Nat) (s : State) : Host.Outcome State Fault Refusal :=
  let o := s.getT owner
  if !o.sp.act ∨ !o.sp.winOpen then .next s
  else
    let k := o.sp.posKey owner o.sp.winA
    let t := s.getT k
    if s.decided owner then .next (s.endWindow owner)
    else if t.isIter ∧ t.st = .parked ∧ t.w.park = .specDone then
      .next (if s.guessRuns owner then s else if t.sp.flushed then (s.commitIter owner k).judge owner else s.flushStep k)
    else .next (s.judge owner)

/-- GUESS_END (R318): the slot of a routine that fetches the body's first word holds the guess, and enters the body (R319); when
every older iteration has committed, the guess is judged at once. -/
def execGuessEnd (thread : Nat) (s : State) : Host.Outcome State Fault Refusal :=
  let t := s.getT thread
  let o := s.getT t.sp.owner
  match t.sp.role with
  | .guess m =>
    if t.st ≠ .ready ∨ t.r.pc ≠ o.sp.bodyPc then .next s
    else
      let kern := (s.launchOf t.sp.owner).kernel
      let j := o.sp.winW + m
      let base := (o.sp.base.getD o.r).withCarry t.r kern.carryS kern.carryV
      let s := s.updCore (coreOf thread) (fun c => c.forget thread)
      let s := s.updT thread (fun x => x.startRole o t.sp.owner (.iter j) (iterRegs base o.sp.bodyPc j) (some t.r))
      let s := { s with issuing := false }
      .next (if m = o.sp.winA then s.judge t.sp.owner else s)
  | _ => .next s

/-! Instructions. -/

/-- Group slots taken for an owner (R313). DESIGN CHOICE (log 16): what an EMPTY slot's halyard buffer keeps for another launch (R217) stays in
it, as R217 sorts a buffer at dispatch and resumption only. -/
def State.takeSlots (s : State) (own : Nat) (l : List Nat) : State :=
  let s := l.foldl (fun s k => s.updT k (fun t =>
    { t with st := .parked, id := (s.getT own).id, w := { park := .specIdle }, sp := { owner := own, role := .slot } })) s
  s.updT own (fun t => { t with sp.slots := l })

/-- Group slots return to EMPTY (R313); the units that their iterations claimed stay held (R230). -/
def State.freeSlots (s : State) (own : Nat) : State :=
  let s := (s.getT own).sp.slots.foldl (fun s k => s.setT k {}) s
  s.updT own (fun t => { t with sp.slots := [] })

/-- The tolerance check of SPECB (R317, step 4). -/
def tolOk (mode : Nat) (d : BitVec 5) (x : Word32) : M Unit :=
  if mode = 0 then need (d = 0)
  else if mode = 2 then
    match f32 x with
    | .fin neg m _ => if neg ∧ m ≠ 0 then specTrap else pure ()
    | _ => specTrap
  else pure ()

/-- SPECB (R316, R317): after the wait for the owner's earlier work its checks are made again with what then stands (DESIGN CHOICE). -/
def execSpecb (t n : BitVec 5) (k m g : BitVec 2) (e : BitVec 8) (s : State) : Host.Outcome State Fault Refusal :=
  let w := kOf k.toNat
  let count := (s.rdS n).toNat
  finish (do
    need (decide (k.toNat < 3) && decide (m.toNat < 3) && decide (2 ≤ e.toNat))
    notHandler
    if s.th.sp.role ≠ .none ∨ s.th.en.gangN ≠ 0 ∨ s.th.sp.act then specTrap
    if 2 ^ 24 ≤ count then specTrap
    if ((s.launchOf s.cur).kernel.guess.drop g.toNat).headD 0xFFFFFFFF = 0xFFFFFFFF then specTrap
    tolOk m.toNat t ((s.rdS t).setWidth 32)
    if (s.openSlots s.coreNo).length < w then specTrap
    waitM .all
    let s ← get
    let s := { s with th.sp := { s.th.sp with
      act := true, abort := false, bound := false, width := w, n := count, c := 0, tol := (s.rdS t).setWidth 32,
      specb := s.word.setWidth 64, specbPc := s.th.r.pc, winOpen := false, base := none, lastSeed := s.th.r.seed } }
    let s := s.takeSlots s.cur ((s.openSlots s.coreNo).take w)
    if count = 0 then set { s with th := s.th.closeGroup }
    else do
      set s
      parkM .specIdle) s

/-- SPECE (R329). -/
def execSpece (s : State) : Host.Outcome State Fault Refusal :=
  let p := s.th.sp
  finish (do
    notHandler
    if p.role ≠ .none ∨ !p.act ∨ ¬(p.abort ∨ p.n ≤ p.c) then specTrap
    let seed := if p.c = 0 then s.th.r.seed else p.lastSeed
    modify (fun s =>
      let s := s.freeSlots s.cur
      { s with th.r.seed := seed, th.sp.act := false })
    retireM) s

/-- SPCMP (R319): the iteration's slot waits for commit or squash, its PC at this word. -/
def execSpcmp (s : State) : Host.Outcome State Fault Refusal :=
  finish (do
    notHandler
    if !s.th.isIter ∨ s.th.r.pc + 4 ≠ s.groupOwner.sp.endPc then specTrap
    parkM .specDone) s

/-- SPABORT (R328). -/
def execSpabort (s : State) : Host.Outcome State Fault Refusal :=
  finish (do
    notHandler
    if !s.th.isIter then specTrap
    if !s.isOldest s.cur then parkM .oldest
    let own := s.th.sp.owner
    let o := s.getT own
    modify (fun s =>
      let s := if own = s.cur then
          { s with th := { s.th with r := s.th.sp.base.getD s.th.r
                                     sp := { s.th.sp with buf := [], app := [], squashes := s.th.sp.squashes + 1 } } }
        else (s.adopt s.cur own).squashFrom own o.sp.winA
      let s := s.freeSlots own
      s.updT own (fun t => { t.closeGroup with sp := { t.closeGroup.sp with abort := true } }))) s

/-- SPAPPEND (R327): at once outside a group and in a bound iteration, tentative in any other iteration. -/
def execSpappend (d a : BitVec 5) (s : State) : Host.Outcome State Fault Refusal :=
  finish (do
    notHandler
    if s.th.isGuess then specTrap
    let l ← check (s.rdS a) 0 64 64 (rR + rW) only0
    match ← readM l 64 with
    | none => retireM
    | some b => do
      let s ← get
      let key := lsKey s.coreNo (segBase l.seg + l.eo)
      let x := leNat b
      let fmt := BitVec.ofNat 6 (x / 2 ^ 336 % 64)
      let rows := x / 2 ^ 320 % 2 ^ 16
      let f := formatOf fmt
      if x / 2 ^ 342 % 4 ≠ 0 ∨ !(f = .flt .f32 || f = .flt .f16 || f = .flt .bf16 || (match f with
          | .flt (.b8 _ _ _) => true
          | _ => false)) then
        throw (.trap tFormat l.ptr (fmt.setWidth 64))
      if rows % 32 ≠ 0 ∨ rows = 0 ∨ 128 < rows ∨ x / 2 ^ 288 % 2 ^ 32 = 0 ∨ x / 2 ^ 348 % 8 ≠ 0 ∨ x / 2 ^ 352 ≠ 0 then
        trap tEngine l.ptr
      let row := s.rdV d
      let direct : M Unit := do
        let s ← get
        match (if s.appendFull key then none else s.appendCheck s.cur key) with
        | some (code, p) => trap code p
        | none => do
          set (s.performAppend s.cur key row)
          retireM
      if s.buffers then do
        let ok ← roomLoop (rows / 32 + 1) 9
        if ok then do
          modify (fun s => { s with th.sp.app := s.th.sp.app ++ [{ row := row, desc := key, ptr := l.ptr, entries := rows / 32 + 1 }] })
          retireM
        else direct
      else direct) s

/-- SPSTAT (R331). -/
def execSpstat (d : BitVec 5) (n : BitVec 8) (s : State) : Host.Outcome State Fault Refusal :=
  let o := s.groupOwner.sp
  let own := if s.th.sp.role = .none then s.cur else s.th.sp.owner
  finish (do
    need (decide (n.toNat < 5))
    notHandler
    setS d (match n.toNat with
      | 0 => o.tol.setWidth 64
      | 1 => o.windows
      | 2 => o.commits
      | 3 => o.squashes
      | _ => BitVec.ofNat 64 (((own :: o.slots).map (fun k => (s.getT k).sp.entries)).foldl (· + ·) 0))
    retireM) s

end Sys2Proof.Machine
end

