-- ==== Sys2Proof/Machine/Context.lean ====
section
/-! DEFINITION. Contexts (19, R392 to R407): the save area, the folding of a speculation group (R335, R336), a save and its quiesce, a
resumption, and CTXSAVE, CTXLOAD, COLOUR and WAKE. -/

namespace Sys2Proof.Machine

/-! The save area (Table 19-6). -/

def segImage (g : BitVec 256) : List Byte :=
  leBytes 24 (segBase g + segLimit g * 2 ^ 56 + segSpace g * 2 ^ 104 + segRights g * 2 ^ 108 + segScale g * 2 ^ 114 +
    segCore g * 2 ^ 170 + segLregion g * 2 ^ 178 + segCluster g * 2 ^ 183 + segWindow g * 2 ^ 185)

def segOfImage (b : List Byte) : BitVec 256 :=
  let x := leNat (b.take 24)
  segMake (x % 2 ^ 56) (x / 2 ^ 56 % 2 ^ 48) (x / 2 ^ 104 % 2 ^ 4) (x / 2 ^ 108 % 2 ^ 6) (x / 2 ^ 114 % 2 ^ 56) (x / 2 ^ 170 % 2 ^ 8)
    (x / 2 ^ 178 % 2 ^ 5) (x / 2 ^ 183 % 4) (x / 2 ^ 185 % 4)

/-- The register part, bytes 0x0000 to 0x11FF; `fcode` is FCODE. -/
def Thread.regPart (t : Thread) (fcode : BitVec 8) : List Byte :=
  let r := t.r
  leBytes 8 r.pc.toNat ++
  (List.range 31).flatMap (fun i => leBytes 8 (r.rdS (i + 1)).toNat) ++
  (List.range 32).flatMap (fun i => leBytes 128 (r.rdV i).toNat) ++
  (List.range 7).flatMap (fun i => leBytes 4 (r.rdK (i + 1)).toNat) ++
  leBytes 4 (r.fp.toNat + r.rmode.toNat * 2 ^ 4 + fcode.toNat * 2 ^ 8) ++
  leBytes 8 r.seed.toNat ++ leBytes 8 r.rep.word.toNat ++ leBytes 8 t.sp.stat.toNat ++ leBytes 8 t.id.task.toNat ++
  (List.range 8).flatMap (fun i => segImage (r.rdG i))

/-- What the memory part holds beside the thread's own state. -/
structure SaveInfo where
  units : Nat
  home : Nat
  frozen : Bool
  results : Bool
  descs : List (List (BitVec 128))
  pend : Nat
  sfPend : Nat
deriving DecidableEq, Repr

def beatBytes (l : List (BitVec 128)) : List Byte := l.flatMap (fun b => leBytes 16 b.toNat)
def padTo (n : Nat) (b : List Byte) : List Byte := (b ++ List.replicate n 0#8).take n

/-- The memory part, bytes 0x1200 to 0x13FF. -/
def Thread.memPart (t : Thread) (i : SaveInfo) : List Byte :=
  let d := t.is.deferred.headD { code := 0, pc := 0, ptr := 0 }
  let quiet := ((List.range 4).map (fun p => if SMap.get false t.en.quiet p then 2 ^ p else 0)).foldl (· + ·) 0
  let asm := ((List.range 4).map (fun p => (SMap.get [] t.en.asm p).length * 2 ^ (2 * p))).foldl (· + ·) 0
  leBytes 4 t.en.logN.toNat ++ leBytes 4 i.sfPend ++ leBytes 2 i.units ++ leBytes 2 i.home ++
  leBytes 1 ((if t.id.priv then 1 else 0) + (if i.frozen then 2 else 0) + (if i.results then 4 else 0)) ++
  leBytes 1 d.code.toNat ++ leBytes 1 (quiet + i.descs.length * 16) ++ leBytes 1 asm ++ leBytes 4 i.pend ++
  leBytes 4 d.pc.toNat ++ leBytes 8 d.ptr.toNat ++ leBytes 4 t.sp.tol.toNat ++
  leBytes 4 (if t.sp.bound then t.sp.specbPc.toNat else 0) ++
  leBytes 8 t.sp.windows.toNat ++ leBytes 8 t.sp.commits.toNat ++ leBytes 8 t.sp.squashes.toNat ++
  (List.range 4).flatMap (fun p => padTo 48 (beatBytes (SMap.get [] t.en.asm p))) ++
  padTo 256 (i.descs.flatMap beatBytes)

/-- REPST read back (Table 03-10). -/
def repOf (x : Nat) : Rep :=
  if bit x 33 then
    { act := true, pass := x / 2 ^ 28 % 32, idx := x / 2 ^ 24 % 16, lenm1 := x / 2 ^ 20 % 16, nm1 := x / 2 ^ 15 % 32,
      sd := x / 2 ^ 10 % 32, sa := x / 2 ^ 5 % 32, sb := x % 32 }
  else {}

/-- Registers read from a register part. -/
def regsOfImage (b : List Byte) : Regs :=
  let misc := fieldAt b 0x111C 4
  let r : Regs := { pc := BitVec.ofNat 64 (fieldAt b 0 8), fp := BitVec.ofNat 4 misc, rmode := BitVec.ofNat 3 (misc / 16),
                    seed := BitVec.ofNat 64 (fieldAt b 0x1120 8), rep := repOf (fieldAt b 0x1128 8) }
  let r := (List.range 31).foldl (fun r i => r.wrS (i + 1) (BitVec.ofNat 64 (fieldAt b (8 * (i + 1)) 8))) r
  let r := (List.range 32).foldl (fun r i => r.wrV i (BitVec.ofNat 1024 (fieldAt b (0x100 + 128 * i) 128))) r
  let r := (List.range 7).foldl (fun r i => r.wrK (i + 1) (BitVec.ofNat 32 (fieldAt b (0x1100 + 4 * i) 4))) r
  (List.range 8).foldl (fun r i => r.wrG i (segOfImage (b.drop (0x1140 + 24 * i)))) r

def beatsAt (b : List Byte) (off n : Nat) : List (BitVec 128) :=
  (List.range n).map (fun i => BitVec.ofNat 128 (fieldAt b (off + 16 * i) 16))

/-- The thread an area's 5,120 bytes hold, but for what depends on where it is loaded. -/
def threadOfImage (b : List Byte) : Thread :=
  let st := fieldAt b 0x1130 8
  let fl := fieldAt b 0x120C 1
  let eng := fieldAt b 0x120E 1
  let asm := fieldAt b 0x120F 1
  let code := BitVec.ofNat 8 (fieldAt b 0x120D 1)
  { st := .ready
    r := regsOfImage b
    id := { task := BitVec.ofNat 64 (fieldAt b 0x1138 8), priv := bit fl 0 }
    is := { deferred := if code = 0 then []
              else [{ code := code, pc := BitVec.ofNat 64 (fieldAt b 0x1214 4), ptr := BitVec.ofNat 64 (fieldAt b 0x1218 8) }] }
    sp := { act := bit st 63, bound := bit st 62, abort := bit st 61, width := st / 2 ^ 48 % 16, n := st / 2 ^ 24 % 2 ^ 24,
            c := st % 2 ^ 24, tol := BitVec.ofNat 32 (fieldAt b 0x1220 4), windows := BitVec.ofNat 64 (fieldAt b 0x1228 8),
            commits := BitVec.ofNat 64 (fieldAt b 0x1230 8), squashes := BitVec.ofNat 64 (fieldAt b 0x1238 8),
            specbPc := if bit st 62 then BitVec.ofNat 64 (fieldAt b 0x1224 4) else BitVec.ofNat 64 (fieldAt b 0 8) }
    en := { logN := BitVec.ofNat 32 (fieldAt b 0x1200 4)
            quiet := (List.range 4).foldl (fun m p => SMap.set false m p (bit eng p)) []
            asm := (List.range 4).foldl (fun m p => SMap.set [] m p (beatsAt b (0x1240 + 48 * p) (asm / 2 ^ (2 * p) % 4))) []
            repush := (List.range (eng / 16 % 8)).map (fun i => beatsAt b (0x1300 + 64 * i) 4) } }

/-! Areas. -/

def areaKey (r dva : Nat) : Nat := r * 2 ^ 56 + dva

/-- The lowest free area of a region's save pool: its DVA (R393). -/
def State.poolArea (s : State) (r : Nat) : Option Nat :=
  let g := s.region r
  ((List.range g.poolCount.toNat).map g.poolAt).find? (fun a => !g.poolHeld.contains a)

/-- An area is held from now on (R393). -/
def State.holdArea (s : State) (r dva : Nat) : State := s.updRegion r (fun g => { g with poolHeld := dva :: g.poolHeld })

/-- The context cache of a core takes a register part, writing its oldest entry back when it is full (R392). -/
def State.cacheContext (s : State) (core key : Nat) (b : List Byte) : Option State :=
  let l := (s.core core).cache.filter (fun e => e.1 ≠ key)
  let put := fun (s : State) (l : List (Nat × List Byte)) => s.updCore core (fun c => { c with cache := l ++ [(key, b)] })
  match l with
  | e :: r =>
    if l.length < 7 then some (put s l)
    else (s.writeDva (e.1 / 2 ^ 56) (e.1 % 2 ^ 56) e.2).map (fun s => put s r)
  | [] => some (put s [])

/-- The register part of an area as a load finds it: written back first by the core that caches it (R392). -/
def State.flushContext (s : State) (key : Nat) : Option State :=
  (s.cores.map (fun p => p.1)).foldl (fun (acc : Option State) c =>
    acc.bind (fun s =>
      match (s.core c).cache.find? (fun e => e.1 = key) with
      | none => some s
      | some e =>
        (s.writeDva (key / 2 ^ 56) (key % 2 ^ 56) e.2).map (fun s =>
          s.updCore c (fun x => { x with cache := x.cache.filter (fun e => e.1 ≠ key) })))) (some s)

/-! Folding a group (R335). -/

/-- What an iteration has queued becomes its owner's (R335). -/
def Core.rekey (c : Core) (k own : Nat) : Core :=
  let req := fun (q : RelReq) => if q.who = k then { q with who := own } else q
  let unit := fun (q : UnitCmd) => if q.who = k then { q with who := own } else q
  { c with
    seq := c.seq.map req
    wheel := c.wheel.map req
    far := c.far.map req
    mem := c.mem.map req
    u.vcq := c.u.vcq.map unit
    u.sfq := c.u.sfq.map unit
    u.intake := c.u.intake.map (fun q => if q.who = k then { q with who := own } else q) }

/-- What an iteration has pushed is its owner's from now on (R335, R395): its commands, wherever they stand, and its result elements. -/
def State.rekeyCmds (s : State) (k own : Nat) : State :=
  let task := s.groupTask k
  let cmd := fun (c : Cmd) => if c.thread = k ∧ c.task = task then { c with thread := own } else c
  let res := fun (x : Result) => if x.slot = slotOf k ∧ x.task = task then { x with slot := slotOf own } else x
  let s := { s with engines := s.engines.map (fun (p : Nat × List Cmd) => (p.1, p.2.map cmd)) }
  (s.updCore (coreOf k) (fun c =>
    { c with u.fifoIn := c.u.fifoIn.map (fun (p : Nat × List Cmd) => (p.1, p.2.map cmd)),
             u.fifoOut := c.u.fifoOut.map (fun (p : Nat × List Result) => (p.1, p.2.map res)) })).updRegion
    (regionOf (coreOf k)) (fun g => { g with port3 := g.port3.map cmd })

/-- A commit that is under way when its group is folded is completed first (R320, R451). -/
def State.endCommit (s : State) (own : Nat) : State :=
  let o := s.getT own
  let k := o.sp.posKey own o.sp.winA
  let t := s.getT k
  if o.sp.winOpen ∧ t.isIter ∧ t.w.park = .specDone ∧ t.sp.flushing then (s.flushIter k).commitIter own k else s

/-- A group folded into its owner's slot: what the save area cannot hold, and whether the iteration kept was FROZEN. -/
def State.foldGroup (s : State) (own : Nat) : State × Option SpecSave × Bool :=
  if !(s.getT own).sp.act then (s, none, false)
  else
    let s := s.endCommit own
    let o := s.getT own
    let k := o.sp.posKey own o.sp.winA
    if o.sp.winOpen ∧ (s.getT k).isIter ∧ (s.getT k).sp.isBound then
      let s := s.flushIter k
      let o := s.getT own
      let t := s.getT k
      let base := if k = own then o.sp.base.getD o.r else o.r
      let s := ((s.squashFrom own (o.sp.winA + 1)).adopt k own).updCore (coreOf k) (fun c => c.rekey k own)
      let s := if k = own then s else s.rekeyCmds k own
      let s := if t.st = .frozen then s.setLastCode own (s.lastCode k) else s
      let s := s.updT own (fun o =>
        { o with
          r := { t.r with seed := base.seed }
          is := { t.is with lastIss := o.is.lastIss, deferred := o.is.deferred }
          w := { t.w with posted := o.w.posted, fadds := o.w.fadds, hostDirty := o.w.hostDirty }
          en := { o.en with asm := t.en.asm, quiet := t.en.quiet }
          sp := { o.sp with bound := true, winOpen := false, role := .none, isBound := false, inOwner := false, base := none } })
      (s.freeSlots own, some { lastSeed := o.sp.lastSeed, iterSeed := some t.r.seed, base := some base }, t.st = .frozen)
    else
      let live := o.sp.winOpen && o.isIter
      let s := s.squashFrom own o.sp.winA
      let s := if live then s.updCore (coreOf own) (fun c => c.forget own) else s
      let s := s.updT own (fun o =>
        { o with
          r := if live then o.sp.base.getD o.r else o.r
          is := if live then { lastIss := o.is.lastIss, gap := o.is.gap, deferred := o.is.deferred } else o.is
          w := if live then { o.w with park := .none, acc := {} } else o.w
          sp := { o.sp with winOpen := false, role := .none, isBound := false, inOwner := false, base := none, buf := [], app := [],
                            flushing := false, flush := 0, held := none, squashes := if live then o.sp.squashes + 1 else o.sp.squashes } })
      (s.freeSlots own, some { lastSeed := o.sp.lastSeed }, false)

/-! A save (R394, R395). -/

/-- A save begins: the gang disbands, a group is folded, and the slot is SAVING. An instruction whose strong access is under way goes on until the
access has been performed; any other that waits will be issued again (R123, R303, R394). -/
def State.beginSave (s : State) (k area kind : Nat) (auto unrec : Bool) : State :=
  let was := decide ((s.getT k).st = .frozen)
  let slots := (s.getT k).sp.slots
  let s := s.disbandGang k
  let (s, spec, fz) := s.foldGroup k
  s.updT k (fun t => { (if t.w.park = .access then t else t.rewind) with
    st := .saving
    en.save := some { area := area, kind := kind, frozen := was || fz, spec := spec, auto := auto, unrec := unrec, slots := slots } })

/-- The descriptor a command is returned as: START or NSTART set (R275, R280, R395). -/
def Cmd.returned (c : Cmd) : List (BitVec 128) :=
  let b := (c.beat 0).toNat
  let b0 := if c.kind = 1 then b / 2 ^ 44 * 2 ^ 44 + c.next * 2 ^ 24 + b % 2 ^ 24
    else b / 2 ^ 37 * 2 ^ 37 + c.index * 2 ^ 32 + b % 2 ^ 32
  BitVec.ofNat 128 b0 :: (c.beats.drop 1)

/-- The destination bytes a returned command has still to write (R395). -/
def Cmd.remaining (c : Cmd) : Nat :=
  if c.kind = 1 then c.total * c.wd - 2048 * c.next else (c.nidx - c.index) * c.bb

/-- The port of a returned descriptor: COPY on 0, GATHER on 1. -/
def descPort (b : List (BitVec 128)) : Nat := if (b.headD 0).toNat % 16 = 1 then 0 else 1

/-- The bytes a descriptor that has not been pushed again has still to write (R395). -/
def State.descRemaining (s : State) (k : Nat) (b : List (BitVec 128)) : Nat :=
  match s.makeCmd k (descPort b) b with
  | .ok c => c.remaining
  | .error _ => 0

/-- Whether a SAVING thread has nothing left to wait for (R394, R395): special-function requests are not waited for (R209). -/
def State.quiesced (s : State) (k : Nat) : Bool :=
  let t := s.getT k
  let u := (s.core (coreOf k)).u
  (s.relReqs k).isEmpty && (t.en.save.all (fun j => j.slots.all (fun i => (s.relReqs i).all (fun q => q.task ≠ lostTask)))) && s.netQuiet k && decide ((s.returnables k).length + t.en.repush.length ≤ 4) &&
  !u.vcq.any (fun q => s.isOwn k q.who q.task) && !u.intake.any (fun q => s.isOwn k q.who q.task) &&
  (s.threadCmds k).all (fun c => c.returnable && c.started.isNone && !c.busy) &&
  (match t.w.park with
    | .access => false
    | .reply => false
    | .bankret _ _ _ => false
    | .ctxsave _ _ _ => false
    | _ => true)

/-- The returned commands leave their queues, and their reservations are released (R395). -/
def State.dropCmds (s : State) (k : Nat) : State :=
  let core := coreOf k
  let task := s.groupTask k
  let keep := fun (c : Cmd) => c.thread ≠ k || c.task ≠ task
  let l := s.threadCmds k
  let s := (List.range 3).foldl (fun s p => s.setEngine (engineOf core p) ((s.engine (engineOf core p)).filter keep)) s
  let s := s.updCore core (fun x =>
    { x with u.fifoIn := (List.range 3).foldl (fun m p => SMap.set [] m p ((SMap.get [] m p).filter keep)) x.u.fifoIn })
  l.foldl (fun s c => s.unreserve core c.port) s

/-- Port-3 commands in the FIFO go to the supervisor (R395). -/
def State.deliverPort3 (s : State) (k : Nat) : State :=
  let core := coreOf k
  let task := s.groupTask k
  let mine := fun (c : Cmd) => c.thread = k && c.task = task
  let l := (SMap.get [] (s.core core).u.fifoIn 3)
  (s.updCore core (fun x => { x with u.fifoIn := SMap.set [] x.u.fifoIn 3 (l.filter (fun c => !mine c)) })).updRegion (regionOf core)
    (fun g => { g with port3 := g.port3 ++ l.filter mine })

/-- The vector registers of a slot's thread that await a special-function result, as bits (R209). -/
def State.sfPending (s : State) (k : Nat) : Nat :=
  (dedup (((s.core (coreOf k)).u.sfq.filter (fun q => s.isOwn k q.who q.task)).flatMap (fun q => q.regs))).foldl (fun n r => n + 2 ^ r) 0

/-- The CTXSAVE that waits for a slot's save completes (R399). -/
def State.finishCtxsave (s : State) (k area : Nat) : State :=
  (List.range 16).foldl (fun s i =>
    let j := 16 * coreOf k + i
    match (s.getT j).w.park with
    | .ctxsave d slot _ =>
      if slot = slotOf k ∧ ((s.getT j).st = .parked ∨ (s.getT j).st = .saving) then
        s.updT j (fun t => t.complete (fun r => r.wrS d (BitVec.ofNat 64 area)))
      else s
    | _ => s) s

/-- The save of a quiesced thread written (R392, R394 to R396): the slot is EMPTY, its units are held by the saved context, and the
placement is logged. None while a page or a record must wait. -/
def State.finishSave (s : State) (k : Nat) (j : SaveJob) : Option State :=
  let core := coreOf k
  let r := regionOf core
  let s := (s.deliverPort3 k).updT k Thread.rewind
  let t := s.getT k
  let old := t.en
  let rets := s.returnables k
  let units := (s.core core).u.held (slotOf k)
  let results := (List.range 4).any (fun p => (SMap.get [] (s.core core).u.fifoOut p).any (fun x => x.task = t.id.task)) ||
    (s.region r).port3.any (fun c => c.task = t.id.task && c.core = core)
  let info : SaveInfo :=
    { units := units, home := core, frozen := j.frozen, results := results, descs := rets.map Cmd.returned ++ t.en.repush,
      pend := (rets.map Cmd.remaining ++ t.en.repush.map (s.descRemaining k)).foldl (· + ·) 0, sfPend := s.sfPending k }
  let placed := if j.unrec then some s else s.placement t.id.task t.en.logN j.kind core false
  placed.bind (fun s =>
    (s.writeDva r (j.area + 0x1200) (t.memPart info)).bind (fun s =>
      (s.cacheContext core (areaKey r j.area) (t.regPart (if j.frozen then s.lastCode k else 0))).map (fun s =>
        let s := if old.moved then s.freeArea old.areaReg old.area else s
        let n := taskKey t.id.task
        let s := s.updCore core (fun c => { c with
          flush := c.flush.filter (fun x => x ≠ k)
          u.hold := c.u.hold.map (fun p => if p.2 = slotOf k + 1 then (p.1, 16) else p) })
        let s := s.setLaunch n (let l := s.launch n; { l with holds := l.holds ++ [(t.id.task, core)] })
        let s := s.updRegion r (fun g => { g with contexts := g.contexts.filter (fun x => x.area ≠ j.area) ++ [{
          area := j.area, task := t.id.task, home := core, scope := t.id.scope, frozen := j.frozen, auto := j.auto, unrec := j.unrec,
          bound := decide (units ≠ 0) || results, saves := old.saves + 1, spec := j.spec, hostDirty := t.w.hostDirty,
          deferred := t.is.deferred.drop 1,
          kept := if j.kind = 8 then some k else none }] })
        let s := s.dropCmds k
        ((s.setT k {}).reclaim n).finishCtxsave k j.area)))

/-- CONTEXT_SAVE (R394): the save of a SAVING slot is written once everything it waits for is done. -/
def execContextSave (thread : Nat) (s : State) : Host.Outcome State Fault Refusal :=
  match (s.getT thread).st, (s.getT thread).en.save with
  | .saving, some j => if s.quiesced thread then .next ((s.finishSave thread j).getD s) else .next s
  | _, _ => .next s

/-! A resumption (R336, R397, R406). -/

/-- The local store a launch's window uses on a core: start and size (R130). -/
def Launch.lsUsed (l : Launch) (core : Nat) : Option (Nat × Nat) := (l.window core).map (fun w => (w, l.windowSize))

/-- The starts at which `n` bytes fit between used ranges. -/
def fitsAt (used : List (Nat × Nat)) (n extent align : Nat) : List Nat :=
  ((List.range (extent / align + 1)).map (fun i => align * i)).filter
    (fun a => decide (a + n ≤ extent) && used.all (fun u => n = 0 || u.2 = 0 || !overlap (a, n) u))

/-- The start a window takes: some start at which it fits (the free value `pick` says which); none when there is none. -/
def windowFit (pick : Nat) (used : List (Nat × Nat)) (n extent align : Nat) : Option Nat :=
  match fitsAt used n extent align with
  | [] => none
  | a :: r => some ((a :: r).getD (pick % (r.length + 1)) a)

/-- A place for a launch's local-store window on a core, if there is one (R129, R130). -/
def State.lsFit (s : State) (n core : Nat) : Option Nat :=
  let used := s.launches.filterMap (fun p => p.2.lsUsed core)
  windowFit (Config.windowPlace n core (s.clockAt core)) used (s.launch n).windowSize 196608 128

/-- The window allotted: every word empty, then the data image, whose words are full (R130, R367). -/
def State.allotWindow (s : State) (n core start : Nat) : State :=
  let l := s.launch n
  let s := s.setLaunch n { l with lsWin := l.lsWin ++ [(core, start)] }
  let words := (List.range (l.windowSize / 8)).map (fun i => lsKey core start + 8 * i)
  let s := words.foldl (fun s w => s.setFull w false) s
  let s := (s.writeCells (cellsOf (lsKey core start) l.kernel.data)).1
  ((List.range ((l.kernel.data.length + 7) / 8)).map (fun i => lsKey core start + 8 * i)).foldl (fun s w => s.setFull w true) s

/-- A window of a launch on a core, with its start; none when it does not fit. -/
def State.needWindow (s : State) (n core : Nat) : Option (State × Nat) :=
  match (s.launch n).window core with
  | some w => some (s, w)
  | none => (s.lsFit n core).map (fun w => (s.allotWindow n core w, w))

/-- Space-0 segments moved from one window to another (R406). -/
def Regs.rebase (r : Regs) (old new : Nat) : Regs :=
  (List.range 8).foldl (fun r i =>
    let g := r.rdG i
    if segSpace g = 0 ∧ segLimit g ≠ 0 then
      r.wrG i (segMake (segBase g + new - old) (segLimit g) 0 (segRights g) (segScale g) 0 0 0 0)
    else r) r

/-- The SPECB word at a PC of a task's code, for K (R336). -/
def State.specbAt (s : State) (k : Nat) (pc : Word) : Option (BitVec 32) :=
  match s.codeKey k pc.toNat with
  | (s, .ok p) =>
    let l := s.launchOf k
    some (patchWord l.params l.kernel.patches (pc.toNat / 4) (s.wordAt p))
  | _ => none

/-- Whether a thread's group has iterations left to run (R336). -/
def Spec.goesOn (p : Spec) : Bool := p.act && !p.abort && (decide (p.c < p.n) || p.bound)

/-- A loaded thread goes on: READY, or an owner whose windows go on (R336), which waits for them. -/
def Thread.settled (t : Thread) : Thread :=
  if t.sp.goesOn && t.sp.role = .none then { t with st := .parked, w.park := .specIdle } else t.wake

/-- A loaded thread with a group goes on with it (R336), `w` being its SPECB word: group slots are taken, or the bound iteration runs on in its
slot. A group that is finished or aborted keeps only what SPECE needs (R329). DESIGN CHOICE (log 16): a bound iteration that runs on is a window
of its own, decided with w = C and a = 1, so that it has its record (R337) and is counted. -/
def State.resumeGroup (s : State) (k : Nat) (w : BitVec 32) (spec : Option SpecSave) : State :=
  let t := s.getT k
  let sv := spec.getD { lastSeed := t.r.seed }
  if !t.sp.goesOn then s.updT k (fun t => { t with sp.lastSeed := sv.lastSeed })
  else
    let want := min (kOf (w.toNat / 2 ^ 12 % 4)) (s.openSlots (coreOf k)).length
    let s := s.takeSlots k ((s.openSlots (coreOf k)).take want)
    s.updT k (fun t =>
      let sp := { t.sp with width := want, specb := w.setWidth 64, lastSeed := sv.lastSeed, bound := false }
      if t.sp.bound then
        { t with r.seed := sv.iterSeed.getD t.r.seed,
                 sp := { sp with owner := k, role := .iter t.sp.c, isBound := true, inOwner := true, winOpen := true, winW := t.sp.c,
                                 winA := 0, base := some (sv.base.getD t.r) } }
      else Thread.settled { t with sp := sp })

/-- The oldest returned command pushed again (R397): pushed, waiting for room on a port, or dropped because its checks fail now. -/
def State.repushOne (s : State) (k : Nat) : State × Bool :=
  match (s.getT k).en.repush with
  | [] => (s, false)
  | b :: r =>
    let port := descPort b
    let next := fun (s : State) => s.updT k (fun t => { t with en.repush := r })
    let s := s.readDims (s.newCmd k port b)
    match s.makeCmd k port b with
    | .error e => ((next s).defer k e.1 (s.getT k).r.pc e.2.1, true)
    | .ok c =>
      if s.portRoom (coreOf k) port then (next (s.enterCmd (coreOf k) port c), true)
      else (s.updT k (fun t => { t with st := .parked, w.park := .epush port }), false)

/-- Every returned command pushed while there is room. -/
def State.repush (s : State) (k : Nat) : Nat → State
  | 0 => s
  | n + 1 => let p := s.repushOne k; if p.2 then State.repush p.1 k n else p.1

/-- Tasks of a launch resident on a core (R81). -/
def State.residentOn (s : State) (n core : Nat) : Nat :=
  ((List.range 15).filter (fun i => let t := s.getT (16 * core + i); t.st ≠ .empty && (t.sp.role = .none || t.sp.inOwner) && taskKey t.id.task = n)).length

/-- A supervisor is asked for the page of a code word that a resumption needs (R122). -/
def State.askCode (s : State) (k : Nat) (pc : Word) : State :=
  match s.codeKey k pc.toNat with
  | (s, .error (.fault, a)) =>
    let r := s.region0 (taskVf (s.getT k).id.task)
    let q : FaultReq := { task := (s.getT k).id.task, core := coreOf k, slot := slotOf k, dva := a, kind := 0 }
    if (s.region r).faults.contains q then s else s.requestPage r q
  | _ => s

/-- What a resumption gives: the state with the thread in its slot; a wait that changes nothing but a page asked for; or that a record or a page
must come first. -/
inductive Load where
  | done (s : State)
  | wait (s : State)

/-- The thread of a context's bytes as it is placed in a slot (R397, R406): segments of the old window moved, its issue state fresh. -/
def Saved.thread (c : Saved) (s : State) (r k : Nat) (b : List Byte) (old new : Nat) : Thread :=
  let core := coreOf k
  let home := decide (core = fieldAt b 0x120A 2 % 2 ^ 13)
  let t := threadOfImage b
  { t with
    r := if home then t.r else t.r.rebase old new
    id := { t.id with scope := c.scope, lregion := BitVec.ofNat 5 ((s.logicalOf (taskVf t.id.task) (regionOf core)).getD 0),
                      nomig := bit (fieldAt (s.launch (taskKey t.id.task)).record 2 1) 1, dispatched := s.clockAt core }
    is := { t.is with deferred := t.is.deferred ++ c.deferred }
    w := { hostDirty := c.hostDirty }
    en := { t.en with area := c.area, areaReg := r, saves := c.saves, moved := !home, repush := if home then t.en.repush else [] } }

/-- What the core keeps for a context becomes the slot's (R395, R397): its units, its result elements and its port-3 commands. -/
def State.giveBack (s : State) (r k : Nat) (task : Word) (units : Nat) : State :=
  (s.updCore (coreOf k) (fun x =>
    { x with
      u.hold := x.u.hold.map (fun p => if p.2 = 16 ∧ bit units p.1 then (p.1, slotOf k + 1) else p)
      u.fifoOut := x.u.fifoOut.map (fun p => (p.1, p.2.map (fun e => if e.task = task then { e with slot := slotOf k } else e))) })).updRegion r
    (fun g => { g with port3 := g.port3.map (fun x => if x.task = task then { x with thread := k } else x) })

/-- A context leaves its area for an EMPTY slot (R209, R392, R397, R406). It waits while a special-function result has not arrived, while its
bytes or its SPECB word cannot be read, while its record must wait, and while its window does not fit. -/
def State.loadContext (s0 : State) (r : Nat) (c : Saved) (k : Nat) : Load :=
  let core := coreOf k
  match (s0.flushContext (areaKey r c.area)).bind (fun s => match s.readDva r c.area 5120 with
    | (s, some b) => some (s, b)
    | _ => none) with
  | none => .wait s0
  | some (s, b) =>
    let home := fieldAt b 0x120A 2 % 2 ^ 13
    let frozen := bit (fieldAt b 0x120C 1) 1
    let t0 := threadOfImage b
    let n := taskKey t0.id.task
    let word := (s.setT k t0).specbAt k t0.sp.specbPc
    if fieldAt b 0x1204 4 ≠ 0 then .wait s0
    else if t0.sp.goesOn ∧ word.isNone then .wait (((s0.setT k t0).askCode k t0.sp.specbPc).setT k (s0.getT k))
    else
      let unrec := c.unrec && decide (core = home) && decide ((s.log (regionOf core)).mode = 2)
      match (if unrec then some s else s.placement t0.id.task t0.en.logN 6 core true).bind (fun s => s.needWindow n core) with
      | none => .wait s0
      | some (s, new) =>
        let old := ((s.launch n).window home).getD 0
        let spec := if core = home then c.spec
          else c.spec.map (fun x => { x with base := x.base.map (fun g => g.rebase old new) })
        let s := s.updRegion r (fun g => { g with contexts := g.contexts.filter (fun x => x.area ≠ c.area) })
        let s := if core = home then s.freeArea r c.area else s
        let s := (s.setT k (c.thread s r k b old new)).sortHal k
        let s := if core = home then s.giveBack r k t0.id.task (fieldAt b 0x1208 2) else s
        let s := s.reclaim n
        let s := (s.resumeGroup k (word.getD 0) spec).repush k 5
        if frozen then
          let fcode := BitVec.ofNat 8 (fieldAt b 0x111D 1)
          .done (((s.updT k (fun t => { t with st := .frozen, w.park := .none })).setLastCode k fcode).sendPacket
            { task := t0.id.task, pc := t0.r.pc.setWidth 32, core := core, slot := slotOf k, frame := t0.r.rep.act, code := fcode })
        else .done s

/-- Whether a region can take tasks of a VF: assigned to it, not in reset, its gate open (R411, R417). -/
def State.regionUp (s : State) (v r : Nat) : Bool :=
  let o := (s.region r).own
  o.phase = 0 && o.gate && o.assigned && o.vf = v

/-- CONTEXT_RESUME (R397): the scheduler loads a context it saved into an EMPTY slot of a core that its scope admits. -/
def execContextResume (thread area : Nat) (s : State) : Host.Outcome State Fault Refusal :=
  let core := coreOf thread
  let v := fun (c : Saved) => taskVf c.task
  match (List.range 32).findSome? (fun r => ((s.region r).contexts.find? (fun c => c.area = area && s.resumable r c &&
      s.regionUp (v c) (regionOf core) && s.ctxAdmits r c core &&
      (!c.unrec || (s.log (regionOf c.home)).mode ≠ 2 || core = c.home))).map (fun c => (r, c))) with
  | none => .next s
  | some (r, c) =>
    if (s.getT thread).st ≠ .empty ∨ slotOf thread = 15 ∨ (s.keptFor thread).isSome ∨ (s.launch (taskKey c.task)).kernel.slots ≤ s.residentOn (taskKey c.task) core then .next s
    else match s.loadContext r c thread with
      | .done s => .next s
      | .wait s => .next s

/-! Instructions. -/

/-- The area an operand of CTXSAVE or CTXLOAD names (R399): space 3, R and W, aligned to 1,024, its pages present. -/
def areaOperand (p : Word) : M Nat := do
  let l ← check p 0 5120 1024 (rR + rW) (fun sp => sp = 3)
  let s ← get
  let a := segBase l.seg + l.eo
  let _ ← translatePieces s.regionNo true 1 l.ptr (pagePieces a 5120)
  return a

/-- CTXSAVE (R399). -/
def execCtxsave (d a : BitVec 5) (sl : BitVec 4) (s : State) : Host.Outcome State Fault Refusal :=
  let p := s.rdS a
  finish (do
    needPriv
    notHandler
    let area ← if p = 0 then pure none else do
      let x ← areaOperand p
      pure (some x)
    let s ← get
    let k := 16 * s.coreNo + sl.toNat
    let t := s.getT k
    let status := fun (n : Nat) => do
      setS d (BitVec.ofNat 64 n)
      retireM
    if k = s.cur ∨ sl = 15 ∨ t.st = .empty ∨ t.st = .saving then status 1
    else if t.sp.role ≠ .none ∧ t.sp.owner ≠ k then status 3
    else match area with
      | some x => do
        set (s.beginSave k x 13 false false)
        parkM (.ctxsave d.toNat sl.toNat x)
      | none =>
        match s.poolArea s.regionNo with
        | none => status 2
        | some x => do
          let _ ← translatePieces s.regionNo true 1 0 (pagePieces x 5120)
          modify (fun s => (s.holdArea s.regionNo x).beginSave k x 13 false false)
          parkM (.ctxsave d.toNat sl.toNat x)) s

/-- The first key of an area in a region's addresses. -/
def State.areaHome (s : State) (r dva : Nat) : Option Nat :=
  match s.dvaKeys r dva 1 false with
  | (_, some l) => (l.head?).map (fun p => p.1)
  | _ => none

/-- The context that an area of a region's addresses holds, wherever it was saved: two regions may name one area by different pages (R120,
R400). -/
def State.contextAt (s : State) (r dva : Nat) : Option (Nat × Saved) :=
  (List.range 32).findSome? (fun q => ((s.region q).contexts.find? (fun c =>
    (q = r && c.area = dva) || ((s.areaHome r dva).isSome && s.areaHome q c.area = s.areaHome r dva))).map (fun c => (q, c)))

/-- The saved context of a task, with the region whose tables name its area. -/
def State.savedOf (s : State) (task : Word) : Option (Nat × Saved) :=
  (List.range 32).findSome? (fun r => ((s.region r).contexts.find? (fun c => c.task = task)).map (fun c => (r, c)))

/-- The bytes of an area with HOMECORE left out. -/
def withoutHome (b : List Byte) : List Byte := b.take 0x120A ++ b.drop 0x120C

/-- An area to which the bytes of a saved context have been copied, HOMECORE apart, holds that context from now on (R424). DEDUCED (log 24): the spec
does not say how a device knows that an area holds a context; the model's device knows the tasks that are saved. -/
def State.adoptCopy (s : State) (r dva : Nat) : State :=
  (do
    let b ← (s.readDva r dva 5120).2
    let (q, c) ← s.savedOf (BitVec.ofNat 64 (fieldAt b 0x1138 8))
    let s ← s.flushContext (areaKey q c.area)
    let old ← (s.readDva q c.area 5120).2
    if withoutHome old = withoutHome b then
      let s := (s.freeArea q c.area).updRegion q (fun g => { g with contexts := g.contexts.filter (fun x => x ≠ c) })
      some (s.updRegion r (fun g => { g with contexts := g.contexts ++ [{ c with area := dva, kept := none }] }))
    else none).getD s

/-- CTXLOAD (R400): the launch's SLOTS bound counts as no EMPTY slot (R81; DESIGN CHOICE). -/
def execCtxload (d a : BitVec 5) (s : State) : Host.Outcome State Fault Refusal :=
  finish (do
    needPriv
    notHandler
    let area ← areaOperand (s.rdS a)
    let s ← get
    let status := fun (n : Nat) => do
      setS d (BitVec.ofNat 64 n)
      retireM
    let s := if (s.contextAt s.regionNo area).isSome then s else s.adoptCopy s.regionNo area
    match s.contextAt s.regionNo area with
    | none => status 18
    | some (r, c) =>
      let n := taskKey c.task
      match (s.openSlots s.coreNo) with
      | [] => status 16
      | k :: _ =>
        if !s.ctxAdmits r c s.coreNo then status 17
        else if (s.launch n).kernel.slots ≤ s.residentOn n s.coreNo ∨ (s.needWindow n s.coreNo).isNone then status 16
        else match s.loadContext r c k with
          | .done s => do
            set s
            status (slotOf k)
          | .wait s => do
            set s
            parkM .ctxload) s

/-- COLOUR (R402): the core's colour flips. -/
def execColour (d : BitVec 5) (s : State) : Host.Outcome State Fault Refusal :=
  finish (do
    needPriv
    let c := (s.core s.coreNo).colour
    modify (fun s => s.updCore s.coreNo (fun x => { x with colour := !x.colour }))
    setS d (if c then 1 else 0)
    retireM) s

/-- The threads of the issuing region that carry a task identifier; a group's identifier names its owner (R389). -/
def State.taskThreads (s : State) (task : Word) : List Nat :=
  s.threadKeys.filter (fun k => (s.getT k).st ≠ .empty && regionOf (coreOf k) = s.regionNo && (s.getT k).id.task = task)

/-- WAKE.RESUME's effect (R389, R390): READY at its PC, in a single step when STEP is set; its frame is fetched again (R73), and its first issue
waits for returned commands that have not been pushed again (R397). An owner goes on with its windows (R336). -/
def Thread.resume (t : Thread) (step : Bool) : Thread :=
  let t := if t.en.repush = [] then t.settled else { t with st := .parked, w.park := .epush (descPort (t.en.repush.headD [])) }
  { t with
    is.woken := true
    is.ibuf := []
    is.frame := []
    is.stepping := step
    is.stepped := false }

/-- One WAKE on the first thread of the identifier in the needed state (R389). -/
def wakeM (d : BitVec 5) (task : Word) (ok : Thread → Bool) (act : Nat → State → State) : M Unit := do
  needPriv
  let s ← get
  match (s.taskThreads task).find? (fun k => ok (s.getT k)) with
  | none => do
    setS d 1
    retireM
  | some k => do
    set (act k s)
    setS d 0
    retireM

/-- WAKE.RESUME (R389). -/
def execWakeResume (d a : BitVec 5) (s : State) : Host.Outcome State Fault Refusal :=
  finish (wakeM d (s.rdS a) (fun t => t.st = .frozen) (fun k s => s.updT k (fun t => t.resume (s.stepBit k)))) s

/-- A page fault answered by a wake: its request is no longer open, its thread goes on, and so does its gang (R122, Table 05-11). -/
def State.wakeFault (s : State) (k : Nat) : State :=
  let t := s.getT k
  match t.w.park with
  | .pageFault r dva =>
    ((s.updRegion r (fun g => { g with faults := g.faults.filter (fun q =>
      !(q.task = t.id.task && 16 * q.core + q.slot = k && q.dva = dva && decide (q.kind < 3))) })).wakeGang k t.en.gangN r dva).updT k Thread.unfault
  | _ => s

/-- WAKE.FAULT (R389, R122): the instruction is issued again. -/
def execWakeFault (d a : BitVec 5) (s : State) : Host.Outcome State Fault Refusal :=
  finish (wakeM d (s.rdS a) (fun t => t.st = .parked && (match t.w.park with
    | .pageFault _ _ => true
    | _ => false)) (fun k s => s.wakeFault k)) s

/-- WAKE.ABANDON (R389): the slot is EMPTY and the task counts as abandoned; a group is folded with its owner. -/
def execWakeAbandon (d a : BitVec 5) (s : State) : Host.Outcome State Fault Refusal :=
  finish (wakeM d (s.rdS a) (fun t => t.st = .frozen) (fun k s =>
    let t := s.getT k
    let own := if t.sp.role = .none then k else t.sp.owner
    if k % 16 = 15 then s.setT k {}
    else ((s.squashFrom own 0).freeSlots own).endTask own true)) s

end Sys2Proof.Machine
end

