-- ==== Sys2Proof/Machine/LogControl.lean ====
section
/-! DEFINITION. The registers of the order log (16, Table 16-1) and what writes them: LOGCTL and LOGMARK (R353, R354), the driver's writes
(R339, R347), and the stall of a replay (R351). -/

namespace Sys2Proof.Machine

/-- LOGPTR and LOGMODE (Table 16-1). -/
def Log.ptrWord (l : Log) : Word := BitVec.ofNat 64 (l.tail.toNat * 2 ^ 32 + l.head.toNat)
def Log.modeWord (l : Log) : Word :=
  BitVec.ofNat 64 ((if l.lost then 16 else 0) + (if l.div then 8 else 0) + (if l.full then 4 else 0) + l.mode)

/-- Slots parked on a cause become READY, to issue again. -/
def State.wakeAll (s : State) (f : Park → Bool) : State := (s.waiters f).foldl (fun s k => s.wakeT k) s

/-- What waits for a region's log (R347, R349). -/
def Park.onLog (r : Nat) : Park → Bool
  | .logFull q => q = r
  | .replay q => q = r
  | _ => false

/-- Waiters of a region's words, sync words and receive queues tried again, once the log no longer holds them back (R354). -/
def State.serveRegion (s : State) (r : Nat) : State :=
  let keys := s.threadKeys.filter (fun k => (s.getT k).st = .parked)
  keys.foldl (fun s k =>
    match (s.getT k).w.park with
    | .fullEmpty _ key _ _ _ => if keyRegion key 0 = r then s.serve key else s
    | .waitgen key _ _ _ _ => if keyRegion key 0 = r then s.release key else s
    | .recv _ _ => if regionOf (coreOf k) = r then s.serveRecv k else s
    | _ => s) s

/-- MODE set and DIV cleared (R354): a change drops the window and releases what waited for the log. -/
def State.setLogMode (s : State) (r m : Nat) : State :=
  let l := s.log r
  let s := s.setLog r { l with mode := m, div := false, consumed := if m = l.mode then l.consumed else [], stopped := [] }
  let s := s.logFullCheck r
  let s := if m = 2 ∧ l.mode ≠ 2 then s.settleTail r else s
  if m = 0 then (s.wakeAll (Park.onLog r)).serveRegion r else s

/-- Threads parked log-full wake once 64 records are free (R347). -/
def State.wakeLogFull (s : State) (r : Nat) : State :=
  let s := s.logFullCheck r
  if 64 ≤ (s.log r).free then s.wakeAll (fun p => p = .logFull r) else s

/-- Whether LOGRING may hold a value (Table 16-6). -/
def ringOk (v : Word) : Bool :=
  let n := v.toNat % 64
  16 ≤ n && n ≤ 35 && v.toNat / 2 ^ 56 = 0 && v.toNat / 2 ^ 6 % 2 ^ 10 = 0 && v.toNat / 2 ^ 16 % 2 ^ 40 * 2 ^ 16 % 2 ^ n = 0

/-- Whether TAIL may advance to a value: not back, and not past HEAD. -/
def Log.tailOk (l : Log) (v : Word32) : Bool := (v - l.tail).toNat ≤ (l.head - l.tail).toNat
/-- Whether HEAD may advance to a value: not back, and holding no more than CAP records. -/
def Log.headOk (l : Log) (v : Word32) : Bool :=
  (l.head - l.tail).toNat ≤ (v - l.tail).toNat && (v - l.tail).toNat ≤ l.cap

/-- The status and effect of a LOGCTL that sets something: the mode is checked first (R354). -/
def logctlM (d : BitVec 5) (status : State → Nat) (act : State → State) : M Unit := do
  needPriv
  let s ← get
  let n := status s
  if n = 0 then set (act s)
  setS d (BitVec.ofNat 64 n)
  retireM

/-- LOGCTL.READ (R354). -/
def execLogctlRead (d a : BitVec 5) (s : State) : Host.Outcome State Fault Refusal :=
  finish (do
    needPriv
    let l := (← get).log s.regionNo
    setS d (match (s.rdS a).toNat with
      | 0 => l.ring
      | 1 => l.ptrWord
      | 2 => l.modeWord
      | _ => 1)
    retireM) s

/-- LOGCTL.RING (R354). -/
def execLogctlRing (d a : BitVec 5) (s : State) : Host.Outcome State Fault Refusal :=
  let v := s.rdS a
  let r := s.regionNo
  finish (logctlM d (fun s => if (s.log r).mode ≠ 0 then 2 else if ringOk v then 0 else 1)
    (fun s => s.setLog r { s.log r with ring := v, head := 0, tail := 0 })) s

/-- LOGCTL.MODE (R354). DESIGN CHOICE (log 31): the value is the whole of sa, so that one above 2 has status 1 even where its low two bits name the
other of modes 1 and 2. -/
def execLogctlMode (d a : BitVec 5) (s : State) : Host.Outcome State Fault Refusal :=
  let v := (s.rdS a).toNat
  let r := s.regionNo
  finish (logctlM d (fun s => if (v = 1 ∧ (s.log r).mode = 2) ∨ (v = 2 ∧ (s.log r).mode = 1) then 2 else if v ≤ 2 then 0 else 1)
    (fun s => s.setLogMode r v)) s

/-- LOGCTL.TAIL (R354). -/
def execLogctlTail (d a : BitVec 5) (s : State) : Host.Outcome State Fault Refusal :=
  let v := s.rdS a
  let r := s.regionNo
  finish (logctlM d (fun s => if (s.log r).mode ≠ 1 then 2 else if v.toNat < 2 ^ 32 ∧ (s.log r).tailOk (v.setWidth 32) then 0 else 1)
    (fun s => (s.setLog r { s.log r with tail := v.setWidth 32 }).wakeLogFull r)) s

/-- LOGCTL.HEAD (R354). -/
def execLogctlHead (d a : BitVec 5) (s : State) : Host.Outcome State Fault Refusal :=
  let v := s.rdS a
  let r := s.regionNo
  finish (logctlM d (fun s => if (s.log r).mode ≠ 2 then 2 else if v.toNat < 2 ^ 32 ∧ (s.log r).headOk (v.setWidth 32) then 0 else 1)
    (fun s => (s.setLog r { s.log r with head := v.setWidth 32 }).settleTail r)) s

/-- The 0xC form of a task mark's OBJECT (Table 16-3). -/
def markObject (p : Word) : Word := BitVec.ofNat 64 (0xC * 2 ^ 60 + ptrSeg p * 2 ^ 52 + ptrOff p)

/-- LOGMARK (R353). -/
def execLogmark (a : BitVec 5) (t : BitVec 8) (s : State) : Host.Outcome State Fault Refusal :=
  let p := s.rdS a
  finish (do
    specBind
    logGuard s.regionNo
    let s ← get
    eventM s.regionNo { kind := 10, task := s.groupTask s.cur, object := markObject p, digest := p.setWidth 32, aux := t.setWidth 32 }
    retireM) s

/-! Events. -/

/-- LOGMODE_WRITE (R339): MODE 3 and a direct change between 1 and 2 are ignored. -/
def execLogmodeWrite (region : Nat) (value : BitVec 64) (s : State) : Host.Outcome State Fault Refusal :=
  let m := value.toNat % 4
  let old := (s.log region).mode
  .next (if m = 3 ∨ (m = 1 ∧ old = 2) ∨ (m = 2 ∧ old = 1) then s else s.setLogMode region m)

/-- LOGPTR_TAIL_WRITE (R339, R340, R347): the driver advances TAIL in record mode and HEAD in replay, and sets both while logging is off. -/
def execLogptrTailWrite (region : Nat) (value : BitVec 64) (s : State) : Host.Outcome State Fault Refusal :=
  let l := s.log region
  let t : Word32 := (value >>> 32).setWidth 32
  let h : Word32 := value.setWidth 32
  .next (match l.mode with
    | 1 => if l.tailOk t then (s.setLog region { l with tail := t }).wakeLogFull region else s
    | 2 => if l.headOk h then (s.setLog region { l with head := h }).settleTail region else s
    | _ => s.setLog region { l with tail := t, head := h })

/-- A saved context made FROZEN with a trap code, in the bytes of its area (Table 19-6: FCODE at 0x111D, FLAGS at 0x120C); a page that does not
translate leaves it as it is. -/
def State.freezeSaved (s : State) (r : Nat) (c : Saved) (code : BitVec 8) : State :=
  (do
    let s ← s.flushContext (areaKey r c.area)
    let (s, b) := s.readDva r (c.area + 0x120C) 1
    let flags ← b
    let s ← s.writeDva r (c.area + 0x120C) [flags.headD 0 ||| 2#8]
    s.writeDva r (c.area + 0x111D) [code]).getD s

/-- REPLAY_DIVERGE raised by a region's sequencer against the task of a record (R351): DIV is set, the record's stream stops, and the task's
thread freezes. A task with no live slot has its saved context marked FROZEN, and the packet names the region's first core. -/
def State.sequencerStops (s : State) (r : Nat) (b : List Byte) (kind : Nat) : State :=
  let l := s.log r
  let task := recTask b
  let s := s.setLog r { l with div := true, stopped := l.stopped ++ [recStream b] }
  match s.threadKeys.find? (fun k => (s.getT k).st ≠ .empty && (s.getT k).st ≠ .frozen && (s.getT k).id.task = task) with
  | some k =>
    let s := s.updT k Thread.rewind
    s.freeze k tDiverge (recObject b) 0 (s.getT k).r.pc false false (kindReport b kind)
  | none =>
    let s := match s.savedOf task with
      | some (q, c) => s.freezeSaved q c tDiverge
      | none => s
    s.sendPacket { task := task, addr := recObject b, core := 256 * r, code := tDiverge, report := kindReport b kind }

/-- REPLAY_STALL (R351): a full window from which nothing has been consumed stops the task of the record at TAIL. -/
def execReplayStall (region : Nat) (s : State) : Host.Outcome State Fault Refusal :=
  let l := s.log region
  if l.mode ≠ 2 ∨ l.window.length < min 4096 l.cap then .next s
  else
    let b := s.readRecord region l.tail
    .next (if l.stopped.contains (recStream b) then s
      else s.sequencerStops region b 0xFF)

/-- A record that its stream presents and whose task has ended (R351). -/
def State.endedRecord (s : State) (r : Nat) : Option (List Byte) :=
  let l := s.log r
  (l.window.filterMap (fun i =>
    let n := l.tail + BitVec.ofNat 32 i
    if l.consumed.contains n.toNat then none else some (n, s.readRecord r n))).findSome? (fun p =>
      let c := streamClass (recKind p.2)
      if c ≠ 0 && s.taskEnded (recTask p.2) && !l.stopped.contains (recStream p.2) &&
          (s.presented r c (recObject p.2) (recTask p.2)).map (fun q => q.1) = some p.1 then some p.2 else none)

/-- A presented record that names a task that has ended makes the sequencer raise REPLAY_DIVERGE (R351). -/
def State.checkEnded (s : State) (r : Nat) : State :=
  if (s.log r).mode ≠ 2 then s
  else match s.endedRecord r with
    | some b => s.sequencerStops r b 0xFE
    | none => s

end Sys2Proof.Machine
end

