-- ==== Sys2Proof/Machine/Paging.lean ====
section
/-! DEFINITION. Paging events (05, R120 to R124): walks, TCINV, PTROOT, unresolved faults; and the ranges of a launch (R125). -/

namespace Sys2Proof.Machine

/-- TRANSLATION_WALK_END (R116, R120): the walks of a page for PROBE end. An access makes its own walk in the step that translates it, so none
waits here. -/
def execTranslationWalkEnd (region : Nat) (dva : BitVec 56) (_write : Bool) (s : State) : Host.Outcome State Fault Refusal :=
  .next (s.updRegion region (fun g => { g with walks := g.walks.filter (fun w => w.2 / 2 ^ 16 ≠ dva.toNat / 2 ^ 16) }))

/-- Whether a cached leaf covers a 64 KiB page. -/
def TEntry.coversPage (e : TEntry) (dva : Nat) : Bool := e.base = dva / 2 ^ e.shift * 2 ^ e.shift

/-- Cached leaves dropped: all of them, or those that cover a page. -/
def State.invalidate (s : State) (r : Nat) (all : Bool) (dva : Nat) : State :=
  s.updRegion r (fun g => { g with tcache := if all then [] else g.tcache.filter (fun e => !e.coversPage dva) })

/-- Whether an iteration holds a store that a region's tables have translated (R124, R324). -/
def State.bufferedVia (s : State) (r : Nat) : Bool :=
  s.threadKeys.any (fun k => (s.getT k).sp.buf.any (fun e => e.vias.contains (r + 1)))

/-- Whether an access translated by a region's tables is still to be performed: one of a thread on its way to memory or in an iteration's entries,
or a started chunk of an engine command that may reach the region (R124). -/
def State.translating (s : State) (r : Nat) : Bool :=
  s.cores.any (fun p => (p.2.mem ++ p.2.wheel ++ p.2.far ++ p.2.seq).any (fun q => q.via = r + 1)) || s.bufferedVia r ||
  s.engines.any (fun p => p.2.any (fun c => (c.started.toList ++ c.sending.toList).any (fun ch =>
    (ch.want.any (fun q => isHbm q.1) || ch.cells.any (fun q => isHbm q.1)) && (regionOf c.core = r || c.segs.any (fun g => segSpace g.2 = 4)))))

/-- GO reads 0 once every access translated under the old entries has been performed (R124). -/
def State.tcinvDone (s : State) (r : Nat) : State :=
  if (s.region r).tcinv.getLsbD 63 ∧ s.translating r = false then
    s.updRegion r (fun g => { g with tcinv := g.tcinv &&& 0x7FFFFFFFFFFFFFFF#64 })
  else s

/-- TCINV_GO (R120, R124): the entries are dropped at once; GO reads 1 until what was translated under them has been performed, whatever is written
meanwhile. -/
def execTcinvGo (region : Nat) (value : BitVec 64) (s : State) : Host.Outcome State Fault Refusal :=
  let s := s.updRegion region (fun g => { g with tcinv := (value &&& 0xC0FFFFFFFFFF0000#64) ||| (g.tcinv &&& 0x8000000000000000#64) })
  .next (if value.getLsbD 63 then (s.invalidate region (value.getLsbD 62) ((value &&& 0x00FFFFFFFFFF0000#64).toNat)).tcinvDone region else s)

/-- PTROOT_WRITE (R120): the translation cache is flushed. -/
def execPtrootWrite (region : Nat) (value : BitVec 64) (s : State) : Host.Outcome State Fault Refusal :=
  .next ((s.updRegion region (fun g => { g with ptroot := value &&& 0x000000FFFFFFE001#64 })).invalidate region true 0)

/-- UNRESOLVED_PAGE_FAULT (R122, R366): the oldest request of a region cannot be resolved. A parked thread takes PAGE_FATAL, as its role in a
speculation group makes it (R318, R332); the scheduler learns that the record's page is unreadable; an engine's command has ended already. -/
def execUnresolvedPageFault (region : Nat) (s : State) : Host.Outcome State Fault Refusal :=
  let g := s.region region
  match g.faults with
  | [] => .next s
  | q :: r =>
    let s := s.setRegion region { g with faults := r }
    if q.kind = 4 then .next (let n := taskKey q.task; s.setLaunch n { s.launch n with noPage := true })
    else
      let k := 16 * q.core + q.slot
      let t := s.getT k
      if t.st = .parked ∧ t.w.park = .pageFault region q.dva ∧ t.id.task = q.task then
        .next (((s.wakeGang k t.en.gangN region q.dva).switchTo k).takeTrap tPageFatal (BitVec.ofNat 64 q.dva) 0)
      else .next s

/-! Ranges made ready before dispatch (R125). -/

/-- A table taken for a region, aligned to its own size (R118): its physical address, every byte of it zero. -/
def State.takeTable (s : State) (r size : Nat) : State × Nat :=
  let pa := r * 2 ^ 35 + (Config.freeTable r s.pkg.pages).toNat * 256 / size * size
  ({ s.setBytes (hbmKey pa) (List.replicate size 0#8) with pkg.pages := s.pkg.pages + 1 }, pa)

/-- A page taken in a region's memory. -/
def State.takePage (s : State) (r : Nat) : State × Nat :=
  ({ s with pkg.pages := s.pkg.pages + 1 }, r * 2 ^ 35 + (Config.freePage r s.pkg.pages).toNat * 2 ^ 16)

/-- A leaf's entries one level down: the same page attributes for each part. -/
def State.splitLeaf (s : State) (e table shift : Nat) : Nat → State
  | 0 => s
  | n + 1 => (State.splitLeaf s e table shift n).writeLE (hbmKey (table + 8 * n)) 8 (e + n * 2 ^ shift)

/-- The key of the level-3 entry of a DVA, with the tables above it made or split as needed. -/
def State.leafEntry (s : State) (dva : Nat) (r : Nat) : List (Nat × Nat × Nat) → Nat → State × Nat
  | [], table => (s, hbmKey table)
  | [(_, shift, bits)], table => (s, hbmKey (table + 8 * (dva / 2 ^ shift % 2 ^ bits)))
  | (_, shift, bits) :: (l, shift', bits') :: rest, table =>
    let k := hbmKey (table + 8 * (dva / 2 ^ shift % 2 ^ bits))
    let e := s.readLE k 8
    if bit e 0 && !bit e 1 then State.leafEntry s dva r ((l, shift', bits') :: rest) (e / 2 ^ 8 % 2 ^ 32 * 2 ^ 8)
    else
      let (s, t) := s.takeTable r (8 * 2 ^ bits')
      let s := if bit e 0 then s.splitLeaf e t shift' (2 ^ bits') else s
      let s := s.writeLE k 8 (t + 1)
      State.leafEntry s dva r ((l, shift', bits') :: rest) t

/-- A 64 KiB page mapped in a region's tables (R125). DESIGN CHOICE (log 42): A, D and SOFT of the entry are 0. -/
def State.mapPage (s : State) (r dva pa : Nat) (w : Bool) : State :=
  let root := (s.region r).ptroot.toNat / 2 ^ 13 % 2 ^ 27 * 2 ^ 13
  let (s, k) := s.leafEntry dva r walkLevels root
  let rem := decide (pa / 2 ^ 35 ≠ r)
  (s.writeLE k 8 (pa + 3 + (if w then 4 else 0) + (if rem then 32 else 0))).invalidate r false dva

/-- A page unmapped in a region's tables. -/
def State.unmapPage (s : State) (r dva : Nat) : State :=
  let root := (s.region r).ptroot.toNat / 2 ^ 13 % 2 ^ 27 * 2 ^ 13
  let (s, k) := s.leafEntry dva r walkLevels root
  (s.writeLE k 8 0).invalidate r false dva

/-- Where a DVA's page lies now, by the tables of a region, and whether it may be written. -/
def State.pageOf (s : State) (r dva : Nat) : Option (Nat × Bool) :=
  if !(s.region r).ptroot.getLsbD 0 then none
  else match s.walk r dva false walkLevels ((s.region r).ptroot.toNat / 2 ^ 13 % 2 ^ 27 * 2 ^ 13) with
    | (_, .leaf shift pa w _ _ _) => some ((pa + dva % 2 ^ shift) / 2 ^ 16 * 2 ^ 16, w)
    | _ => none

/-- Whether a key lies in a physical page of 64 KiB. -/
def inPage (pa k : Nat) : Bool := hbmKey pa ≤ k && k < hbmKey pa + 65536

/-- The queued accesses, and the chunks under way, that have been translated to a physical page are performed. -/
def State.settlePage (s : State) (pa : Nat) : State :=
  ((s.cores.map (fun p => p.1)).foldl (fun s c =>
    State.drainMem c (fun q => q.op.ranges.any (fun x => overlap x (hbmKey pa, 65536))) (2 * (s.core c).mem.length) 0 s) s).settleEngines
      (fun c => c.touches (inPage pa))

/-- 64 KiB copied from one physical page to another, after the accesses that are on their way to it. -/
def State.copyPage (s : State) (src dst : Nat) : State :=
  let s := s.settlePage src
  s.setBytes (hbmKey dst) (s.bytes (hbmKey src) 65536)

/-! What is still on its way to a page that moves goes with it. -/

/-- An action with its keys renamed. -/
def Micro.mapKeys (f : Nat → Nat) : Micro → Micro
  | .write l => .write (l.map (fun c => (f c.1, c.2)))
  | .read l => .read (l.map (fun p => (f p.1, p.2)))
  | .conv k l a b m s v => .conv (f k) (l.map (fun p => (f p.1, p.2))) a b m s v
  | .fe m k v => .fe m (f k) v
  | .amo o b k x y => .amo o b (f k) x y
  | .sync m k v => .sync m (f k) v
  | .wait k g d => .wait (f k) g d
  | .entry l p k => .entry (l.map (fun c => (f c.1, c.2))) p (f k)
  | .fill o n l sc => .fill o n (l.map (fun p => (f p.1, p.2))) (sc.map (fun p => (f p.1, p.2)))
  | .drain l => .drain (l.map (fun c => (f c.1, c.2)))

/-- A queued request with its keys renamed. -/
def RelReq.mapKeys (f : Nat → Nat) (q : RelReq) : RelReq :=
  { q with
    op := q.op.mapKeys f
    dst := q.dst.map (fun p => (p.1, p.2.map (fun x => (x.1, f x.2))))
    cvt := q.cvt.map (fun p => (p.1, p.2.1.map (fun x => (f x.1, x.2)), f p.2.2))
    obj := f q.obj
    seen := q.seen.map (fun c => (f c.1, c.2)) }

/-- A chunk with its keys renamed. -/
def Chunk.mapKeys (f : Nat → Nat) (ch : Chunk) : Chunk :=
  { ch with
    want := ch.want.map (fun p => (f p.1, p.2))
    left := ch.left.map f
    got := ch.got.map (fun p => (f p.1, p.2))
    cells := ch.cells.map (fun c => (f c.1, c.2))
    logR := ch.logR.map f
    logW := ch.logW.map f }

/-- A thread's own record of its access, and an iteration's entries and appends, with their keys renamed. -/
def Thread.mapKeys (f : Nat → Nat) (t : Thread) : Thread :=
  let got := fun (g : Got) => { g with pieces := g.pieces.map (fun p => (f p.1, p.2)) }
  { t with
    w.acc := { t.w.acc with
      want := t.w.acc.want.map (fun p => (f p.1, p.2)), cells := t.w.acc.cells.map (fun c => (f c.1, c.2)), got := got t.w.acc.got,
      jrn := t.w.acc.jrn.map got }
    sp.buf := t.sp.buf.map (fun e => { e with block := f e.block, key := f e.key })
    sp.app := t.sp.app.map (fun a => { a with desc := f a.desc }) }

/-- What has been translated to a physical page and is still to be performed goes to the page that takes its place. -/
def State.rekeyPage (s : State) (src dst : Nat) : State :=
  let f := fun (k : Nat) => if inPage src k then k - hbmKey src + hbmKey dst else k
  { s with
    th := s.th.mapKeys f
    threads := s.threads.map (fun (p : Nat × Thread) => (p.1, p.2.mapKeys f))
    cores := s.cores.map (fun (p : Nat × Core) => (p.1, { p.2 with mem := p.2.mem.map (RelReq.mapKeys f) }))
    engines := s.engines.map (fun (p : Nat × List Cmd) => (p.1, p.2.map (fun c =>
      { c with desc := f c.desc, started := c.started.map (Chunk.mapKeys f), sending := c.sending.map (Chunk.mapKeys f) }))) }

/-- One page of a range applied (R125): mode 0 migrates to a region, 1 replicates, 2 maps remote; none for an unmapped page or a full
region. The second part lists the replicas made. -/
def State.applyPage (s : State) (placed : List Nat) (mode target dva : Nat) : Option (State × List (Nat × Nat)) :=
  match placed.findSome? (fun r => s.pageOf r dva) with
  | none => none
  | some (pa, w) =>
    if mode = 0 then
      if pa / 2 ^ 35 ≠ target ∧ !Config.roomFor target s.pkg.pages 1 then none
      else
        let p := if pa / 2 ^ 35 = target then (s, pa)
          else let t := s.takePage target; ((t.1.copyPage pa t.2).rekeyPage pa t.2, t.2)
        some ((target :: placed.filter (fun r => r ≠ target)).foldl (fun s r => s.mapPage r dva p.2 w) p.1, [])
    else if mode = 1 then
      if !placed.all (fun r => Config.roomFor r s.pkg.pages 1) then none
      else
        let s := placed.foldl (fun s r =>
          let t := s.takePage r
          (t.1.copyPage pa t.2).mapPage r dva t.2 false) s
        some (s, placed.map (fun r => (r, dva)))
    else some ((placed.filter (fun r => r ≠ pa / 2 ^ 35)).foldl (fun s r => s.mapPage r dva pa w) s, [])

/-- The pages of a range in ascending DVA order; the flag says that one failed, what it changed before stays. -/
def State.applyRange (placed : List Nat) (mode target : Nat) : Nat → Nat → State × List (Nat × Nat) × Bool → State × List (Nat × Nat) × Bool
  | 0, _, acc => acc
  | n + 1, dva, (s, reps, bad) =>
    if bad then (s, reps, bad)
    else match s.applyPage placed mode target dva with
      | none => (s, reps, true)
      | some (s, l) => State.applyRange placed mode target n (dva + 2 ^ 16) (s, reps ++ l, false)

end Sys2Proof.Machine
end

