-- ==== Sys2Proof/Machine/Launch.lean ====
section
/-! DEFINITION. Launches (18, R360 to R373; 03, R63 to R65): work queues, the fetch and acceptance of a record, and the checks of
Table 18-3. -/

namespace Sys2Proof.Machine

/-! The record (Table 18-1). -/

def recNlevels (b : List Byte) : Nat := fieldAt b 0x05 1
def recPertile (b : List Byte) : Nat := fieldAt b 0x06 1
def recNparams (b : List Byte) : Nat := fieldAt b 0x18 4
def recLsbytes (b : List Byte) : Nat := fieldAt b 0x28 4
def recBkbytes (b : List Byte) : Nat := fieldAt b 0x2C 4
/-- The bank-memory window's size: BKBYTES rounded up to 2048 (R160). -/
def recBksize (b : List Byte) : Nat := (recBkbytes b + 2047) / 2048 * 2048
def recDonep (b : List Byte) : Nat := fieldAt b 0x38 8
def recMsix (b : List Byte) : Nat := fieldAt b 0x48 2

/-- Whether the reserved bits of an address are zero (R360). -/
def addrOk (x : Nat) : Bool := x / 2 ^ 56 % 2 ^ 7 = 0

/-- CHECK matches: CRC-32C of the record with CHECK read as zero (Table 18-1). -/
def recCheckOk (b : List Byte) : Bool :=
  (crc32c (b.take 0xFC ++ List.replicate 4 0#8 ++ (b.drop 0x100).take 384)).toNat = fieldAt b 0xFC 4

/-- A level descriptor (Table 18-2). -/
def levelAt (b : List Byte) (i : Nat) : Level :=
  let x := fieldAt b (0x100 + 16 * i) 16
  { domain := x % 256, scope := x / 2 ^ 8 % 8, cores := bit x 15, width := x / 2 ^ 16 % 2 ^ 16, extent := x / 2 ^ 32 % 2 ^ 32,
    first := x / 2 ^ 64 % 2 ^ 32 }

/-- The causes of status 1 (Table 18-3). -/
def recordOk (b : List Byte) : Bool :=
  fieldAt b 1 1 = 1 && fieldAt b 2 1 < 4 && fieldAt b 7 1 = 0 && fieldAt b 0x1C 4 = 0 &&
  ((b.drop 0x4A).take 178).all (fun x => x = 0) &&
  fieldAt b 4 1 ≤ 4 && fieldAt b 3 1 ≤ 64 && recNparams b ≤ 256 && recLsbytes b ≤ 196608 && recBkbytes b ≤ 8388608 &&
  recDonep b % 16 = 0 && (recMsix b = 0xFFFF || (32 ≤ recMsix b && recMsix b ≤ 63)) &&
  [0x08, 0x10, 0x30, 0x38].all (fun o => addrOk (fieldAt b o 8)) &&
  (List.range 8).all (fun i => !bit (recPertile b) i || addrOk (fieldAt b (0x180 + 32 * i) 8)) &&
  (List.range 8).all (fun i =>
    if i < recNlevels b then fieldAt b (0x100 + 16 * i + 12) 4 = 0 && fieldAt b (0x100 + 16 * i) 16 / 2 ^ 11 % 16 = 0
    else fieldAt b (0x100 + 16 * i) 16 = 0)

/-! The kernel header (Table 03-6). -/

def patchAt (b : List Byte) (i : Nat) : Nat := fieldAt b (8 * i) 8

/-- The faults of a kernel header (R64, R65, R315); `p` is its patch list. -/
def headerOk (h p : List Byte) : Bool :=
  let words := fieldAt h 0x08 4
  let offOk := fun (x : Nat) => x < words || x = 0xFFFFFFFF
  let n := fieldAt h 0x4A 2
  let nlev := fieldAt h 0x48 1
  fieldAt h 0 4 = 0x50584A4B && fieldAt h 4 1 = 1 && fieldAt h 5 1 ≤ (Config.cap0 false).toNat / 2 ^ 32 % 256 &&
  1 ≤ fieldAt h 6 1 && fieldAt h 6 1 ≤ 15 && fieldAt h 7 1 = 0 && 1 ≤ words && words ≤ 2 ^ 24 && fieldAt h 0x0C 4 < words &&
  offOk (fieldAt h 0x10 4) && (List.range 4).all (fun i => offOk (fieldAt h (0x20 + 4 * i) 4)) &&
  !bit (fieldAt h 0x18 4) 0 && !bit (fieldAt h 0x18 4) 1 && !bit (fieldAt h 0x18 4) 31 &&
  1 ≤ nlev && nlev ≤ 8 &&
  (List.range 8).all (fun i =>
    let x := fieldAt h (0x30 + 2 * i) 2
    if i < nlev then x % 256 ≤ 7 && x / 2 ^ 8 % 8 ≤ 4 && x / 2 ^ 11 % 16 = 0 else x = 0) &&
  (List.range 8).all (fun i => fieldAt h (0x40 + i) 1 < 64) &&
  fieldAt h 0x49 1 ≤ 1 && n ≤ 256 && fieldAt h 0x4C 4 % 64 = 0 && 0xA0 + 8 * n ≤ fieldAt h 0x4C 4 &&
  (fieldAt h 0x49 1 = 1 || ((h.drop 0x50).take 64).all (fun x => x = 0)) &&
  fieldAt h 0x90 4 % 64 = 0 && fieldAt h 0x4C 4 + 4 * words ≤ fieldAt h 0x90 4 && fieldAt h 0x94 2 ≤ 256 &&
  ((h.drop 0x96).take 10).all (fun x => x = 0) &&
  (List.range n).all (fun i =>
    let x := patchAt p i
    x / 2 ^ 34 = 0 && x / 2 ^ 32 % 4 ≠ 3 && x / 2 ^ 24 % 256 < fieldAt h 0x94 2 &&
    (i = 0 || patchAt p (i - 1) % 2 ^ 24 < x % 2 ^ 24))

/-- The kernel of a checked header. -/
def kernelOf (addr : Nat) (h p data : List Byte) : Kernel :=
  { code := addr % 2 ^ 56 + fieldAt h 0x4C 4
    host := bit addr 63
    words := fieldAt h 0x08 4
    entry := fieldAt h 0x0C 4
    handler := fieldAt h 0x10 4
    guess := (List.range 4).map (fun i => fieldAt h (0x20 + 4 * i) 4)
    carryS := BitVec.ofNat 32 (fieldAt h 0x18 4)
    carryV := BitVec.ofNat 32 (fieldAt h 0x1C 4)
    slots := fieldAt h 6 1
    patches := (List.range (fieldAt h 0x4A 2)).map (fun i => let x := patchAt p i; (x % 2 ^ 24, x / 2 ^ 24 % 256, x / 2 ^ 32 % 4))
    haltab := if fieldAt h 0x49 1 = 1 then some ((List.range 64).map (fun i => fieldAt h (0x50 + i) 1)) else none
    data := data }

/-! Levels (R361, R364). -/

/-- The place of a domain in the order levels must run. -/
def domainRank (d : Nat) : Nat := if d = 7 then 5 else if d = 5 then 6 else if d = 6 then 7 else d

/-- The rules of R361 and R364 for a level inside its enclosing domain `enc` of width `w`, before a next level. -/
def levelOk (top : Bool) (enc w : Nat) (l : Level) (next : Option Level) : Bool :=
  l.domain ≤ 7 && l.scope ≤ 4 && 1 ≤ l.extent &&
  (top || domainRank enc < domainRank l.domain) &&
  (l.width = 0 || l.domain = 7 || l.domain = 5) &&
  (if l.domain = 7 then
      (l.width = 2 || l.width = 4 || l.width = 8) && l.cores &&
      (match next with
        | some c => c.domain = 5 && c.extent = l.width && c.first = 0
        | none => false)
   else true) &&
  (if l.domain = 5 ∧ l.width ≠ 0 then
      (enc = 3 || enc = 2) &&
      l.width ≤ (if enc = 3 then 8 else 16) &&
      decide (lastCell enc l.width l.extent (if l.first = anyFirst then 0 else l.first) < domainSize enc 0)
   else if l.domain = 6 then true
   else (if l.first = anyFirst then l.extent else l.first + l.extent) ≤ domainCount enc w l.domain l.width)

def levelsOk : Bool → Nat → Nat → List Level → Bool
  | _, _, _, [] => true
  | top, enc, w, l :: r => levelOk top enc w l r.head? && levelsOk false l.domain l.width r

/-- T = the product of the extents (R364). -/
def tileCount (l : List Level) : Nat := (l.map (fun x => x.extent)).foldl (· * ·) 1

/-- Whether every level agrees with the kernel's (R361). -/
def levelsMatch (h : List Byte) (l : List Level) : Bool :=
  (List.range l.length).all (fun i =>
    let x := fieldAt h (0x30 + 2 * i) 2
    match (l.drop i).head? with
    | some v => v.domain = x % 256 && v.scope = x / 2 ^ 8 % 8 && v.cores = bit x 15
    | none => false)

/-! Cores. -/

/-- The cores of a VF's partition. -/
def coresOf (regs : List Nat) : List Nat := regs.flatMap (fun r => (List.range 256).map (fun i => 256 * r + i))

/-- The cores that may take a tile, in order: only regions that its levels meet are searched (R364). -/
def Launch.coresFor (l : Launch) (regs : List Nat) (tile : Nat) : List Nat :=
  (coresOf (regs.filter (fun r => decide (r < 32) && meetsRegion regs r 0 l.levels))).filter (fun c => (l.place regs tile c).isSome)

/-! Segments (R362). -/

/-- A test of a segment of spaces 1 and 2 made where a tile may run (R362): on some cluster that may take it; where no core may take it, in the
VF's first region. -/
def Launch.whereTile (l : Launch) (regs : List Nat) (tile own : Nat) (g : BitVec 256) (ok : Nat → Bool) : Bool :=
  let all := (regs.filter (fun r => decide (r < 32))).flatMap (fun r => [4 * r, 4 * r + 1, 4 * r + 2, 4 * r + 3])
  if (segSpace g = 1 ∨ segSpace g = 2) ∧ ¬(all ≠ [] ∧ all.all ok = true) then
    match dedup ((l.coresFor regs tile).map clusterOf) with
    | [] => ok own
    | ks => ks.any ok
  else if all ≠ [] ∧ (segSpace g = 1 ∨ segSpace g = 2) then true
  else ok own

/-- A descriptor that a launch may load: valid, with the kernel's rights, and within its window. -/
def State.launchSegOk (s : State) (own v : Nat) (b : List Byte) (rights : Nat) (g : BitVec 256) : Bool :=
  let lim := if segSpace g = 0 then recLsbytes b else if segSpace g = 1 ∨ segSpace g = 2 then recBkbytes b else 2 ^ 56
  s.segValid own v g && (segRights g &&& rights = rights) && decide (segBase g + segLimit g ≤ lim)

/-! Reading what a check needs (R366). -/

/-- A check that reads memory: it ends with status 0 to wait for a page, or with a rejection. -/
abbrev Rd (α : Type) := ExceptT Nat (StateM State) α

/-- 64 KiB pieces of a range of DVAs. -/
def allPieces : Nat → Nat → Nat → List (Nat × Nat)
  | 0, _, _ => []
  | f + 1, dva, n =>
    if n = 0 then []
    else let k := min n (2 ^ 16 - dva % 2 ^ 16); (dva, k) :: allPieces f (dva + k) (n - k)

/-- Whether the host port refuses a range of host memory (R366, R369). -/
def Package.refuses (p : Package) (a n : Nat) : Bool := p.hostHoles.any (fun h => overlap h (a, n))

/-- The scheduler's request of a page for a launch (R366). -/
def pageAsked (n dva : Nat) : FaultReq := { task := BitVec.ofNat 64 (n * 2 ^ 32), core := 0, slot := 0, dva := dva, kind := 4 }

/-- A page asked for, once. -/
def State.askPage (s : State) (r n dva : Nat) : State :=
  if (s.region r).faults.contains (pageAsked n dva) then s else s.requestPage r (pageAsked n dva)

/-- A page that was asked for is there. -/
def State.pageCame (s : State) (r n dva : Nat) : State :=
  if (s.region r).faults.contains (pageAsked n dva) then s.updRegion r (fun g => { g with faults := g.faults.filter (fun q => q ≠ pageAsked n dva) }) else s

/-- Bytes at an address of a record (R360, R366): a page that faults is requested, and the check waits. -/
def rdBytes (v n status addr len : Nat) : Rd (List Byte) := do
  if bit addr 63 then do
    let s ← get
    if s.pkg.refuses (addr % 2 ^ 56) len then throw status else return s.bytes (hostKey (addr % 2 ^ 56)) len
  else
    let s ← get
    let r := s.region0 v
    let rec go : List (Nat × Nat) → Rd (List Byte)
      | [] => return []
      | (dva, k) :: rest => do
        let s ← get
        let (s, t) := s.translate r dva false
        set s
        match t with
        | .ok pa => do
          set (s.pageCame r n dva)
          let b := s.bytes (hbmKey pa) k
          let l ← go rest
          return b ++ l
        | .fault => do
          if (s.launch n).noPage then throw status
          else do
            set (s.askPage r n dva)
            throw 0
        | _ => throw status
    go (allPieces (len / 2 ^ 16 + 2) (addr % 2 ^ 56) len)

def rejectUnless (status : Nat) (ok : Bool) : Rd Unit := if ok then pure () else throw status

/-- Whether some choice of every FIRST finds a core for each tile, in a cluster that passes a test (R364). -/
def Launch.fits (l : Launch) (regs : List Nat) (ok : Nat → Bool) : Bool :=
  (l.coresFor regs 0).any (fun c => match l.place regs 0 c with
    | some levels => (List.range l.tiles).all (fun t => (({ l with levels := levels } : Launch).coresFor regs t).any (fun c => ok (clusterOf c)))
    | none => false)

/-- Whether a co-resident level can never fit (R375): its tasks need more slots of a core than SLOTS, or bank-memory windows that its clusters can
hold under no placement. A launch that finds no cores at all is refused by a later check. -/
def State.neverFits (s : State) (regs : List Nat) (l : Launch) : Bool :=
  l.levels.any (fun x => x.cores) &&
  (l.levels.any (fun x => x.domain = 6 && decide (l.kernel.slots < x.extent)) ||
   (l.fits regs (fun _ => true) && !l.fits regs (fun k => decide (recBksize l.record ≤ (s.cluster k).n * 131072))))

/-- The regions on which a launch places levels (R125, R365). -/
def Launch.placedRegions (l : Launch) (regs : List Nat) : List Nat := regs.filter (fun r => decide (r < 32) && meetsRegion regs r 0 l.levels)

/-- A range entry (R363): DVA, pages, mode, target, and whether it is well formed. -/
def rangeAt (b : List Byte) (i : Nat) : Nat × Nat × Nat × Nat × Bool :=
  let dva := fieldAt b (16 * i) 8
  let n := fieldAt b (16 * i + 8) 4
  let mode := fieldAt b (16 * i + 12) 1
  (dva, n, mode, fieldAt b (16 * i + 13) 1, dva % 2 ^ 16 = 0 && dva / 2 ^ 56 = 0 && 1 ≤ n && mode ≤ 2 && fieldAt b (16 * i + 14) 2 = 0)

/-- Every range applied in order (R125). -/
def applyRanges (v : Nat) (placed : List Nat) (b : List Byte) : Nat → Rd (List (Nat × Nat))
  | 0 => return []
  | n + 1 => do
    let l ← applyRanges v placed b n
    let x := rangeAt b n
    rejectUnless 6 x.2.2.2.2
    let s ← get
    let target ← if x.2.2.1 = 0 then
        match s.regEntry v x.2.2.2.1 with
        | some (r, false) => pure r
        | _ => throw 6
      else pure 0
    let res := State.applyRange placed x.2.2.1 target x.2.1 x.1 (s, l, false)
    set res.1
    if res.2.2 then throw 6 else return res.2.1

/-- The checks of Table 18-3, in order, with what they read kept (R366). -/
def checkLaunch (v n : Nat) : Rd Launch := do
  let l := (← get).launch n
  let b := l.record
  rejectUnless 1 (recordOk b)
  let kaddr := fieldAt b 0x08 8
  let h ← rdBytes v n 2 kaddr 160
  rejectUnless 2 (fieldAt h 0x4A 2 ≤ 256)
  let p ← rdBytes v n 2 (kaddr + 0xA0) (8 * fieldAt h 0x4A 2)
  rejectUnless 2 (headerOk h p && fieldAt h 0x94 2 ≤ recNparams b && fieldAt h 0x14 4 ≤ recLsbytes b)
  let data ← rdBytes v n 2 (kaddr + fieldAt h 0x90 4) (fieldAt h 0x14 4)
  let params ← rdBytes v n 2 (fieldAt b 0x10 8) (8 * recNparams b)
  let levels := (List.range (recNlevels b)).map (levelAt b)
  rejectUnless 3 (1 ≤ recNlevels b && recNlevels b ≤ 8 && recNlevels b = fieldAt h 0x48 1 && levelsOk true 0 0 levels && levelsMatch h levels &&
    tileCount levels < 2 ^ 32)
  let own := 4 * (← get).region0 v
  let segs := (List.range 8).foldl (fun m i =>
    if bit (recPertile b) i then m else SMap.set 0 m i (BitVec.ofNat 256 (fieldAt b (0x180 + 32 * i) 32))) []
  let tileSegs ← (List.range 8).foldlM (fun (m : SMap (BitVec 256)) i => do
    if bit (recPertile b) i then
      rejectUnless 4 (fieldAt b (0x180 + 32 * i + 8) 24 = 0)
      let a ← rdBytes v n 4 (fieldAt b (0x180 + 32 * i) 8) (32 * tileCount levels)
      return (List.range (tileCount levels)).foldl (fun m t => SMap.set 0 m (i * 2 ^ 32 + t) (BitVec.ofNat 256 (fieldAt a (32 * t) 32))) m
    else return m) []
  let s ← get
  let at' := fun (t : Nat) (g : BitVec 256) (ok : Nat → Bool) => ({ l with levels := levels } : Launch).whereTile (s.vfTable v) t own g ok
  rejectUnless 4 ((List.range 8).all (fun i =>
    let rights := fieldAt h (0x40 + i) 1
    if bit (recPertile b) i then
      (List.range (tileCount levels)).all (fun t =>
        let g := SMap.get 0 tileSegs (i * 2 ^ 32 + t)
        at' t g (fun k => s.launchSegOk k v b rights g))
    else
      let g := SMap.get 0 segs i
      (List.range (tileCount levels)).all (fun t => at' t g (fun k => s.launchSegOk k v b rights g))))
  let l := { l with
    kernel := kernelOf kaddr h p data
    params := (List.range (recNparams b)).map (fun i => BitVec.ofNat 64 (fieldAt params (8 * i) 8))
    levels := levels, segs := segs, tileSegs := tileSegs, tiles := tileCount levels, priv := bit (fieldAt b 2 1) 0 }
  let regs := s.vfTable v
  rejectUnless 5 (!s.neverFits regs l)
  let ranges ← rdBytes v n 6 (fieldAt b 0x30 8) (16 * fieldAt b 3 1)
  let reps ← applyRanges v (l.placedRegions regs) ranges (fieldAt b 3 1)
  rejectUnless 7 (l.fits regs (fun _ => true))
  rejectUnless 8 (!l.priv || (s.queue l.queue).qctl.getLsbD 62)
  rejectUnless 9 (match l.kernel.haltab with
    | some t => chainValid t
    | none => true)
  return { l with replicas := reps, phase := 2 }

/-- SUBMISSION_CHECK (R366): an accepted launch is checked; it waits for a page, is rejected with a status, or may dispatch. -/
def execSubmissionCheck (vf launch : Nat) (s : State) : Host.Outcome State Fault Refusal :=
  let n := launchKey vf launch
  if (s.launch n).phase ≠ 1 then .next s
  else match (checkLaunch vf n).run s with
    | (.ok l, s) => .next (s.setLaunch n l)
    | (.error 0, s) => .next s
    | (.error x, s) => .next (s.setLaunch n { s.launch n with phase := 3, status := x, noPage := false })

/-! Queues (R370, R371). -/

def Queue.en (q : Queue) : Bool := q.qctl.getLsbD 63
def Queue.vf (q : Queue) : Nat := q.qctl.toNat / 2 ^ 56 % 32
def Queue.l2n (q : Queue) : Nat := q.qctl.toNat / 2 ^ 16 % 16
def Queue.prio (q : Queue) : Nat := q.qctl.toNat / 2 ^ 8 % 16
def Queue.proc (q : Queue) : Nat := q.qctl.toNat % 256
/-- The address of a record's slot (R370, R371). -/
def Queue.slotAddr (q : Queue) (e : Nat) : Nat := q.qbase.toNat / 2 ^ 10 % 2 ^ 46 * 2 ^ 10 + 1024 * (e % 2 ^ q.l2n)
/-- PHASE of record e (R371). -/
def Queue.phaseOf (q : Queue) (e : Nat) : Nat := (e / 2 ^ q.l2n + 1) % 256

/-- Whether a VF may submit (R422): it is enabled, and its weight on the host port is not 0. -/
def State.vfSubmits (s : State) (v : Nat) : Bool := s.vfEnabled v && SMap.get 0 s.pkg.linkwt (32 + v) ≠ 0

/-- QUEUE_NOTIFY (R370, R422): TAIL moves, unless it would hold more than the ring. The function whose window answers for the queue has written it:
the PF or the VF that QCTL.VF names (R427). -/
def execQueueNotify (q : Nat) (value : BitVec 64) (s : State) : Host.Outcome State Fault Refusal :=
  let x := s.queue q
  let t : Word32 := value.setWidth 32
  .next (if !s.vfSubmits x.vf ∨ 2 ^ x.l2n < (t - x.head).toNat then s else s.setQueue q { x with tail := t })

/-- QCTL_WRITE (R370): a VF, which is the one that QCTL.VF names (R427), writes the fields that are its own; setting EN counts records from 0, clearing it empties the ring. L2N above
12 keeps its old value. DESIGN CHOICE (log 42): on a KJ-PX9C the field VF takes 16 to 31 as it takes any number (R1). -/
def execQctlWrite (q : Nat) (pf : Bool) (value : BitVec 64) (s : State) : Host.Outcome State Fault Refusal :=
  let x := s.queue q
  let mine : Word := if pf then 0xFF000000000F0FFF#64 else 0x20000000000F0FFF#64
  let v := (x.qctl &&& ~~~mine) ||| (value &&& mine)
  let v := if 12 < v.toNat / 2 ^ 16 % 16 then (v &&& ~~~0xF0000#64) ||| (x.qctl &&& 0xF0000#64) else v
  let x' := { x with qctl := v }
  .next (s.setQueue q
    (if v.getLsbD 63 && !x.en then { x' with head := 0, tail := 0, backoff := 0, due := 0 }
     else if !v.getLsbD 63 && x.en then { x' with tail := x.head, backoff := 0, due := 0 } else x'))

/-- QERR_CLEAR (R370). -/
def execQerrClear (q : Nat) (value : BitVec 64) (s : State) : Host.Outcome State Fault Refusal :=
  let x := s.queue q
  .next (s.setQueue q { x with qerr := x.qerr &&& ~~~(value &&& 0xC000000000000000#64) })

/-- Whether the launch number a VF assigns next is free (R372). -/
def State.numberFree (s : State) (v : Nat) : Bool :=
  let p := (s.launch (launchKey v (s.vf v).nextLaunch)).phase
  p = 0 || p = 4

/-- Whether a record of the queue is still being checked (R366). -/
def State.checking (s : State) (q : Nat) : Bool := s.launches.any (fun p => p.2.phase = 1 && p.2.queue = q)

/-- The fetch of the queue's next record (R371, R372): accepted and numbered, or tried again after a back-off. -/
def State.fetchRecord (s : State) (q : Nat) : State :=
  let x := s.queue q
  let v := x.vf
  let e := x.head.toNat
  let addr := x.slotAddr e
  let got := if x.qbase.getLsbD 63 then (s, if s.pkg.refuses addr 640 then none else some (s.bytes (hostKey addr) 640)) else s.readDva (s.region0 v) addr 640
  let later := fun (s : State) =>
    let n := if x.backoff = 0 then 256 else min 16384 (2 * x.backoff)
    s.setQueue q { x with backoff := n, due := (s.region (s.region0 v)).clock + n }
  match got with
  | (s, none) => later s
  | (s, some b) =>
    if fieldAt b 0 1 ≠ x.phaseOf e ∨ !recCheckOk b ∨ !s.numberFree v then later s
    else
      let n := (s.vf v).nextLaunch
      let s := s.setQueue q { x with head := x.head + 1, backoff := 0, due := 0 }
      let s := s.setVf v { s.vf v with nextLaunch := (n + 1) % 2 ^ 24 }
      s.setLaunch (launchKey v n) { phase := 1, record := b, queue := q, recNo := x.head, prio := x.prio }

/-- Whether a queue has a record to fetch. -/
def State.fetchable? (s : State) (q : Nat) : Bool := let x := s.queue q; x.en && decide (x.head ≠ x.tail) && s.vfSubmits x.vf && !s.checking q

/-- RECORD_FETCH (R371). -/
def execRecordFetch (q : Nat) (s : State) : Host.Outcome State Fault Refusal :=
  .next (if s.fetchable? q ∧ (s.queue q).backoff = 0 then s.fetchRecord q else s)

/-- RECORD_REFETCH (R371): the record is fetched again once its back-off has passed. -/
def execRecordRefetch (q : Nat) (s : State) : Host.Outcome State Fault Refusal :=
  let x := s.queue q
  .next (if s.fetchable? q ∧ x.backoff ≠ 0 ∧ x.due ≤ (s.region (s.region0 x.vf)).clock then s.fetchRecord q else s)

/-! Device-side submission (R381). -/

/-- Whether a segment covers a kernel image: its header is read through it (R381). -/
def kernelCovered (kaddr : Nat) (g : BitVec 256) (n : Nat) : M Bool := do
  let want := if bit kaddr 63 then 6 else 3
  let a := kaddr % 2 ^ 56
  if segRights g &&& rX = 0 ∨ segSpace g ≠ want then return false
  else if a < segBase g ∨ segBase g + segLimit g < a + 160 then return false
  else do
    let l : Loc := { seg := g, eo := a - segBase g, ptr := BitVec.ofNat 64 (n * 2 ^ 52 + a - segBase g) }
    match ← readM l 160 with
    | some h => return decide (a + fieldAt h 0x90 4 + fieldAt h 0x14 4 ≤ segBase g + segLimit g)
    | none => return false

/-- LAUNCH (R381). -/
def execLaunch (d a : BitVec 5) (s : State) : Host.Outcome State Fault Refusal :=
  finish (do
    notHandler
    if s.th.sp.role ≠ .none then specTrap
    waitM .accesses
    let l ← check (s.rdS a) 0 640 64 rR anySpace
    let s ← get
    let q := (s.rdS d).toNat
    let status := fun (n : Nat) => do
      setS d (BitVec.ofNat 64 n)
      retireM
    let x := s.queue q
    if 2 ^ 14 ≤ q then status 1
    else if x.vf ≠ taskVf s.th.id.task ∨ !x.en ∨ !x.qctl.getLsbD 61 ∨ (x.qctl.getLsbD 62 ∧ !s.th.id.priv) then status 2
    else if 2 ^ x.l2n ≤ (x.tail - x.head).toNat then status 3
    else
      match ← readM l 640 with
      | none => status 4
      | some b => do
        let ok ← (List.range 8).foldlM (fun ok i =>
          if ok then pure true else kernelCovered (fieldAt b 0x08 8) (s.th.r.rdG i) i) false
        if !ok then status 4
        else do
          let e := x.tail.toNat
          let b1 := leBytes 1 (x.phaseOf e) ++ (b.drop 1).take 0xFB ++ List.replicate 4 0#8 ++ (b.drop 0x100)
          let b2 := b1.take 0xFC ++ leBytes 4 (crc32c b1).toNat ++ b1.drop 0x100
          let addr := x.slotAddr e
          let pieces ← if x.qbase.getLsbD 63 then pure [(hostKey addr, 640)]
            else translatePieces (s.region0 x.vf) true 1 0 (pagePieces addr 640)
          modify (fun s => (s.setCells (layOver pieces b2)).setQueue q { x with tail := x.tail + 1 })
          status 0) s

end Sys2Proof.Machine
end

