-- ==== Sys2Proof/Machine/Scheduler.lean ====
section
/-! DEFINITION. The scheduler (18, R364 to R380): windows, dispatch, arbitration, completion, pre-emption, parked-eviction, the load
table and migration. -/

namespace Sys2Proof.Machine

/-! Windows. -/

/-- A place for a launch's bank-memory window in a cluster, if there is one (R160). -/
def State.bkFit (s : State) (n k : Nat) : Option Nat :=
  windowFit (Config.windowPlace n (8192 + k) (s.region (k / 4)).clock) ((s.cluster k).windows.map (fun w => w.2)) (recBksize (s.launch n).record)
    ((s.cluster k).n * 131072) 2048

/-- A launch's bank-memory window in a cluster, allotted now if it has none (R160); none when it does not fit. -/
def State.needBank (s : State) (n k : Nat) : Option (State × Nat) :=
  match (s.cluster k).windows.find? (fun w => w.1 = n) with
  | some w => some (s, w.2.1)
  | none => (s.bkFit n k).map (fun a =>
      (s.setCluster k (let c := s.cluster k; { c with windows := c.windows ++ [(n, a, recBksize (s.launch n).record)] }), a))

/-! Placing a tile (R364, R367). -/

/-- The descriptor of a tile's segment entry (R362). -/
def Launch.entry (l : Launch) (tile i : Nat) : BitVec 256 :=
  if bit (recPertile l.record) i then SMap.get 0 l.tileSegs (i * 2 ^ 32 + tile) else SMap.get 0 l.segs i

/-- A descriptor relocated into the windows of a core's launch (R129, R160, R362); none when a bank window does not fit. A space-2 descriptor has a
window allotted in the cluster that it names, whether or not a task of the launch is dispatched there (DESIGN CHOICE: R160 says no more than
that its BASE is relative to that window). -/
def State.relocate (s : State) (n core lsStart : Nat) (g : BitVec 256) : Option (State × BitVec 256) :=
  if segLimit g = 0 then some (s, 0)
  else
    let moved := fun (a : Nat) => segMake (segBase g + a) (segLimit g) (segSpace g) (segRights g) (segScale g) (segCore g) (segLregion g)
      (segCluster g) (segWindow g)
    match segSpace g with
    | 0 => some (s, moved lsStart)
    | 1 => (s.needBank n (clusterOf core)).map (fun p => (p.1, moved p.2))
    | 2 => (s.needBank n (4 * regionOf core + segCluster g)).map (fun p => (p.1, moved p.2))
    | _ => some (s, g)

/-- g0 to g7 of a tile's task. -/
def State.tileSegs (s : State) (n core lsStart tile : Nat) : Nat → Option (State × SMap (BitVec 256))
  | 0 => some (s, [])
  | i + 1 => (State.tileSegs s n core lsStart tile i).bind (fun p =>
      (p.1.relocate n core lsStart ((p.1.launch n).entry tile i)).map (fun q => (q.1, SMap.set 0 p.2 i q.2)))

def taskId (v n tile : Nat) : Word := BitVec.ofNat 64 (v * 2 ^ 56 + n * 2 ^ 32 + tile)

/-- The state of a task at dispatch (Table 18-4). -/
def Launch.newThread (l : Launch) (v n tile logical clock : Nat) (g : SMap (BitVec 256)) : Thread :=
  { st := .ready
    r := { (({} : Regs).wrS 1 (BitVec.ofNat 64 tile)) with
           pc := BitVec.ofNat 64 (4 * l.kernel.entry), g := g, rmode := BitVec.ofNat 3 (fieldAt l.record 4 1)
           seed := BitVec.ofNat 64 (fieldAt l.record 0x20 8) ^^^ (BitVec.ofNat 64 tile * 0xD1B54A32D192ED03#64) }
    id := { task := taskId v n tile, lregion := BitVec.ofNat 5 logical, priv := l.priv, scope := ((l.levels.getLast?).map (fun x => x.scope)).getD 0,
            nomig := bit (fieldAt l.record 2 1) 1, dispatched := clock } }

/-- Whether a saved context of a launch goes before its undispatched tasks in a slot (R374, R376). -/
def State.savedFirst (s : State) (n k : Nat) : Bool :=
  let core := coreOf k
  s.keptFor k ≠ some n && (List.range 32).any (fun r => (s.region r).contexts.any (fun c =>
    taskKey c.task = n && s.resumable r c && s.ctxAdmits r c core))

/-- The gang width of a launch, and how far apart the tiles of neighbouring gang cores are (R364). -/
def Launch.gang (l : Launch) : Option (Nat × Nat) :=
  (l.levels.find? (fun x => x.domain = 7)).map (fun g =>
    (g.width, ((l.levels.filter (fun x => x.domain = 6)).map (fun x => x.extent)).foldl (· * ·) 1))

/-- Tasks of one gang share a slot number (R247): the slot that an earlier member of the tile's gang has, if any. -/
def State.gangSlot (s : State) (v n tile : Nat) : Option Nat :=
  match (s.launch n).gang with
  | none => none
  | some (w, step) =>
    let first := tile - tile / step % w * step
    (s.threadKeys.find? (fun k => (List.range w).any (fun i => (s.getT k).id.task = taskId v n (first + i * step) && (s.getT k).st ≠ .empty))).map slotOf

/-- A slot kept after an eviction is kept no longer: a task has taken it (R376). -/
def State.releaseKept (s : State) (k : Nat) : State :=
  s.updRegion (regionOf (coreOf k)) (fun g =>
    { g with contexts := g.contexts.map (fun c => if c.kept = some k then { c with kept := none } else c) })

/-- A tile placed in a slot: everything R364, R367, R81 and R130 ask for is checked; none when it may not go there now. -/
def State.placeTile (s : State) (v num tile k : Nat) : Option State :=
  let n := launchKey v num
  let l := s.launch n
  let core := coreOf k
  let regs := s.vfTable v
  if l.phase ≠ 2 ∨ l.tiles ≤ tile ∨ l.dispatched.contains tile ∨ slotOf k = 15 ∨ (s.getT k).st ≠ .empty ∨ !s.regionUp v (regionOf core) ∨
    l.kernel.slots ≤ s.residentOn n core ∨ (s.gangSlot v num tile).any (fun x => x ≠ slotOf k) ∨
    (s.keptFor k).any (fun m => m ≠ n) then none
  else
    (l.place regs tile core).bind (fun levels =>
      (s.needWindow n core).bind (fun w =>
        (w.1.needBank n (clusterOf core)).bind (fun b =>
          (b.1.tileSegs n core w.2 tile 8).bind (fun g =>
            let s := g.1
            let t := l.newThread v num tile ((s.logicalOf v (regionOf core)).getD 0) (s.clockAt core) g.2
            if levels ≠ l.levels ∧ !({ l with levels := levels } : Launch).fits regs (fun _ => true) then none
            else (s.placement t.id.task 0 6 core false).map (fun s =>
              let l := s.launch n
              (((s.setLaunch n { l with levels := levels, dispatched := l.dispatched ++ [tile] }).setT k t).sortHal k).releaseKept k)))))

/-- The tiles that must be dispatched with a tile, as the first of them and their count: those of its instance of the outermost
co-resident level (R375), and for a co-resident SLOT level all its tasks (R364). -/
def coGroup : List Level → Nat → Nat × Nat
  | [], t => (t, 1)
  | l :: r, t =>
    if l.cores then (if l.domain = 6 then (0, tileCount (l :: r)) else let m := tileCount r; (t / m * m, m)) else
      let m := tileCount r
      let g := coGroup r (t % m)
      (t / m * m + g.1, g.2)

/-- The empty slots that may take a tile. -/
def State.freeSlotsFor (s : State) (v num tile : Nat) : List Nat :=
  ((s.launch (launchKey v num)).coresFor (s.vfTable v) tile).flatMap (fun c => s.emptySlots c)

/-- Tiles from `t` on placed in slots that take them (the free value says which); none when one does not fit. -/
def State.placeGroup (s : State) (v num : Nat) : Nat → Nat → Option State
  | 0, _ => some s
  | m + 1, t =>
    let free := s.freeSlotsFor v num t
    let pick := Config.slotPlace (launchKey v num) t (s.region 0).clock % (free.length + 1)
    ((free.drop pick ++ free.take pick).findSome? (fun k => s.placeTile v num t k)).bind (fun s => State.placeGroup s v num m (t + 1))

/-- A tile, with all of its co-resident group, dispatched with the tile in slot `k` (R367, R375). -/
def State.dispatch (s : State) (v num tile k : Nat) : Option State :=
  let l := s.launch (launchKey v num)
  let g := coGroup l.levels tile
  if g.1 ≠ tile ∨ s.savedFirst (launchKey v num) k then none
  else if (List.range tile).any (fun t => !l.dispatched.contains t && (l.place (s.vfTable v) t (coreOf k)).isSome) then none
  else (s.placeTile v num tile k).bind (fun s => s.placeGroup v num (g.2 - 1) (tile + 1))

/-! Arbitration (R373). -/

/-- Effective priority. -/
def Launch.eff (l : Launch) : Nat := min 15 (l.prio + l.aged)

/-- How long ago a launch number was assigned. -/
def State.age (s : State) (v num : Nat) : Nat := ((s.vf v).nextLaunch + 2 ^ 24 - num) % 2 ^ 24

/-- The launches of a VF, by number. -/
def State.launchesOf (s : State) (v : Nat) : List Nat := (s.launches.filter (fun p => p.1 / 2 ^ 24 = v)).map (fun p => p.1 % 2 ^ 24)

def State.procOf (s : State) (n : Nat) : Nat := (s.queue (s.launch n).queue).proc

/-- A launch ready to dispatch: checked, with tiles left, and no earlier launch of its queue that has dispatched nothing yet. -/
def State.readyLaunch (s : State) (v num : Nat) : Bool :=
  let l := s.launch (launchKey v num)
  l.phase = 2 && !l.lost && decide (l.dispatched.length < l.tiles) &&
  !(s.launchesOf v).any (fun m =>
    let o := s.launch (launchKey v m)
    o.queue = l.queue && (o.phase = 1 || o.phase = 2) && o.dispatched = [] && decide (s.age v num < s.age v m)) &&
  SMap.get 0 (s.vf v).weights (s.procOf (launchKey v num)) ≠ 0

/-- The next tile of a launch and the slot that takes it now. -/
def State.nextTile (s : State) (v num : Nat) : Option (Nat × Nat) :=
  let l := s.launch (launchKey v num)
  let left := (List.range l.tiles).filter (fun t => !l.dispatched.contains t && (coGroup l.levels t).1 = t)
  left.findSome? (fun t => ((s.freeSlotsFor v num t).find? (fun k => (s.dispatch v num t k).isSome)).map (fun k => (t, k)))

/-- Whether a launch goes before another of its process: higher effective priority, then older acceptance. -/
def State.goesBefore (s : State) (v a b : Nat) : Bool :=
  let la := s.launch (launchKey v a)
  let lb := s.launch (launchKey v b)
  lb.eff < la.eff || (la.eff = lb.eff && s.age v b < s.age v a)

/-- Tasks that the dispatch of a tile dispatches together (R375). -/
def State.costOf (s : State) (v num tile : Nat) : Nat := (coGroup (s.launch (launchKey v num)).levels tile).2

/-- The processes that can dispatch now, each with what its next dispatch costs. -/
def State.costs (s : State) (v : Nat) : List (Nat × Nat) :=
  (s.launchesOf v).filterMap (fun m =>
    if s.readyLaunch v m ∧ !(s.launchesOf v).any (fun o => o ≠ m && s.procOf (launchKey v o) = s.procOf (launchKey v m) && s.readyLaunch v o &&
        s.goesBefore v o m && (s.nextTile v o).isSome) then
      (s.nextTile v m).map (fun t => (s.procOf (launchKey v m), s.costOf v m t.1))
    else none)

/-- The credit of a process after a dispatch that costs `cost` (R373): when no process that can dispatch has the credit its next dispatch costs,
rounds pass, each giving every one of them its weight. None when the process has not the credit. -/
def State.spend (s : State) (v proc cost : Nat) : Option State :=
  let x := s.vf v
  let weight := fun (p : Nat) => (SMap.get 0 x.weights p).toNat
  let lack := fun (q : Nat × Nat) => (q.2 - SMap.get 0 x.credit q.1 + weight q.1 - 1) / max 1 (weight q.1)
  match s.costs v with
  | [] => none
  | q :: r =>
    let rounds := (r.map lack).foldl min (lack q)
    let c := (q :: r).foldl (fun m p => SMap.set 0 m p.1 (SMap.get 0 x.credit p.1 + rounds * weight p.1)) x.credit
    if SMap.get 0 c proc < cost then none
    else some (s.setVf v { x with credit := SMap.set 0 c proc (SMap.get 0 c proc - cost) })

/-- Unused credit is lost by a process with nothing to dispatch (R373). -/
def State.dropCredit (s : State) (v : Nat) : State :=
  let busy := (s.launchesOf v).filterMap (fun m =>
    let l := s.launch (launchKey v m)
    if l.phase = 2 ∧ !l.lost ∧ l.dispatched.length < l.tiles then some (s.procOf (launchKey v m)) else none)
  s.setVf v { s.vf v with credit := (s.vf v).credit.filter (fun p => busy.contains p.1) }

/-- TASK_DISPATCH (R364, R367, R373, R375). -/
def execTaskDispatch (thread vf launch tile : Nat) (s : State) : Host.Outcome State Fault Refusal :=
  let n := launchKey vf launch
  if !s.readyLaunch vf launch ∨
    (s.launchesOf vf).any (fun m => m ≠ launch && s.procOf (launchKey vf m) = s.procOf n && s.readyLaunch vf m && s.goesBefore vf m launch &&
      (s.nextTile vf m).isSome) then .next s
  else match (s.spend vf (s.procOf n) (s.costOf vf launch tile)).bind (fun s => s.dispatch vf launch tile thread) with
    | some s => .next (s.dropCredit vf)
    | none => .next s

/-- WINDOW_ALLOT (R130): a core that may take a task of the launch gets its local-store window, every word empty. -/
def execWindowAllot (core vf launch : Nat) (s : State) : Host.Outcome State Fault Refusal :=
  let n := launchKey vf launch
  let l := s.launch n
  if !s.readyLaunch vf launch ∨ !s.regionUp vf (regionOf core) ∨ (l.window core).isSome ∨
    !(List.range l.tiles).any (fun t => !l.dispatched.contains t && (l.place (s.vfTable vf) t core).isSome) then .next s
  else .next (((s.needWindow n core).map (fun p => p.1)).getD s)

/-- PRIORITY_AGE (R373): a millisecond at the head of its queue has passed. -/
def execPriorityAge (vf launch : Nat) (s : State) : Host.Outcome State Fault Refusal :=
  let n := launchKey vf launch
  let l := s.launch n
  .next (if s.readyLaunch vf launch ∧ l.dispatched = [] then s.setLaunch n { l with aged := l.aged + 1 } else s)

/-! Completion (R368, R369). -/

/-- Whether nothing of a launch is under way outside its tasks: engine commands, posted operations, and accesses still queued. -/
def State.launchQuiet (s : State) (n : Nat) : Bool :=
  let mine := fun (t : Word) => decide (taskKey t = n)
  !s.engines.any (fun p => p.2.any (fun c => mine c.task)) &&
  !s.cores.any (fun p => p.2.u.fifoIn.any (fun q => q.2.any (fun c => mine c.task)) || p.2.u.hq.any (fun f => mine f.task) ||
    p.2.u.retry.any (fun f => mine f.task) || (p.2.seq ++ p.2.wheel ++ p.2.far ++ p.2.mem).any (fun q => mine q.task)) &&
  !s.regions.any (fun p => p.2.port3.any (fun c => mine c.task)) &&
  !s.net.any (fun f => mine f.task) && !s.acks.any (fun r => mine r.task) && !s.hal.any (fun f => mine f.task) &&
  !s.regions.any (fun p => p.2.cut.saved.any (fun f => mine f.task) || p.2.cut.stalled.any (fun f => mine f.task))

/-- The completion word (R368). -/
def doneWord (l : Launch) (status : Nat) : List Byte :=
  (l.record.drop 0x40).take 8 ++ leBytes 1 status ++ List.replicate 3 0#8 ++ leBytes 4 l.abandoned

/-- QERR records a completion word that cannot be written (R369). -/
def State.queueError (s : State) (q : Nat) (recNo : Word32) (status : Nat) : State :=
  let x := s.queue q
  let lost := if x.qerr.getLsbD 63 then 2 ^ 62 else x.qerr.toNat / 2 ^ 62 % 2 * 2 ^ 62
  s.setQueue q { x with qerr := BitVec.ofNat 64 (2 ^ 63 + lost + status * 2 ^ 40 + recNo.toNat) }

/-- The completion word written, or reported in QERR; none while its page is awaited (R369). -/
def State.writeDone (s : State) (v n status : Nat) : State × Bool :=
  let l := s.launch n
  let a := recDonep l.record
  if a % 16 ≠ 0 then (s.queueError l.queue l.recNo status, true)
  else if bit a 63 then
    if s.pkg.refuses (a % 2 ^ 56) 16 then (s.queueError l.queue l.recNo status, true)
    else (s.setBytes (hostKey (a % 2 ^ 56)) (doneWord l status), true)
  else
    let r := s.region0 v
    match s.translate r (a % 2 ^ 56) true with
    | (s, .ok pa) => ((s.pageCame r n (a % 2 ^ 56)).setBytes (hbmKey pa) (doneWord l status), true)
    | (s, .fault) =>
      if l.noPage then (s.queueError l.queue l.recNo status, true)
      else
        (s.askPage r n (a % 2 ^ 56), false)
    | (s, _) => (s.queueError l.queue l.recNo status, true)

/-- A core without the results of a launch that nothing has popped; their reservations end with them (R268, R372). -/
def Core.dropResults (c : Core) (n : Nat) : Core :=
  let gone := fun (e : Result) => decide (taskKey e.task = n)
  if c.u.fifoOut.any (fun p => p.2.any gone) then
    { c with
      u.rsv := c.u.fifoOut.foldl (fun m p => SMap.set 0 m p.1 (SMap.get 0 m p.1 - (p.2.filter gone).length)) c.u.rsv
      u.fifoOut := c.u.fifoOut.foldl (fun m p => SMap.set [] m p.1 (p.2.filter (fun e => !gone e))) c.u.fifoOut }
  else c

/-- What a completed launch leaves behind is discarded (R217, R258, R372), its windows and replicas are freed. The DVA of a replicated page then
maps to nothing in the placed regions (DESIGN CHOICE: R125 frees the copies and says nothing of the mapping they replaced). -/
def State.clearLaunch (s : State) (n : Nat) : State :=
  let l := s.launch n
  let s := { s with
    cores := s.cores.map (fun (p : Nat × Core) => (p.1, { p.2.dropResults n with
      code := SMap.erase p.2.code n
      u.rxq := p.2.u.rxq.filter (fun e => e.launch ≠ n)
      u.hal := p.2.u.hal.filterMap (fun (b : Nat × List HalEntry) => let r := b.2.filter (fun (e : HalEntry) => e.launch ≠ n); if r = [] then none else some (b.1, r)) }))
    clusters := s.clusters.map (fun (p : Nat × Cluster) => (p.1, { p.2 with windows := p.2.windows.filter (fun w => w.1 ≠ n) })) }
  let s := l.replicas.foldl (fun s p => s.unmapPage p.1 p.2) s
  s.setLaunch n { s.launch n with lsWin := [], holds := [], replicas := [] }

/-- Whether a launch that lost a task has no task left anywhere (R418). -/
def State.launchGone (s : State) (n : Nat) : Bool :=
  (s.launch n).lost && !s.threadKeys.any (fun k => (s.getT k).st ≠ .empty && slotOf k ≠ 15 && taskKey (s.getT k).id.task = n) &&
  !s.regions.any (fun p => p.2.contexts.any (fun c => taskKey c.task = n)) && !s.migr.any (fun m => taskKey m.thread.id.task = n)

/-- Whether a launch is due to complete: rejected, or nothing of it is left (R366, R368). -/
def State.launchOver (s : State) (n : Nat) : Bool :=
  let l := s.launch n
  l.phase = 3 || (l.phase = 2 && (decide (l.tiles ≤ l.ended + l.abandoned) || s.launchGone n) && s.launchQuiet n)

/-- LAUNCH_COMPLETE (R366, R368). -/
def execLaunchComplete (vf launch : Nat) (s : State) : Host.Outcome State Fault Refusal :=
  let n := launchKey vf launch
  let l := s.launch n
  if !s.launchOver n then .next s
  else
    let status := if l.phase = 3 then l.status else if l.abandoned ≠ 0 ∨ l.lost then 10 else 0
    match (s.clearLaunch n).writeDone vf n status with
    | (s, false) => .next s
    | (s, true) =>
      let s := s.dropCredit vf
      let s := s.setLaunch n { s.launch n with phase := 4, status := status }
      let m := recMsix l.record
      .next (if 32 ≤ m ∧ m ≤ 63 then s.raise vf m else s)

/-! Pre-emption and eviction (R374, R376). -/

/-- The launch of a resident task and its effective priority. -/
def State.taskEff (s : State) (k : Nat) : Nat := (s.launchOf k).eff

/-- Whether an iteration of a slot's group is FROZEN: the scheduler leaves it to the supervisor (R333, R394). -/
def State.groupFrozen (s : State) (k : Nat) : Bool := (s.getT k).sp.slots.any (fun j => (s.getT j).st = .frozen)

/-- Tasks of a VF that a launch may pre-empt: lower effective priority, on a core where the launch may place an undispatched tile. -/
def State.victims (s : State) (v num : Nat) : List Nat :=
  let n := launchKey v num
  let l := s.launch n
  let regs := s.vfTable v
  s.threadKeys.filter (fun k =>
    let t := s.getT k
    (t.st = .ready || t.st = .parked) && slotOf k ≠ 15 && (t.sp.role = .none || t.sp.inOwner) && taskVf t.id.task = v && !s.groupFrozen k &&
    s.taskEff k < l.eff &&
    (List.range l.tiles).any (fun i => !l.dispatched.contains i && (l.place regs i (coreOf k)).isSome))

/-- The first victim: lowest priority, then most recent dispatch, then higher slot. -/
def State.worst (s : State) : List Nat → Option Nat
  | [] => none
  | k :: r => match s.worst r with
    | none => some k
    | some j =>
      let a := s.getT k
      let b := s.getT j
      let first := s.taskEff k < s.taskEff j || (s.taskEff k = s.taskEff j && (b.id.dispatched < a.id.dispatched ||
        (a.id.dispatched = b.id.dispatched && slotOf j < slotOf k)))
      some (if first then k else j)

/-- A scheduler's save begins in a pool area of the slot's region; none when no area is free (R393). -/
def State.schedSave (s : State) (k kind : Nat) (unrec : Bool) : Option State :=
  let r := regionOf (coreOf k)
  (s.poolArea r).bind (fun p =>
    match s.dvaKeys r p 5120 true with
    | (s, some _) => some ((s.holdArea r p).beginSave k p kind true unrec)
    | _ => none)

/-- What the next placement record of a slot's task directs in replay, once the task has come to it (R350): its kind and core. -/
def State.directed (s : State) (k : Nat) : Option (Nat × Nat) :=
  let t := s.getT k
  if t.st = .empty ∨ slotOf k = 15 then none
  else (s.nextPlacement (regionOf (coreOf k)) t.id.task).bind (fun p => if p.2.2.1 = t.en.logN then some (p.1, p.2.1) else none)

/-- The slots, of some, whose next placement record directs an action of a kind that their state allows (R83, R350). -/
def State.directedTo (s : State) (kind : Nat) (l : List Nat) : Option Nat :=
  l.find? (fun k =>
    let t := s.getT k
    (t.st = .ready || t.st = .parked) && (t.sp.role = .none || t.sp.inOwner) && (s.directed k).any (fun d => d.1 = kind))

/-- PREEMPT (R374): a launch that cannot place a task takes the slot of one victim. In replay a recorded pre-emption of one of its own tasks is
carried out when the task comes to it (R350). -/
def execPreempt (vf launch : Nat) (s : State) : Host.Outcome State Fault Refusal :=
  let own := s.threadKeys.filter (fun k => taskKey (s.getT k).id.task = launchKey vf launch)
  match s.directedTo 13 own with
  | some k => .next ((s.schedSave k 13 false).getD s)
  | none =>
    if !s.readyLaunch vf launch ∨ (s.nextTile vf launch).isSome ∨ s.threadKeys.any (fun k => (s.getT k).st = .saving) then .next s
    else match s.worst (s.victims vf launch) with
      | none => .next s
      | some k =>
        let replay := decide ((s.log (regionOf (coreOf k))).mode = 2)
        .next ((s.schedSave k 13 replay).getD s)

/-- The waits that parked-eviction counts (R376, R347, R349). -/
def Park.evicts : Park → Bool
  | .fullEmpty _ _ _ _ _ => true
  | .waitgen _ _ _ _ _ => true
  | .recv _ _ => true
  | .hrecv => true
  | .logFull _ => true
  | .replay _ => true
  | _ => false

/-- The slot whose waiting counts for a task: of an open group its oldest iteration's (R335). -/
def State.waitsIn (s : State) (k : Nat) : Nat :=
  let p := (s.getT k).sp
  if p.act && p.winOpen then p.posKey k p.winA else k

/-- The resident tasks of a launch in a region. -/
def State.residents (s : State) (n r : Nat) : List Nat :=
  s.threadKeys.filter (fun k =>
    (s.getT k).st ≠ .empty && slotOf k ≠ 15 && ((s.getT k).sp.role = .none || (s.getT k).sp.inOwner) && regionOf (coreOf k) = r && taskKey (s.getT k).id.task = n)

/-- The earliest parked of some slots; ties to the lower core, then the lower slot. -/
def State.oldestParked (s : State) : List Nat → Option Nat
  | [] => none
  | k :: r => match s.oldestParked r with
    | none => some k
    | some j => some (if (s.getT (s.waitsIn k)).w.since < (s.getT (s.waitsIn j)).w.since ∨
        ((s.getT (s.waitsIn k)).w.since = (s.getT (s.waitsIn j)).w.since ∧ k < j) then k else j)

/-- Whether a launch is stuck in a region (R376). -/
def State.stuck (s : State) (v num r : Nat) : Bool :=
  let n := launchKey v num
  let l := s.launch n
  let res := s.residents n r
  let regs := s.vfTable v
  let left := (List.range l.tiles).filter (fun t => !l.dispatched.contains t)
  let here := coresOf [r]
  l.phase = 2 && res ≠ [] && !l.levels.any (fun x => x.cores) && regs.contains r &&
  left.any (fun t => here.any (fun c => (l.place regs t c).isSome)) &&
  !here.any (fun c => (s.emptySlots c).any (fun k => (s.keptFor k).all (fun m => m = n)) && decide (s.residentOn n c < l.kernel.slots) &&
    ((l.window c).isSome || (s.lsFit n c).isSome) && (s.needBank n (clusterOf c)).isSome && left.any (fun t => (l.place regs t c).isSome)) &&
  res.all (fun k =>
    let t := s.getT (s.waitsIn k)
    t.st = .parked && t.w.park.evicts && t.w.since + 65536 ≤ (s.region r).clock)

/-- The longest-parked task of a launch that is stuck in a region is saved (R376). -/
def State.evict (s : State) (r n : Nat) : State :=
  if s.stuck (n / 2 ^ 24) (n % 2 ^ 24) r then
    match s.oldestParked (s.residents n r) with
    | none => s
    | some k => (s.schedSave k 8 false).getD s
  else s

/-- EVICTION_TEST (R376): each launch of the region is tested. In replay the records direct it (R350). -/
def execEvictionTest (region : Nat) (s : State) : Host.Outcome State Fault Refusal :=
  if (s.log region).mode = 2 then
    match s.directedTo 8 (s.threadKeys.filter (fun k => regionOf (coreOf k) = region)) with
    | none => .next s
    | some k => .next ((s.schedSave k 8 false).getD s)
  else .next ((s.launches.map (fun p => p.1)).foldl (fun s n => s.evict region n) s)

/-! Load and migration (R377 to R380). -/

/-- READY threads of a core. -/
def State.readyCount (s : State) (core : Nat) : Nat := (s.readySlots core).length

/-- LOAD_TABLE_REFRESH (R377): the table, OWN of each core, and since when each core has been overloaded (R379). -/
def execLoadTableRefresh (cluster : Nat) (s : State) : Host.Outcome State Fault Refusal :=
  let counts := (List.range 64).map (fun i => s.readyCount (64 * cluster + i))
  let total := counts.foldl (· + ·) 0
  let load := (List.range 64).foldl (fun m i => SMap.set 0 m i ((counts.drop i).headD 0)) []
  let s := s.setCluster cluster { s.cluster cluster with load := load }
  .next ((List.range 64).foldl (fun s i =>
    let c := 64 * cluster + i
    let own := (counts.drop i).headD 0
    let x := s.core c
    s.setCore c { x with own := own, loadSince := if own ≤ total / 64 then s.clockAt c else x.loadSince }) s)

/-- Whether a task may be migrated, NOMIG apart (R379). -/
def State.migratable (s : State) (k : Nat) : Bool :=
  let t := s.getT k
  t.st = .ready && slotOf k ≠ 15 && t.id.scope ≤ 3 && t.sp.role = .none && !t.sp.act && t.en.gangN = 0 &&
  (s.relReqs k).isEmpty && s.netQuiet k && s.threadCmds k = [] && t.en.asm = [] && t.en.repush = [] && t.is.deferred = [] &&
  !s.unitsBusy k && (s.core (coreOf k)).u.held (slotOf k) = 0 &&
  !(List.range 4).any (fun p => (SMap.get [] (s.core (coreOf k)).u.fifoOut p).any (fun x => x.task = t.id.task)) &&
  !(s.region (regionOf (coreOf k))).port3.any (fun c => c.task = t.id.task) &&
  !(SMap.get [] (s.core (coreOf k)).u.fifoIn 3).any (fun c => c.task = t.id.task)

/-- Whether a core has a slot and a window for a task of a launch (R379). -/
def State.takesTask (s : State) (n core : Nat) : Bool :=
  s.openSlots core ≠ [] && decide (s.residentOn n core < (s.launch n).kernel.slots) &&
  (((s.launch n).window core).isSome || (s.lsFit n core).isSome)

/-- A task leaves its slot as a migration message (R379): what stays behind is its local store and its receive-queue entries; the frame it is in
is fetched again where it arrives (R73). -/
def State.migrateOut (s : State) (k dst : Nat) : State :=
  let t := s.getT k
  let n := taskKey t.id.task
  let s := s.setT k {}
  ({ s with migr := s.migr ++ [{ thread := { t with is.ibuf := [], is.frame := [] }, dst := dst }] } : State).reclaim n

/-- MIGRATION_ARRIVE (R379): the task is READY in the lowest EMPTY slot of the target that its launch may use (R81, R376), with its space-0 segments in
the window there. -/
def execMigrationArrive (i : Nat) (s : State) : Host.Outcome State Fault Refusal :=
  match s.migr[i]? with
  | none => .next s
  | some m =>
    let n := taskKey m.thread.id.task
    match s.openSlots m.dst with
    | [] => .next s
    | k :: _ =>
      if (s.launch n).kernel.slots ≤ s.residentOn n m.dst then .next s
      else match (s.placement m.thread.id.task m.thread.en.logN 7 m.dst false).bind (fun s => s.needWindow n m.dst) with
        | none => .next s
        | some (s, w) =>
          let t := { m.thread with
            st := .ready
            r := m.thread.r.rebase m.thread.w.since w
            is := { m.thread.is with lastIss := none, gap := 8, woken := false }
            w := { hostDirty := m.thread.w.hostDirty } }
          .next ((({ s with migr := s.migr.eraseIdx i }.setT k t).sortHal k).reclaim n)

/-- A task set on its way: its message carries the start of the window it leaves. -/
def State.sendTask (s : State) (k dst : Nat) : State :=
  let old := ((s.launch (taskKey (s.getT k).id.task)).window (coreOf k)).getD 0
  (s.updT k (fun t => { t with w.since := old })).migrateOut k dst

/-- MIGRATION_INTERVAL (R379): the interval of an overloaded core has passed; its lowest-numbered migratable task goes to IDLE, when IDLE
is less loaded by more than one and can take it. In replay a task goes where its record says, once it has come to it (R350). -/
def execMigrationInterval (core : Nat) (s : State) : Host.Outcome State Fault Refusal :=
  let k := s.cluster (clusterOf core)
  let x := s.core core
  let total := (k.load.map (fun p => p.2)).foldl (· + ·) 0
  let slots := (List.range 15).map (fun i => 16 * core + i)
  let restart := fun (s : State) => s.updCore core (fun c => { c with loadSince := s.clockAt core })
  if (s.log (regionOf core)).mode = 2 then
    match (s.directedTo 7 (slots.filter s.migratable)).bind (fun t => (s.directed t).map (fun d => (t, d.2))) with
    | some (t, dst) =>
      if clusterOf dst = clusterOf core ∧ s.takesTask (taskKey (s.getT t).id.task) dst then .next (s.sendTask t dst) else .next s
    | none => .next s
  else if !k.migEn ∨ x.own ≤ total / 64 ∨ s.clockAt core < x.loadSince + k.migInt.toNat then .next s
  else
    let p := idlePort k.load 64
    let dst := 64 * clusterOf core + p
    match slots.find? (fun t => s.migratable t && !(s.getT t).id.nomig) with
    | none => .next (restart s)
    | some t =>
      if SMap.get 0 k.load p + 1 < x.own ∧ s.takesTask (taskKey (s.getT t).id.task) dst then .next (restart (s.sendTask t dst))
      else .next (restart s)

/-- What placement records direct of the tasks of a core is carried out as soon as their state allows it (R350). -/
def State.carryOut (s : State) (core : Nat) : State :=
  if (s.log (regionOf core)).mode ≠ 2 then s
  else
    let slots := (List.range 15).map (fun i => 16 * core + i)
    [8, 13].foldl (fun s kind => ((s.directedTo kind slots).bind (fun k => s.schedSave k kind false)).getD s) (afterOf s (execMigrationInterval core s))

/-- Whether a task's next placement record directs a migration to a core (R350, R380). -/
def State.migrationRecorded (s : State) (k dst : Nat) : Bool :=
  let t := s.getT k
  (s.log (regionOf dst)).mode ≠ 2 || (s.nextPlacement (regionOf dst) t.id.task).any (fun p => p.1 = 7 && p.2.1 = dst && p.2.2.1 = t.en.logN)

/-- MIGRATE (R380). -/
def execMigrate (d a : BitVec 5) (s : State) : Host.Outcome State Fault Refusal :=
  finish (do
    notHandler
    if s.th.sp.role ≠ .none then specTrap
    let c := (s.rdS a).toNat
    let port := idlePort (s.cluster s.clusterNo).load 64
    let dst := if c = 2 ^ 64 - 1 then 64 * s.clusterNo + port else c
    let status := fun (n : Nat) => do
      setS d (BitVec.ofNat 64 n)
      retireM
    if dst / 64 ≠ s.clusterNo then status 2
    else if dst = s.coreNo then status 4
    else if !s.migratable s.cur ∨ !s.migrationRecorded s.cur dst then status 1
    else if !s.takesTask (taskKey s.th.id.task) dst then status 3
    else do
      status 0
      modify (fun s => s.sendTask s.cur dst)) s

end Sys2Proof.Machine
end

