-- ==== Sys2Proof/Machine/Region.lean ====
section
/-! DEFINITION. Regions (21): the reset of a region (R417 to R419), the reset of the package (R16, R436), windows (R414 to R416), region
causes (R423), and consistent cuts (19, R403, R404; R424). -/

namespace Sys2Proof.Machine

/-! Firmware images (22, R435 to R438). -/

/-- The bytes of a 384-bit digest, first byte first. -/
def digestBytes (d : BitVec 384) : List Byte := (List.range 48).map (fun i => (d >>> (376 - 8 * i)).setWidth 8)

/-- Bytes 0x00 to 0x7F of an image whose reserved bytes are zero (Table 22-6). -/
def imageHeader (im : FirmwareImage) : List Byte :=
  leBytes 4 im.magic.toNat ++ leBytes 1 im.kind.toNat ++ List.replicate 3 0#8 ++ leBytes 4 im.svn.toNat ++ leBytes 4 im.payload.length ++
  digestBytes im.digest ++ List.replicate 64 0#8

/-- FWST.FAIL of an image of a kind: 0 when it is accepted (R436, Table 22-7). -/
def imageFail (im : FirmwareImage) (kind : BitVec 8) : Nat :=
  if im.magic ≠ 0x57464A4B#32 ∨ im.kind ≠ kind ∨ im.reservedZero = false then 5
  else if !Config.rsaVerifies im.rsaSig (imageHeader im) then 1
  else if !Config.slhVerifies im.slhSig (imageHeader im) then 2
  else if sha384 im.payload ≠ im.digest then 3
  else if im.svn.toNat < Config.minSvn then 4
  else 0

/-! Steps 1 to 5 of a reset (Table 21-4). -/

def State.updOwn (s : State) (r : Nat) (f : Own → Own) : State := s.updRegion r (fun g => { g with own := f g.own })

/-- A reset step begins: PHASE, its trigger and, for steps 2 to 6, its record (R417, R425, R442). -/
def State.beginStep (s : State) (r n : Nat) : State :=
  let s := (s.updOwn r (fun o => { o with phase := n })).fire (r / 4) 4 n (r % 4)
  if 2 ≤ n ∧ n ≤ 6 then s.blackBox r 3 n 0 0 else s

/-- A word of a window takes its new value; a write of word 0 clears GONE (R414). -/
def State.setWindow (s : State) (r n word : Nat) (value : BitVec 64) : State :=
  let w := SMap.get {} (s.region r).win n
  let w : Win := if word = 0 then { w with w0 := value &&& 0xB8FFFFFFFFFF001F#64 } else { w with w1 := value &&& 0xFFFFFFFF#64 }
  (s.updRegion r (fun g => { g with win := SMap.set {} g.win n w })).blackBox r 9 n w.w0 0

/-- The writes of windows that wait take effect, in order. -/
def State.windowsSet (s : State) (r : Nat) : State :=
  (s.region r).winPend.foldl (fun s q => s.setWindow r q.1 q.2.1 q.2.2) (s.updRegion r (fun g => { g with winPend := [] }))

/-- Step 1: the gate closes and every window is lost, after the writes of windows that were still waiting. -/
def State.closeGate (s : State) (r : Nat) : State :=
  let s := (s.windowsSet r).updRegion r (fun g =>
    { g with
      own := { g.own with gate := false }
      win := (List.range 4).foldl (fun m n =>
        let w := SMap.get {} m n
        SMap.set {} m n { w with w0 := (w.w0 &&& 0x3FFFFFFFFFFFFFFF#64) ||| 0x4000000000000000#64 }) g.win })
  s.blackBox r 1 0 0 0

/-- A queued access whose region is in reset is refused (R259, R417): a strong one traps at its instruction, and no other part of it is
performed; a relaxed one becomes a deferred trap of its thread. -/
def State.refuseReq (s : State) (q : RelReq) : State :=
  let t := s.getT q.who
  if !s.runs q.who q.task then s
  else if !q.strong then s.defer q.who tRegionGone q.pc q.ptr
  else if t.w.park ≠ .access ∨ t.w.acc.no ≠ q.no then s
  else
    let others := fun (l : List RelReq) => l.filter (fun x => x.who ≠ q.who || x.no ≠ q.no)
    let s := s.updCore (coreOf q.who) (fun x => { x with seq := others x.seq, wheel := others x.wheel, far := others x.far, mem := others x.mem })
    (s.switchTo q.who).takeTrap tRegionGone q.ptr 0

/-- A core's queued accesses to a region's memory are refused (R417). -/
def State.refuseMem (s : State) (r c : Nat) : State :=
  let hit := fun (q : RelReq) => decide (keyRegion q.op.key (regionOf c) = r)
  let l := (s.core c).mem.filter hit
  if l = [] then s
  else l.foldl State.refuseReq (s.updCore c (fun x => { x with mem := x.mem.filter (fun q => !hit q) }))

/-- Step 2: flits addressed to the region are refused to senders elsewhere, and what is on its way to its threads is lost (R284, R417). -/
def State.refuseFlits (s : State) (r : Nat) : State :=
  let into := fun (f : Flit) => decide (regionOf f.dst = r)
  let g := s.region r
  let queued := (s.cores.filter (fun p => regionOf p.1 = r)).flatMap (fun p => p.2.u.hq)
  let l := (s.net.filter into ++ queued ++ g.cut.saved ++ g.cut.stalled).filter (fun f => regionOf (coreOf f.src) ≠ r)
  let s := { s with
    net := s.net.filter (fun f => !into f)
    hal := s.hal.filter (fun f => regionOf (coreOf f.dst) ≠ r)
    reps := s.reps.filter (fun x => regionOf (coreOf x.dst) ≠ r)
    acks := s.acks.filter (fun x => regionOf (coreOf x.dst) ≠ r) }
  let s := l.foldl (fun s f => s.refuse f tRegionGone) s
  let s := ((s.cores.map (fun p => p.1)).filter (fun c => regionOf c ≠ r)).foldl (fun s c => s.refuseMem r c) s
  let s := (s.waiters (fun p => match p with
    | .pageFault q _ => q = r
    | _ => false)).foldl (fun s k => s.updT k Thread.unfault) s
  s.wakeAll (Park.onLog r)

/-- Whether a started chunk reads or writes in a region. -/
def Cmd.reaches (c : Cmd) (r : Nat) : Bool := c.touches (fun k => !isHost k && decide (keyRegion k (regionOf c.core) = r))

/-- Step 3: the region's engine commands end; commands elsewhere that reach it, and every rank of its collectives, end GONE (R284,
R417, R419). -/
def State.abortEngines (s : State) (r : Nat) : State :=
  let lost := fun (c : Cmd) => decide (regionOf c.core = r)
  let a2a := (s.engines.flatMap (fun p => p.2.filter (fun c => lost c && c.kind = 4))).map (fun c => (c.vf, c.cid))
  let s := { s with a2a := s.a2a.filter (fun f => !a2a.contains (f.vf, f.cid)) }
  (s.engines.map (fun p => p.1)).foldl (fun s e =>
    s.setEngine e (((s.engine e).filter (fun c => !lost c)).map (fun c =>
      if c.reaches r ∨ (c.kind = 4 ∧ c.status.isNone ∧ a2a.contains (c.vf, c.cid)) then c.cancel 6 else c))) s

/-- Whether a key lies in a region's on-chip memory: local store, bank memory, operand slots, scale tables or accumulators (R16). -/
def inSram (r k : Nat) : Bool :=
  ((isLs k || isBank k) && keyRegion k 32 = r) ||
  (2 ^ 33 ≤ k && k < 2 ^ 34 && (k - 2 ^ 33) / 2 ^ 24 = r) ||
  (2 ^ 34 ≤ k && k < 2 ^ 35 && (k - 2 ^ 34) / 2 ^ 20 = r) ||
  (2 ^ 35 ≤ k && k < 2 ^ 36 && (k - 2 ^ 35) / 2 ^ 23 = r)

/-- Whether a reset of a region loses a context saved by region `p`: its HOMECORE, as the area says it, or a page of its area lies there (R418), or
its area is lost with the tables of `p` in the failure of a stack. -/
def State.loses (s : State) (r p : Nat) (c : Saved) : Bool :=
  decide (regionOf (s.readSaved p c).home = r) ||
  (pagePieces c.area 5120).any (fun q => match s.pageOf p q.1 with
    | some (pa, _) => decide (pa / 2 ^ 35 = r)
    | none => decide (p = r) || (decide ((s.region p).own.phase ≠ 0) && decide ((s.region p).own.cause = 5)))

/-- The tasks and launches that lose something in a region (R418): its threads, its contexts, and tasks on their way to it. -/
def State.lostTasks (s : State) (r : Nat) : List Word :=
  ((s.threadKeys.filter (fun k => regionOf (coreOf k) = r && slotOf k ≠ 15 && (s.getT k).st ≠ .empty)).map (fun k => (s.getT k).id.task)) ++
  (s.regions.flatMap (fun p => (p.2.contexts.filter (fun c => s.loses r p.1 c)).map (fun c => c.task))) ++
  ((s.migr.filter (fun m => regionOf m.dst = r)).map (fun m => m.thread.id.task))

/-- Every task of the region is lost, with the windows its launches had there (R418). -/
def State.loseTasks (s : State) (r : Nat) : State :=
  let l := s.lostTasks r
  let s' := { s with
    launches := s.launches.map (fun (p : Nat × Launch) =>
      (p.1, { p.2 with
        lost := p.2.lost || l.any (fun t => taskKey t = p.1)
        lsWin := p.2.lsWin.filter (fun w => regionOf w.1 ≠ r)
        holds := p.2.holds.filter (fun h => regionOf h.2 ≠ r && !l.contains h.1) }))
    regions := s.regions.map (fun (p : Nat × Region) =>
      (p.1, { p.2 with contexts := p.2.contexts.filter (fun c => !s.loses r p.1 c) }))
    migr := s.migr.filter (fun m => regionOf m.dst ≠ r)
    threads := s.threads.filter (fun p => regionOf (coreOf p.1) ≠ r) }
  if s.regionNo = r then { s' with th := {}, issuing := false } else s'

/-- What a region's own registers and unlogged state are after step 5 (R16, R120, R184, R339, R434): the registers that the steps do
not name keep their values. -/
def Region.cleared (g : Region) : Region :=
  { ptroot := g.ptroot, dirtyctl := g.dirtyctl, poolBase := g.poolBase, poolCount := g.poolCount, own := g.own, win := g.win,
    rgint := g.rgint, contexts := g.contexts, cut := { ring := g.cut.ring, ringUsed := g.cut.ringUsed }, clk := { pwr := g.clk.pwr, denied := g.clk.denied }, box := g.box, bbcnt := g.bbcnt,
    filtV := g.filtV, filtM := g.filtM, proftrig := g.proftrig }

/-- Step 5: on-chip memory is zeroised, the owner applied, and region memory zeroised if the owner changed or the cause is 5. A VF that is given its
first region is enabled by it, and counts its launches from 0 (R372, R410). -/
def State.clearRegion (s : State) (r cause : Nat) (owner : Option (Bool × Nat)) : State :=
  let old := (s.region r).own
  let new := owner.getD (old.assigned, old.vf)
  let changed := decide (new ≠ (old.assigned, old.vf))
  let wipe := changed || decide (cause = 5)
  let gone := fun (k : Nat) => inSram r k || (wipe && isHbm k && keyRegion k 32 = r)
  let s := { s with
    mem := s.mem.filter (fun p => !gone p.1)
    full := s.full.filter (fun p => !inSram r (8 * p.1))
    poison := s.poison.filter (fun p => !inSram r (8 * p.1))
    upsets := s.upsets.filter (fun p => !inSram r (8 * p.1))
    cores := s.cores.filter (fun p => regionOf p.1 ≠ r)
    clusters := (s.clusters.map (fun (p : Nat × Cluster) =>
      if p.1 / 4 = r then (p.1, ({ retired := p.2.retired } : Cluster)) else p)).filter (fun p => p.2 ≠ ({} : Cluster)) }
  let s := s.updRegion r Region.cleared
  let fresh := changed && new.1 && !(List.range 32).any (fun q => q ≠ r && (s.region q).own.assigned && (s.region q).own.vf = new.2)
  let s := s.updOwn r (fun o => { o with assigned := new.1, vf := new.2 })
  let s := if fresh then s.setVf new.2 { s.vf new.2 with nextLaunch := 0 } else s
  if changed then s.blackBox r 12 new.2 0 0 else s

/-- A reset of a region runs its steps up to the load of firmware (R417): steps 1 to 5 are taken together, and it is left in step 6. -/
def State.resetRegion (s : State) (r cause : Nat) (owner : Option (Bool × Nat)) : State :=
  let s := s.updOwn r (fun o => { o with cause := cause })
  let s := (s.beginStep r 1).closeGate r
  let s := (s.beginStep r 2).refuseFlits r
  let s := (s.beginStep r 3).abortEngines r
  let s := (s.beginStep r 4).loseTasks r
  let s := (s.beginStep r 5).clearRegion r cause owner
  { s.beginStep r 6 with pkg.meas := SMap.set 0 s.pkg.meas (2 + r) 0 }

/-- REGION_RESET (R413, R417): GO is ignored while PHASE is not 0; without `pf` the write comes from the region's owner, through the window that it
has for the region while it is enabled (R427, R437), and may not apply a new owner. DESIGN CHOICE (log 42): on a KJ-PX9C, NEWVF 16 to
31 makes that absent VF the owner (R1). -/
def execRegionReset (region : Nat) (pf : Bool) (value : BitVec 64) (s : State) : Host.Outcome State Fault Refusal :=
  let o := (s.region region).own
  let newown := value.getLsbD 62
  .next (if !value.getLsbD 63 ∨ o.phase ≠ 0 ∨ (!pf ∧ (newown ∨ !s.answersVf o.vf region)) then s
    else s.resetRegion region (if pf then 1 else 2) (if newown then some (value.getLsbD 5, value.toNat % 32) else none))

/-- RAIL_FAULT (R417). -/
def execRailFault (region : Nat) (s : State) : Host.Outcome State Fault Refusal := .next ((s.blackBox region 4 0 0 0).resetRegion region 3 none)

/-- CLOCK_FAULT (R417). -/
def execClockFault (region : Nat) (s : State) : Host.Outcome State Fault Refusal := .next ((s.blackBox region 5 0 0 0).resetRegion region 4 none)

/-- HBM_STACK_FAULT (R419): both regions of the stack, their memory zeroised. -/
def execHbmStackFault (stack : Nat) (s : State) : Host.Outcome State Fault Refusal :=
  .next ([2 * stack, 2 * stack + 1].foldl (fun s r => (s.blackBox r 6 0 0 0).resetRegion r 5 none) s)

/-! Attestation (R438). -/

/-- A VF's answer: request code and what it carries. -/
def State.spdmAnswer (s : State) (fn code : Nat) (b : List Byte) : State :=
  let v := s.vf fn
  s.setVf fn { v with spdm := (code, b) :: v.spdm }

/-- MEASn (R438): MEAS0 measures the boot ROM. -/
def Package.measure (p : Package) (n : Nat) : BitVec 384 := if n = 0 then extendMeas 0 Config.bootRomDigest else SMap.get 0 p.meas n

/-- The measurement at an index for a function: 1, 2 and 3 + logical region; the PF's regions are numbered as they are (R438), those of the part (R5). -/
def State.measAt (s : State) (fn index : Nat) : Option Nat :=
  if index = 1 then some 0
  else if index = 2 then some 1
  else if index < 3 ∨ 3 + Config.regions s.pkg.partC ≤ index then none
  else if fn = 32 then some (2 + (index - 3))
  else match s.regEntry fn (index - 3) with
    | some (r, false) => some (2 + r)
    | _ => none

/-- The regions of a function: its partition, or all of them for the PF. -/
def State.fnRegions (s : State) (fn : Nat) : List Nat := if fn = 32 then List.range (Config.regions s.pkg.partC) else s.vfRegions fn

/-- GET_MEASUREMENTS answered; an index that names nothing is answered with the error code. -/
def State.answerMeas (s : State) (fn index : Nat) : State :=
  match s.measAt fn index with
  | some m =>
    let b := digestBytes (s.pkg.measure m)
    s.spdmAnswer fn 0xE0 (b ++ Config.spdmBytes 0xE0 b)
  | none => s.spdmAnswer fn 0x7F []

/-- The measurements of a function, which a challenge's answer covers (R438). -/
def State.allMeas (s : State) (fn : Nat) : List Byte :=
  ([0, 1] ++ (s.fnRegions fn).map (fun r => 2 + r)).flatMap (fun m => digestBytes (s.pkg.measure m))

/-- The capabilities that an answer to GET_CAPABILITIES flags (R438): certificates, challenges and signed measurements, and no session of any kind.
PRESUMED (log 35): the places of the flags are those of SPDM 1.3. -/
def spdmFlags : List Byte := leBytes 4 0x16

/-- The algorithms that an answer to NEGOTIATE_ALGORITHMS selects (R438): RSAPSS_3072, then SHA-384. PRESUMED (log 35): their places are those of
SPDM 1.3. -/
def spdmAlgorithms : List Byte := leBytes 4 0x8 ++ leBytes 4 0x2

/-- A request of a function answered, by the code of its answer (R438): version 1.3 for GET_VERSION, a measurement for GET_MEASUREMENTS; what an
answer carries beyond what the rule gives is a free value. -/
def State.spdmServe (s : State) (fn code index : Nat) : State :=
  if code = 0xE0 then s.answerMeas fn index
  else if code = 0x84 then s.spdmAnswer fn code [0x00#8, 0x13#8]
  else if code = 0xE1 then s.spdmAnswer fn code (spdmFlags ++ Config.spdmBytes code [])
  else if code = 0xE3 then s.spdmAnswer fn code (spdmAlgorithms ++ Config.spdmBytes code [])
  else s.spdmAnswer fn code (Config.spdmBytes code (if code = 0x83 then s.allMeas fn else []))

/-- Whether a region of a function is reloading. -/
def State.reloading (s : State) (fn : Nat) : Bool := (s.fnRegions fn).any (fun r => (s.region r).own.phase ≠ 0)

/-- Whether a function is there to be asked (R426): the PF, and a VF that is enabled. -/
def State.fnThere (s : State) (fn : Nat) : Bool := fn = 32 || s.vfEnabled fn

/-- A request arrives (R438): it waits while a region of its function is reloading. A VF that is not enabled answers nothing. -/
def State.spdmRequest (s : State) (fn code index : Nat) : State :=
  if !s.fnThere fn then s
  else if s.reloading fn then s.setVf fn { s.vf fn with spdmWait := (s.vf fn).spdmWait ++ [(code, index)] } else s.spdmServe fn code index

/-- Requests that waited for a region are answered when no region of their function is reloading. -/
def State.answerWaiting (s : State) : State :=
  (s.vfs.map (fun p => p.1)).foldl (fun s fn =>
    if (s.vf fn).spdmWait = [] ∨ s.reloading fn then s
    else (s.vf fn).spdmWait.foldl (fun s q => s.spdmServe fn q.1 q.2) (s.setVf fn { s.vf fn with spdmWait := [] })) s

/-- RESETDONE (R417, R436): a verified image opens the region; a refused one leaves it closed in step 6 with CAUSE 6. -/
def execResetdone (region : Nat) (image : FirmwareImage) (s : State) : Host.Outcome State Fault Refusal :=
  let o := (s.region region).own
  if o.phase ≠ 6 ∨ o.cause = 6 then .next s
  else
    let f := imageFail image 2
    if f ≠ 0 then
      let s := s.updOwn region (fun o => { o with cause := 6 })
      .next (({ s with pkg.fwFail := f }.blackBox region 7 0 0 0).cause region 1)
    else
      let s := s.beginStep region 7
      let s := { s with pkg.meas := SMap.set 0 s.pkg.meas (2 + region) (extendMeas 0 image.digest) }
      let s := s.updOwn region (fun o => { o with gate := true, rstcnt := o.rstcnt + 1, phase := 0 })
      .next ((s.blackBox region 2 0 0 0).cause region 0).answerWaiting

/-- PACKAGE_RESET (R16, R176, R436, R437): everything on the package is reset but the always-on black boxes and the memory behind its
controllers and the host port; the package image is loaded. -/
def execPackageReset (image : FirmwareImage) (s : State) : Host.Outcome State Fault Refusal :=
  let f := imageFail image 1
  let s' := { State.reset with
    inputs := s.inputs
    mem := s.mem.filter (fun p => isHbm p.1 || isHost p.1)
    regions := (s.regions.map (fun (p : Nat × Region) => (p.1, ({ box := p.2.box, bbcnt := p.2.bbcnt } : Region)))).filter (fun p => p.2 ≠ ({} : Region))
    pkg := { partC := s.pkg.partC, hostHoles := s.pkg.hostHoles, refTime := s.pkg.refTime, refNo := s.pkg.refNo, fwReady := decide (f = 0), fwFail := f, fwSvn := if f = 0 then image.svn else 0
             meas := if f = 0 then SMap.set 0 [] 1 (extendMeas 0 image.digest) else [] } }
  .next (if f = 0 then s' else s'.raise 32 0)

/-! Windows and causes. -/

/-- The queued accesses that a region's tables have translated are performed (R416). -/
def State.settleVia (s : State) (r : Nat) : State :=
  (s.cores.map (fun p => p.1)).foldl (fun s c => State.drainMem c (fun q => q.via = r + 1) (2 * (s.core c).mem.length) 0 s) s

/-- Whether a command's chunk under way may have been translated through a window of a region. -/
def State.overWindow (s : State) (r : Nat) (c : Cmd) : Bool :=
  c.segs.any (fun g => segSpace g.2 = 4 && (s.regEntry c.vf (segLregion g.2)).any (fun p => p.1 = r)) && c.touches isHbm

/-- Whether something accepted under a region's windows is still to be performed (R416). -/
def State.windowBusy (s : State) (r : Nat) : Bool :=
  s.cores.any (fun p => p.2.mem.any (fun q => q.via = r + 1)) || s.bufferedVia r || s.engines.any (fun p => p.2.any (s.overWindow r))

/-- The writes of windows that wait take effect, in order, once what was accepted under the old contents has been performed (R416). -/
def State.windowsDone (s : State) (r : Nat) : State :=
  if (s.region r).winPend = [] then s
  else
    let s := (s.settleVia r).settleEngines (s.overWindow r)
    if s.windowBusy r then s else s.windowsSet r

/-- WINDOW_WRITE (R414, R416): the write takes effect at once when nothing accepted under the old contents is left, else as soon as that has been
performed. -/
def execWindowWrite (region n word : Nat) (value : BitVec 64) (s : State) : Host.Outcome State Fault Refusal :=
  if 4 ≤ n ∨ 2 ≤ word then .next s
  else .next ((s.updRegion region (fun g => { g with winPend := g.winPend ++ [(n, word, value)] })).windowsDone region)

/-- RGINT_CLEAR (R423): bits written 1 are cleared; once no cause is left, the region's vectors may be raised again. -/
def execRgintClear (region : Nat) (value : BitVec 64) (s : State) : Host.Outcome State Fault Refusal :=
  let g := s.region region
  let left := g.rgint &&& ~~~(value.setWidth 4)
  let s := s.setRegion region { g with rgint := left }
  if left ≠ 0 then .next s
  else
    let m := SMap.set false s.pkg.msix (64 * 32 + 32 + region) false
    .next { s with pkg.msix := match s.logicalOf g.own.vf region with
      | some n => if g.own.assigned then SMap.set false m (64 * g.own.vf + n) false else m
      | none => m }

/-! Cuts. -/

/-- The regions of the partition that a region belongs to. -/
def State.partition (s : State) (r : Nat) : List Nat :=
  let o := (s.region r).own
  if o.assigned then (let l := s.vfRegions o.vf; if l.contains r then l else [r]) else [r]

/-- CUT_START (R403): a write of CUTCTL with GO starts a cut of the old colour COL in the partition. -/
def execCutStart (region : Nat) (value : BitVec 64) (s : State) : Host.Outcome State Fault Refusal :=
  .next (if !value.getLsbD 63 then s
    else (s.partition region).foldl (fun s r => s.updRegion r (fun g =>
      { g with cut := { g.cut with col := value.getLsbD 0, going := true, closed := false, ovf := false, diff := 0, ringUsed := true } })) s)

/-- SENT less RECV of a colour over cores (R403). -/
def State.cutDiff (s : State) (regs : List Nat) (col : Bool) : Word32 :=
  (s.cores.filter (fun p => regs.contains (regionOf p.1))).foldl (fun d p =>
    d + (if col then p.2.sent1 - p.2.recv1 else p.2.sent0 - p.2.recv0)) 0

/-- Whether every core of some regions has flipped away from a colour. -/
def State.allFlipped (s : State) (regs : List Nat) (col : Bool) : Bool :=
  (coresOf regs).all (fun c => (s.core c).colour ≠ col)

/-- CUT_RESUM (R403): the tree sums again; a zero difference with every core flipped closes the cut and raises its cause. -/
def execCutResum (vf : Nat) (s : State) : Host.Outcome State Fault Refusal :=
  let regs := s.vfRegions vf
  .next (regs.foldl (fun s r =>
    let c := (s.region r).cut
    if !c.going then s
    else
      let d := s.cutDiff regs c.col
      let close := d = 0 && s.allFlipped regs c.col
      let s' := s.updRegion r (fun g => { g with cut := { g.cut with diff := d, closed := c.closed || close } })
      if close && !c.closed then s'.cause r 3 else s') s)

/-- Flits that capture left waiting are captured, oldest first, while the ring has space (R404). -/
def State.recapture (s : State) (r : Nat) : State :=
  let l := (s.region r).cut.stalled
  l.foldl (fun s f => s.capture r f.dst f) (s.updRegion r (fun g => { g with cut := { g.cut with stalled := [], ovf := false } }))

/-- A spilled flit as record `n` of its region's ring gives it (R404): what the record holds is read back from memory. -/
def State.ringFlit (s : State) (r n : Nat) (f : Flit) : Flit :=
  match s.readDva r ((s.region r).cut.ring.toNat / 2 ^ 12 % 2 ^ 44 * 2 ^ 12 + 128 * n) 128 with
  | (_, some b) =>
    { f with
      header := BitVec.ofNat 64 (fieldAt b 0 8)
      dst := fieldAt b 12 4 % 8192
      addr := fieldAt b 8 4
      task := BitVec.ofNat 64 (fieldAt b 16 8 * 2 ^ 32 + f.task.toNat % 2 ^ 32)
      payload := (b.drop 32).take f.payload.length }
  | (_, none) => f

/-- The flit that a record of a ring holds, where no router of this package knows it (R404, R424): a record is there when its header has VALID. The
sender is found by the VF's table. DESIGN CHOICE (log 24): the record has no place for the size of an RST or RLD and the operation of a RAMO, which
are free values; its sender's tile is 0, and it is not awaited. -/
def flitOfRecord (s : State) (b : List Byte) : Option Flit :=
  let h := fieldAt b 0 8
  if !bit h 47 then none
  else
    let task := BitVec.ofNat 64 (fieldAt b 16 8 * 2 ^ 32)
    let kind := h / 2 ^ 60 % 8
    let size := if kind = 1 ∨ kind = 2 then 2 ^ (Config.flitForm b % 4) else if kind = 3 then 4 + 4 * (Config.flitForm b % 2) else 64
    let n := if kind = 1 ∧ Config.flitForm b % 5 = 4 then 64 else size
    some {
      kind := kind
      header := BitVec.ofNat 64 h
      src := 16 * (256 * ((s.regEntry (taskVf task) (h / 2 ^ 32 % 32)).map (fun p => p.1)).getD 0 + h % 256) + h / 2 ^ 56 % 16
      task := task
      dst := fieldAt b 12 4 % 8192
      addr := fieldAt b 8 4
      size := n
      op := Config.flitForm b / 8 % 11
      payload := (b.drop 32).take (if kind = 1 then n else 64)
      entry := { kind := h / 2 ^ 48 % 4, data := BitVec.ofNat 1024 (fieldAt b 32 64), launch := taskKey task } }

/-- The records from the `i`th on that a region's ring holds, up to the first that is none. -/
def State.ringFlits (s : State) (r : Nat) : Nat → Nat → List Flit
  | 0, _ => []
  | n + 1, i =>
    match s.readDva r ((s.region r).cut.ring.toNat / 2 ^ 12 % 2 ^ 44 * 2 ^ 12 + 128 * i) 128 with
    | (s', some b) =>
      match flitOfRecord s' b with
      | some f => f :: State.ringFlits s r n (i + 1)
      | none => []
    | (_, none) => []

/-- The flits that a region's router holds, in capture order: those of its save buffer, and those in its ring, which are the last (R404). Where no
cut has used the ring since it was named, its records are those that were copied into it (R424). -/
def State.captured (s : State) (r : Nat) : List Flit :=
  let c := (s.region r).cut
  let n := min c.ringN (c.saved.length - 64)
  let first := c.saved.length - n
  (if c.ringUsed then [] else s.ringFlits r (2 ^ (5 + c.ring.toNat % 16)) 0) ++
  c.saved.take first ++ (List.range n).map (fun j => s.ringFlit r j ((c.saved[first + j]?).getD {}))

/-- CUT_RESEND (R424): the captured flits are delivered again, in capture order, as if they had just arrived; they count in neither
colour. -/
def execCutResend (region : Nat) (s : State) : Host.Outcome State Fault Refusal :=
  let c := (s.region region).cut
  let l := s.captured region
  let s := s.updRegion region (fun g => { g with cut := { ring := c.ring, col := c.col, stalled := c.stalled, ringUsed := true } })
  .next (l.foldl (fun s f => s.arrive { f with resent := true }) s)

end Sys2Proof.Machine
end

