-- ==== Sys2Proof/Machine/HostPort.lean ====
section
/-! DEFINITION. The package's edges (22): region clocks (R430 to R434), Ifetis ports (R428, R429), SPDM requests (R438), and writes of the
control registers that have no event of their own (R427; 19, R388, R390). -/

namespace Sys2Proof.Machine

/-! Region clocks. -/

/-- The floor V(k) in mV (R430): 550 + 5 ceil(20 k / 7). -/
def floorMv (k : Nat) : Nat := 550 + 5 * ((20 * k + 6) / 7)
/-- The frequency of a code in MHz (R430). -/
def mhz (k : Nat) : Nat := 350 + 25 * k

/-- The predicted power of a region at a voltage and code (R431), as numerator and denominator in watts. -/
def Clk.power (c : Clk) (v k : Nat) : Nat × Nat := (c.pwr.toNat * mhz k * v ^ 2, mhz c.fcur * c.vcur ^ 2)
/-- The predicted power of a region as it stands: of the step under way, or now. -/
def Clk.predicted (c : Clk) : Nat × Nat := if c.busy then c.power c.stepV c.stepF else (c.pwr.toNat, 1)

def fracAdd (a b : Nat × Nat) : Nat × Nat := (a.1 * b.2 + b.1 * a.2, a.2 * b.2)
def fracLe (a : Nat × Nat) (n : Nat) : Bool := a.1 ≤ n * a.2

/-- The status of a request (R431): 0 when its checks pass. An unassigned region has no share to exceed. -/
def State.clockStatus (s : State) (r v k : Nat) : Nat :=
  let g := s.region r
  let p := g.clk.power v k
  if 14 < k ∨ v < 550 ∨ 750 < v then 3
  else if v < floorMv k then 1
  else
    let others := (((s.vfRegions g.own.vf).filter (fun q => q ≠ r)).map (fun q => (s.region q).clk.predicted)).foldl fracAdd (0, 1)
    let share := ((SMap.get 0 s.pkg.pwrshare g.own.vf).toNat)
    if !fracLe p 262 ∨ (g.own.assigned ∧ !fracLe (fracAdd p others) share) then 2 else 0

/-- A record of KIND 10: target MHz and mV (Table 21-6). -/
def State.clockRecord (s : State) (r v k : Nat) : State := s.blackBox r 10 0 (BitVec.ofNat 64 (mhz k + v * 2 ^ 16)) 0

/-- A request denied (R431): STATUS and DENIED, a record, and PF vector 2. -/
def State.denyClock (s : State) (r v k status : Nat) : State :=
  let s := s.updRegion r (fun g =>
    { g with clk := { g.clk with status := status, denied := if g.clk.denied = 0xFFFF#16 then g.clk.denied else g.clk.denied + 1 } })
  (s.clockRecord r v k).raise 32 2

/-- CLOCK_REQUEST (R430, R434): VREQ and FREQ are written; with GO the request is next in line, or has status 4 during a reset. -/
def execClockRequest (region : Nat) (value : BitVec 64) (s : State) : Host.Outcome State Fault Refusal :=
  let v := value.toNat / 2 ^ 16 % 2 ^ 10
  let k := value.toNat % 16
  let s := s.updRegion region (fun g => { g with clk := { g.clk with vreq := v, freq := k } })
  .next (if !value.getLsbD 63 then s
    else if (s.region region).own.phase ≠ 0 then s.denyClock region v k 4
    else s.updRegion region (fun g => { g with clk := { g.clk with pending := some (v, k) } }))

/-- CLOCK_STEP_BEGIN (R431): the request in line is checked when no step is in progress. -/
def execClockStepBegin (region : Nat) (s : State) : Host.Outcome State Fault Refusal :=
  let c := (s.region region).clk
  match c.pending with
  | none => .next s
  | some (v, k) =>
    if c.busy then .next s
    else
      let n := s.clockStatus region v k
      let s := s.updRegion region (fun g => { g with clk := { g.clk with pending := none } })
      .next (if n ≠ 0 then s.denyClock region v k n
        else s.updRegion region (fun g => { g with clk := { g.clk with busy := true, stepV := v, stepF := k } }))

/-- A step's ramp runs on by 1 mV, or its frequency changes and the retune gap that holds the clock is over, in the order of R432: the frequency
falls before the voltage ramps, and rises after. -/
def Clk.ramp (c : Clk) : Clk :=
  if c.stepF < c.fcur then { c with fcur := c.stepF }
  else if c.vcur < c.stepV then { c with vcur := c.vcur + 1 }
  else if c.stepV < c.vcur then { c with vcur := c.vcur - 1 }
  else c

/-- The ramp of a region's step under way runs on (R432). -/
def State.clockRamp (s : State) (r : Nat) : State :=
  if (s.region r).clk.busy then s.updRegion r (fun g => { g with clk := g.clk.ramp }) else s

/-- Whether all of a step has been done but the rise of its frequency (R432). -/
def Clk.ramped (c : Clk) : Bool := !(decide (c.stepF < c.fcur)) && decide (c.vcur = c.stepV)

/-- CLOCK_STEP_END (R431, R432): the ramp, and the gap of a rise in frequency, are over: voltage and frequency are those of the request. A step whose
ramp runs on has not ended. -/
def execClockStepEnd (region : Nat) (s : State) : Host.Outcome State Fault Refusal :=
  let c := (s.region region).clk
  .next (if !c.busy ∨ !c.ramped then s
    else (s.updRegion region (fun g =>
      { g with clk := { g.clk with busy := false, status := 0, vcur := c.stepV, fcur := c.stepF } })).clockRecord region c.stepV c.stepF)

/-! Ifetis ports. -/

def State.updLink (s : State) (p : Nat) (f : Word → Word) : State :=
  { s with pkg.linkst := SMap.set 0 s.pkg.linkst p (f (SMap.get 0 s.pkg.linkst p)) }

/-- LINK_ENABLE (R5, R428): EN 0 takes a port down and clears FAULT; a write to a port that is not present is ignored and refused with FAULT. DEDUCED
(log 35): that is so of EN 0 too, since R428 speaks of writing EN there, and Table 22-3, which has EN 0 clear FAULT, of a port that a lane fault took
down. -/
def execLinkEnable (port : Nat) (value : BitVec 64) (s : State) : Host.Outcome State Fault Refusal :=
  let en := value.getLsbD 63
  .next (if Config.ports false ≤ port then s
    else if (Config.cap2 s.pkg.partC).getLsbD port = false then s.updLink port (fun w => w ||| 0x4000000000000000#64)
    else
      let s := { s with pkg.linkctl := SMap.set false s.pkg.linkctl port en }
      if en then s else s.updLink port (fun w => w &&& 0x3FFFFFFFFFFFFFFF#64))

/-- LINK_UP (R428, R429): an enabled port has trained on all 8 lanes. -/
def execLinkUp (port : Nat) (peer : BitVec 16) (s : State) : Host.Outcome State Fault Refusal :=
  .next (if SMap.get false s.pkg.linkctl port = true ∧ (SMap.get 0 s.pkg.linkst port).getLsbD 62 = false then
      s.updLink port (fun w => (w &&& 0xFFFFFFFFFFFF0000#64) ||| 0x8000000000000000#64 ||| peer.setWidth 64)
    else s)

/-- LANE_FAULT (R429): an enabled port goes down and raises PF vector 1; its flits go over the other ports of their masks. -/
def execLaneFault (port : Nat) (s : State) : Host.Outcome State Fault Refusal :=
  .next (if SMap.get false s.pkg.linkctl port = true then
      (s.updLink port (fun w => (w &&& 0x7FFFFFFFFFFFFFFF#64) ||| 0x4000000000000000#64)).raise 32 1
    else s)

/-! SPDM (R438). -/

/-! Each request is named by the code of its answer. -/

/-- GET_VERSION (R438). -/
def execGetVersion (fn : Nat) (s : State) : Host.Outcome State Fault Refusal := .next (s.spdmRequest fn 0x84 0)
/-- GET_CAPABILITIES (R438). -/
def execGetCapabilities (fn : Nat) (s : State) : Host.Outcome State Fault Refusal := .next (s.spdmRequest fn 0xE1 0)
/-- NEGOTIATE_ALGORITHMS (R438). -/
def execNegotiateAlgorithms (fn : Nat) (s : State) : Host.Outcome State Fault Refusal := .next (s.spdmRequest fn 0xE3 0)
/-- GET_DIGESTS (R438). -/
def execGetDigests (fn : Nat) (s : State) : Host.Outcome State Fault Refusal := .next (s.spdmRequest fn 0x81 0)
/-- GET_CERTIFICATE (R438). -/
def execGetCertificate (fn : Nat) (s : State) : Host.Outcome State Fault Refusal := .next (s.spdmRequest fn 0x82 0)
/-- CHALLENGE (R438). -/
def execChallenge (fn : Nat) (s : State) : Host.Outcome State Fault Refusal := .next (s.spdmRequest fn 0x83 0)
/-- GET_MEASUREMENTS (R438). -/
def execGetMeasurements (fn index : Nat) (s : State) : Host.Outcome State Fault Refusal := .next (s.spdmRequest fn 0xE0 index)

/-! Register writes (R427). -/

/-- The eight bytes of a write laid over a byte table. -/
def setBytes8 (m : SMap Byte) (at0 : Nat) (v : Word) : SMap Byte :=
  (List.range 8).foldl (fun m i => SMap.set 0 m (at0 + i) ((v >>> (8 * i)).setWidth 8)) m

/-- A region control register: PTROOT, TCINV, LOGPTR, LOGMODE, CUTCTL, RGRST, RGINT, windows and RGCLKREQ have events of their own. -/
def State.writeRegion (s : State) (r offset : Nat) (v : Word) : State :=
  match offset with
  | 0x110 => s.updRegion r (fun g => { g with dirtyctl := v &&& 0x000000FFFFFF0001#64 })
  | 0x200 => s.setLog r { s.log r with ring := v &&& 0x00FFFFFFFFFF003F#64 }
  | 0x300 => s.updRegion r (fun g => { g with poolBase := v &&& 0x00FFFFFFFFFFFC00#64 })
  | 0x308 => s.updRegion r (fun g => { g with poolCount := v.setWidth 16 })
  | 0x410 => (s.updRegion r (fun g => { g with cut := { g.cut with
      ring := v &&& 0x00FFFFFFFFFFF00F#64, ringN := 0, ringUsed := g.cut.going || g.cut.saved ≠ [] || g.cut.stalled ≠ [] } })).recapture r
  | 0x900 => s.updRegion r (fun g => { g with proftrig := v &&& 0xE0000000003F3F3F#64 })
  | 0x908 => s.updRegion r (fun g => { g with filtV := v })
  | 0x910 => s.updRegion r (fun g => { g with filtM := v })
  | _ => s

/-- RGPWR is what the region reports (R431). -/
def State.writePower (s : State) (r : Nat) (v : Word) : State := s.updRegion r (fun g => { g with clk := { g.clk with pwr := v.setWidth 16 } })

/-- An error-count register written: SAT is cleared by 0, the counts are written, the rest is kept (Tables 06-1, 07-9). -/
def errWrite (old v : Word) : Word :=
  (old &&& 0x7FFFFFFF00000000#64) ||| (v &&& 0xFFFFFFFF#64) ||| (old &&& v &&& 0x8000000000000000#64)

/-- A cluster control register (Table 18-8). -/
def State.writeCluster (s : State) (k offset : Nat) (v : Word) : State :=
  let c := s.cluster k
  match offset with
  | 0x40 => s.setCluster k { c with migEn := v.getLsbD 63, migInt := v.setWidth 32 }
  | 0x48 => s.setCluster k { c with bkerr := errWrite c.bkerr v }
  | _ => s

/-- A word of a slot's context image written through the debug window (R388): the thread holds what the image says, and a frame is fetched
again where its words now lie (R73). FCODE is the slot's LASTCODE and is not written. -/
def Thread.writeImage (t : Thread) (code : BitVec 8) (offset : Nat) (v : Word) : Thread :=
  let b := t.regPart code
  let u := threadOfImage (b.take offset ++ leBytes 8 v.toNat ++ b.drop (offset + 8))
  { t with
    r := u.r
    id.task := u.id.task
    is.frame := if u.r.pc = t.r.pc ∧ u.r.rep = t.r.rep then t.is.frame else []
    sp := { t.sp with act := u.sp.act, bound := u.sp.bound, abort := u.sp.abort, width := u.sp.width, n := u.sp.n, c := u.sp.c } }

/-- A register of a core's debug window (Tables 19-4, 19-5); PROFCTL has an event of its own. -/
def State.writeDebug (s : State) (core offset : Nat) (v : Word) : State :=
  let k := 16 * core + offset / 0x2000
  let o := offset % 0x2000
  let pair := fun (v : Word) => ((v >>> 32).setWidth 32, v.setWidth 32)
  if offset < 0x20000 then
    if o < 4608 then (if (s.getT k).st = .frozen then s.updT k (fun t => t.writeImage (s.lastCode k) o v) else s)
    else if o = 0x1200 then s.updCore core (fun c => { c with steps := SMap.set false c.steps (slotOf k) (v.getLsbD 63) })
    else s
  else match offset with
    | 0x20000 => s.updCore core (fun c => { c with lserr := errWrite c.lserr v })
    | 0x20010 => if v = 0 then s.updCore core (fun c => { c with retryCt := 0 }) else s
    | 0x20018 => s.updCore core (fun c => { c with sent0 := (pair v).1, recv0 := (pair v).2 })
    | 0x20020 => s.updCore core (fun c => { c with sent1 := (pair v).1, recv1 := (pair v).2 })
    | _ => s

/-- A PF register (Table 22-2, R442): LINKCTL and the breakpoints have events of their own; a die that is not present has no lines (R5). -/
def State.writePf (s : State) (offset : Nat) (v : Word) : State :=
  if offset < 64 then { s with pkg.linkwt := setBytes8 s.pkg.linkwt offset v }
  else if 0x100 ≤ offset ∧ offset < 0x180 then
    let n := (offset - 0x100) / 4
    let m := SMap.set 0 s.pkg.pwrshare n ((v.setWidth 16).setWidth 32)
    { s with pkg.pwrshare := SMap.set 0 m (n + 1) (((v >>> 32).setWidth 16).setWidth 32) }
  else if offset = 0x500 then { s with pkg.pkgid := v.setWidth 16 }
  else if 0x2000 ≤ offset ∧ offset < 0x3000 then
    if 1 ≤ v.toNat % 256 ∧ v.toNat % 256 ≤ 6 ∧ (offset - 0x2000) / 0x200 < Config.dies s.pkg.partC then { s with pkg.trigsel := SMap.set 0 s.pkg.trigsel ((offset - 0x2000) / 8) (v &&& 0x800000000003FFFF#64) }
    else s
  else s

/-- Whether an entry of VFREGTAB is an own entry (R411). -/
def ownEntry (b : Byte) : Bool := b.getLsbD 7 && !b.getLsbD 6

/-- VFREGTAB, which the PF writes (R411): an own entry may be written only while the VF has no launch accepted. -/
def State.writeVfTable (s : State) (v offset : Nat) (x : Word) : State :=
  let f := s.vf v
  if offset < 32 then
    let held := (s.launchesOf v).any (fun n => let p := (s.launch (launchKey v n)).phase; 1 ≤ p && p ≤ 3)
    s.setVf v { f with regtab := (List.range 8).foldl (fun m i =>
      let b := ((x >>> (8 * i)).setWidth 8) &&& 0xDF#8
      if held && (ownEntry b || ownEntry (SMap.get 0 m (offset + i))) then m else SMap.set 0 m (offset + i) b) f.regtab }
  else s

/-- The control block of a VF, written by that VF (R370, R427): its weight table; VFREGTAB is the PF's to write (R411), and the windows of its
regions have events of their own. A VF that is not enabled has no block (R426). -/
def State.writeVf (s : State) (v offset : Nat) (x : Word) : State :=
  let f := s.vf v
  if s.vfEnabled v ∧ 0x100 ≤ offset ∧ offset < 0x200 then s.setVf v { f with weights := setBytes8 f.weights (offset - 0x100) x } else s

/-- A word of a function's MSI-X table (R427). PRESUMED (log 35): the table is that of the PCI Express standard, 16 bytes a vector, the mask in bit 0 of
the last word, and the pending bits follow it at 0x400. -/
def State.writeMsix (s : State) (fn offset : Nat) (x : Word) : State :=
  if s.fnThere fn ∧ offset < 0x400 then
    { s with pkg.msixTab := SMap.set 0 s.pkg.msixTab (128 * fn + offset / 8) (if offset % 16 = 8 then (x ^^^ 0x100000000#64) &&& 0x1FFFFFFFF#64 else x) }
  else s

/-- QBASE, the one queue register that has no event of its own (R370). -/
def State.writeQueue (s : State) (q offset : Nat) (x : Word) : State :=
  if offset = 0 then s.setQueue q { s.queue q with qbase := x &&& 0x80FFFFFFFFFFFC00#64 } else s

/-- REGISTER_WRITE (R427): a write of an offset that the tables do not map is discarded, and so is one through a VF's queue window for a queue that is
not the VF's. DESIGN CHOICE (log 35): a ROUTE mask is stored as written, with the bits of ports that the part does not have, which no flit takes: R5
refuses a link configuration that names an absent port with a status, and ROUTE has none. -/
def execRegisterWrite (block : RegBlock) (index offset : Nat) (value : BitVec 64) (s : State) : Host.Outcome State Fault Refusal :=
  .next (match block with
    | .route => if offset % 2 = 0 ∧ offset < 0x20000 then { s with pkg.route := SMap.set 0 s.pkg.route (offset / 2) (value.setWidth 16) } else s
    | .region => if offset % 8 ≠ 0 then s else if offset = 0x810 then s.writePower index value else s.writeRegion index offset value
    | .cluster => if offset % 8 ≠ 0 then s else s.writeCluster index offset value
    | .debug => if offset % 8 ≠ 0 then s else s.writeDebug index offset value
    | .pf => if offset % 8 ≠ 0 then s else s.writePf offset value
    | .vf => if offset % 8 ≠ 0 then s else s.writeVf index offset value
    | .vfTable => if offset % 8 ≠ 0 then s else s.writeVfTable index offset value
    | .queue => s.writeQueue index offset value
    | .vfQueue =>
      let q := index % Config.queues
      let v := index / Config.queues
      if (s.queue q).vf = v ∧ s.vfEnabled v then s.writeQueue q offset value else s
    | .msix => if offset % 8 ≠ 0 then s else s.writeMsix index offset value)

end Sys2Proof.Machine
end

