-- ==== Sys2Proof/Machine/Issue.lean ====
section
/-! DEFINITION. The issue turn of a core (04, R77, R78; 23, R439 to R441): the region's clock and what falls due as it passes, the selector,
and the charge of the turn. Which core takes its turn next is the model's choice. -/

namespace Sys2Proof.Machine

/-! What a slot will issue. -/

/-- The word a slot will issue, renamed, when it is at hand: delivered by its leader, in its frame store, or in its buffer. -/
def Thread.wordAtHand (t : Thread) : Option (BitVec 32) :=
  let r := t.r.rep
  let w := match t.is.delivered with
    | some w => some w
    | none => if r.act ∧ r.pass ≠ 0 then t.is.frame[r.idx]? else t.buffered
  w.map (renameWord r)

/-- The instruction a slot will issue, when its word is at hand. -/
def Thread.nextInstr (t : Thread) : Option Instr := t.wordAtHand.bind (fun w => (decode w).toOption)

/-- next_ok of a slot (R78), as far as its next word is known: a slot that has to fetch first is tried, and asked again with its word. -/
def State.slotOk (s : State) (k : Nat) : Bool :=
  match (s.getT k).nextInstr with
  | some i => s.nextOk k i
  | none => true

/-- A gang member's part in eligibility (R248): a follower needs a delivered word; its leader delivers the next one only when every
member is READY and has issued the last. -/
def State.gangOk (s : State) (k : Nat) : Bool :=
  let t := s.getT k
  if t.en.gangN = 0 then true
  else if t.en.leader = k then
    t.is.sent || (gangMembers k t.en.gangN).all (fun m => m = k || ((s.getT m).st = .ready && (s.getT m).is.delivered.isNone))
  else t.is.delivered.isSome

/-- Whether slot 15 of a core has a built-in handler to perform (R265). -/
def State.handlerDue (s : State) (core : Nat) : Bool :=
  (s.getT (16 * core + 15)).st = .empty &&
  (match (s.core core).u.hq with
    | f :: _ => decide (f.kind ≠ 4)
    | [] => false)

/-- The distance rule of the selector (R77). -/
def Issue.spaced (i : Issue) (c : Nat) : Bool :=
  match i.lastIss with
  | none => true
  | some l => decide (l + i.gap ≤ c)

/-- Whether requests of a slot wait for a bank (R184). -/
def State.bankQueued (s : State) (k : Nat) : Bool :=
  let x := s.core (coreOf k)
  (x.wheel ++ x.far).any (fun q => q.who = k)

/-- eligible(s, c) of R77; an idle slot 15 is eligible for a built-in handler. A thread whose single step is over issues nothing more (R390), and
a member of a gang that has disbanded waits for its requests (R184). -/
def State.eligible (s : State) (k c : Nat) : Bool :=
  let t := s.getT k
  t.is.spaced c &&
  ((t.st = .ready && s.gangOk k && s.slotOk k && !(t.is.stepping && t.is.stepped && !t.is.rlx) && !(t.is.settling && s.bankQueued k)) ||
   (slotOf k = 15 && s.handlerDue (coreOf k)))

/-- select(c) of R77: the slot that issues. -/
def State.select (s : State) (core c : Nat) : Option Nat :=
  ((List.range 16).map (fun j => 16 * core + ((s.core core).last + 1 + j) % 16)).find? (fun k => s.eligible k c)

/-! Releases that the model makes when a core's turn comes. -/

/-- The halyard successor of a slot. -/
def State.halNextOf (s : State) (k : Nat) : Nat := (s.switchTo k).halNext

/-- Whether every page that a PROBE walks for has been translated or found absent (R116). -/
def State.walkDone (s : State) (k r : Nat) : Bool := !(s.region r).walks.any (fun w => w.1 = k)

/-- Whether what a parked or saved slot's instruction waits for is done, so that it goes on without a turn (Table 04-2). -/
def State.due (s : State) (k : Nat) : Bool :=
  let t := s.getT k
  (t.st = .parked || (t.st = .saving && t.w.park = .access)) && (match t.w.park with
    | .access => decide (t.w.acc.due ≤ s.clockAt (coreOf k)) && !(s.relReqs k).any (fun q => q.no = t.w.acc.no) &&
        !(s.core (coreOf k)).u.intake.any (fun q => q.who = k && q.store)
    | .relaxed => decide (s.relCount k < 4)
    | .work w => s.workDone k w
    | .probe r _ => s.walkDone k r
    | _ => false)

/-- An instruction that waited goes on: it is executed again from what its memory operations have given. -/
def Access.goOn (a : Access) (p : Park) : Access :=
  match p with
  | .access =>
    { a with
      jrn := a.jrn ++ [{ a.got with bytes := a.want.flatMap (fun r => (List.range r.2).map (fun i =>
        match a.cells.find? (fun c => c.1 = r.1 + i) with
        | some c => c.2
        | none => 0)) }]
      pos := 0, redo := true, want := [], cells := [], got := {} }
  | _ => { a with pos := 0, redo := true }

def State.resumeWord (s : State) (k : Nat) : State :=
  let s := s.switchTo k
  { s with
    issuing := true
    th := { s.th with
      st := if s.th.st = .saving then .saving else .ready
      w := { s.th.w with park := .none, acc := s.th.w.acc.goOn s.th.w.park } } }

/-- A parked slot whose wait has ended is released, or tries its instruction again (Table 04-2). A waiter whose word came right while the ring had
no free record is served once one is free (R347). -/
def State.release1 (s : State) (k : Nat) : State :=
  let t := s.getT k
  if t.st ≠ .parked then s
  else
    let wake := fun (c : Bool) => if c then s.wakeT k else s
    let again := fun (c : Bool) => if c then s.updT k Thread.retry else s
    let replay := fun (key : Nat) => (s.log (keyRegion key 0)).mode = 2
    match t.w.park with
    | .hsend => wake (!s.halFull (s.halNextOf k))
    | .hrecv => again (s.halBuf k ≠ [])
    | .epush port =>
      if !s.portRoom (coreOf k) port then s
      else if t.en.repush = [] then s.wakeT k
      else State.repush (s.updT k Thread.settled) k 5
    | .epop port => again ((s.core (coreOf k)).u.fifoOut.any (fun p => p.1 = port && p.2.any (fun e => e.slot = slotOf k && e.task = t.id.task)))
    | .logFull r => again ((s.log r).mode ≠ 1 || 64 ≤ (s.log r).free)
    | .replay _ => again true
    | .ctxload => again true
    | .oldest =>
      wake (match t.sp.role with
        | .guess m => decide (m ≤ (s.getT t.sp.owner).sp.winA)
        | _ => s.isOldest k)
    | .storeBuf => wake (s.bufUsed (coreOf k) < 256 || s.isOldest k)
    | .fullEmpty form key _ _ _ =>
      if s.isPoison key || (if form = 2 then s.isFull key else !s.isFull key) then s
      else if replay key then again true else s.serve key
    | .waitgen key gen _ _ _ =>
      if isBank key || gen.toNat = syncGen (s.readSync key) then s
      else if replay key then again true else s.release key
    | .recv _ _ => again (takeRx (taskKey t.id.task) (s.core (coreOf k)).u.rxq).isSome
    | .posted => wake (t.w.posted < 16)
    | .handler r => if (s.log r).mode ≠ 1 || 64 ≤ (s.log r).free then s.updT k (fun t => { t with st := .empty, w := {} }) else s
    | .flush => if t.sp.flushed then s.updT k Thread.retry else s.flushStep k
    | _ => s

/-- The releases of a core's slots. -/
def State.releases (s : State) (core : Nat) : State := (List.range 16).foldl (fun s i => s.release1 (16 * core + i)) s

/-! The clock. -/

/-- Whether a multiple of `n` lies in (a, b]. -/
def crosses (n a b : Nat) : Bool := decide (a / n < b / n)

/-- The threads of a region parked in WWAIT. -/
def State.phaseWaiters (s : State) (r : Nat) : List Nat :=
  s.threadKeys.filter (fun k => regionOf (coreOf k) = r && (match (s.getT k).w.park with
    | .wwait _ _ => true
    | _ => false))

/-- What falls due as a region's clock reaches cycle `t`: WWAIT's phases (R182), the load table and migration intervals (R377, R379), retries
(R258, R371), the eviction test (R376) and the sums of a cut (R403). -/
def State.timed (s : State) (r t : Nat) : State :=
  let live := dedup (((s.threadKeys.filter (fun k => (s.getT k).st ≠ .empty && regionOf (coreOf k) = r))).map coreOf)
  let s := s.forEach (s.phaseWaiters r) execWwaitWake
  let s := if t % 16 = 0 then
      ((s.checkEnded r).forEach ((s.clusters.map (fun p => p.1)).filter (fun k => k / 4 = r && !(live.map clusterOf).contains k) ++ dedup (live.map clusterOf))
        execLoadTableRefresh).forEach live execMigrationInterval
    else s
  let s := s.forEach ((s.cores.filter (fun p => regionOf p.1 = r && p.2.u.retry ≠ [])).map (fun p => p.1)) execMessageRetry
  let s := s.forEach ((s.queues.filter (fun p => p.2.backoff ≠ 0)).map (fun p => p.1)) execRecordRefetch
  let s := if t % 1024 = 0 then afterOf s (execEvictionTest r s) else s
  if t % 4096 = 0 ∧ (s.region r).cut.going then afterOf s (execCutResum (s.region r).own.vf s) else s

/-- A region's clock goes on by one cycle: what its ports have not done in this one is done, then a due swap takes effect, due pulses act, and
the timed events take place. -/
def State.tick (s : State) (r : Nat) : State :=
  let s := s.endCycle r
  let t := (s.region r).clock + 1
  let s := s.updRegion r (fun g => { g with clock := t })
  let s := if (s.region r).shadow.isSome then s.updRegion r Region.swap else s
  let s := if (s.region r).pulses.any (fun p => decide (p.2 ≤ t)) then s.actPulses r else s
  s.timed r t

/-- A region's clock goes on by some cycles. -/
def State.ticks (s : State) (r : Nat) : Nat → State
  | 0 => s
  | n + 1 => (s.tick r).ticks r n

/-! Turn classes (R439 to R441). -/

/-- The class of a turn not issued, by the slot's state: 1 MEM, 2 MSG, 3 VAC (R439). What the scoreboard holds back is MEM, in its gap or not. -/
def State.turnClass (s : State) (k : Nat) : Nat :=
  let t := s.getT k
  match t.st with
  | .parked => (match t.w.park.cls with
    | .memory => 1
    | .message => 2
    | .none => 3)
  | .ready =>
    match t.nextInstr with
    | some i => if s.boardOk k i then 3 else 1
    | none => 3
  | _ => 3

/-- Whether a slot passes the region's task filter (R441): it holds a task, or is a slot of its task's group; slot 15 never does (R76). -/
def State.passes (s : State) (k : Nat) : Bool :=
  let t := s.getT k
  let g := s.region (regionOf (coreOf k))
  slotOf k ≠ 15 && t.st ≠ .empty && decide ((s.groupTask k ^^^ g.filtV) &&& g.filtM = 0)

/-- The turn of cycle `c` charged, and the histogram counted (R439 to R441). -/
def State.charge (s : State) (core c : Nat) (issued : Option Nat) : State :=
  let p := (s.core core).prof
  if !p.en || p.frz then s
  else
    let k := issued.getD (16 * core + c % 16)
    let cls := if issued.isSome then 0 else s.turnClass k
    let n := ((s.readySlots core).filter (fun k => !p.filt || s.passes k)).length
    let bump := fun (m : SMap Word) (i : Nat) => SMap.set 0 m i (SMap.get 0 m i + 1)
    let count := if p.filt && !s.passes k then p.count else bump p.count (4 * slotOf k + cls)
    s.updCore core (fun x => { x with prof := { p with count := count, hist := bump p.hist n } })

/-! The turn. -/

/-- Cores that have something to do at an issue turn, and one of each region whose clock a back-off is counted in. -/
def State.liveCores (s : State) : List Nat :=
  dedup (((s.threadKeys.filter (fun k => (s.getT k).st ≠ .empty)).map coreOf) ++
    ((s.cores.filter (fun p => p.2.prof.en || p.2.u.hq ≠ [])).map (fun p => p.1)) ++
    ((s.queues.filter (fun p => p.2.backoff ≠ 0 && s.fetchable? p.1)).map (fun p => 256 * s.region0 p.2.vf)))

/-- The core whose turn the model takes after this one's: the next higher live core, or the lowest. -/
def State.nextFocus (s : State) (core : Nat) : Nat :=
  let l := s.liveCores
  let least := fun (l : List Nat) => l.foldl min (l.headD core)
  match l.filter (fun c => decide (core < c)) with
  | [] => least l
  | h => least h

/-- The cycle of a core's next turn. -/
def State.turnAt (s : State) (core : Nat) : Nat := max (s.core core).turn (s.clockAt core)

/-- A slot issues in its core's turn (R77, R439): the turn is charged, LAST, LASTISS and GAP are set. -/
def State.takeTurn (s : State) (k : Nat) : State :=
  let core := coreOf k
  let c := s.turnAt core
  let s := s.charge core c (some k)
  let s := s.updCore core (fun x => { x with last := slotOf k, turn := c + 1 })
  let s := s.updT k (fun t => { t with is.lastIss := some c, is.gap := 8, is.settling := false })
  { s with focus := s.nextFocus core }

/-- A turn in which no slot issues is charged all the same (R439). -/
def State.vacantTurn (s : State) (core : Nat) : State :=
  let c := s.turnAt core
  let s := (s.charge core c none).updCore core (fun x => { x with turn := c + 1 })
  { s with focus := s.nextFocus core }

/-- A built-in handler issues in slot 15 (R265); one whose event must wait parks the slot (Table 04-2), and issues again on release. -/
def State.handlerTurn (s : State) (k : Nat) : State :=
  let s := s.takeTurn k
  match (s.core (coreOf k)).u.hq with
  | [] => s
  | f :: r => ((s.updCore (coreOf k) (fun x => { x with u.hq := r })).handle f).getD
      (s.updT k (fun t => { t with st := .parked, w.park := .handler (regionOf (coreOf k)), w.since := s.clockAt (coreOf k) }))

/-- ISSUE_TURN (R77, R439): a core's turn in its next cycle. An instruction that has waited for its accesses goes on first, without a turn; the
slot that the selector reaches is granted the turn, which it takes when its word issues. No region cycle elapses in a retune gap (R432). -/
def execIssueTurn (core : Nat) (s : State) : Host.Outcome State Fault Refusal :=
  let r := regionOf core
  if (s.region r).clk.held then .next s
  else
    let c := s.turnAt core
    let s := ((s.ticks r (c - s.clockAt core)).releases core).carryOut core
    match ((List.range 16).map (fun i => 16 * core + i)).find? (fun k => s.due k) with
    | some k => .next (s.resumeWord k)
    | none =>
      match s.select core c with
      | none => .next (s.vacantTurn core)
      | some k => .next (if (s.getT k).st = .ready then { s.switchTo k with issuing := true } else s.handlerTurn k)

end Sys2Proof.Machine
end

