-- ==== Sys2Proof/Machine/Agenda.lean ====
section
/-! DEFINITION. The events of the package that fall due without a word from outside, and the order in which the model takes them. The spec
orders few of them; the order here is the model's choice. An event is due when its meaning changes something. -/

namespace Sys2Proof.Machine

/-- A candidate: an event's meaning, to be tried on the state. -/
abbrev Candidate := State → Host.Outcome State Fault Refusal

/-- The state after the first candidate that changes anything. -/
def State.tryFirst (s : State) : List Candidate → Option State
  | [] => none
  | f :: r =>
    match f s with
    | .next s' => if s' ≠ s then some s' else s.tryFirst r
    | _ => s.tryFirst r

/-- The freeze of a single step (R390): the thread has retired its one instruction, or the word after its RLX. -/
def State.stepFreeze (s : State) (k : Nat) : State :=
  let t := s.getT k
  if t.st = .ready ∧ t.is.stepping ∧ t.is.stepped ∧ !t.is.rlx then s.freeze k tBreakpoint 0 0 t.r.pc false true [] else s

/-- Events of the threads: single steps, waits that end by their own event, gangs, groups and saves. -/
def State.threadEvents (s : State) : List Candidate :=
  s.threadKeys.flatMap (fun k =>
    let t := s.getT k
    (if t.is.stepping && t.is.stepped then [fun s => .next (s.stepFreeze k)] else []) ++
    (if t.sp.act then [execWindowStart k, execSpecCommit k] else []) ++
    (match t.st, t.w.park with
      | .parked, .wwait _ _ => [execWwaitWake k]
      | .parked, .bankret _ _ _ => [execBankretComplete k]
      | .parked, .gang _ => [execGangForm k]
      | .saving, _ => [execBankretComplete k, execContextSave k]
      | _, _ => []))

/-- Events of the cores' queues. -/
def State.coreEvents (s : State) : List Candidate :=
  s.cores.flatMap (fun p =>
    let c := p.1
    let x := p.2
    (if x.seq ≠ [] then [execLsAccessPerform c] else []) ++
    (if x.u.vcq ≠ [] then [execVectorCommandStart c] else []) ++
    (if x.u.sfq ≠ [] then [execSfRequestStart c] else []) ++
    (if x.u.intake ≠ [] then [execMatrixCommandStart c] else []) ++
    (if x.wheel ≠ [] then [execWheelMeeting c] else []) ++
    (if x.far ≠ [] then [execFarMeeting c] else []) ++
    (if (x.wheel ++ x.far).any (fun q => !q.placed) then [execRequestPlace c] else []) ++
    (List.range x.mem.length).map (fun i => execMemoryControllerAccess (c + 2 ^ 16 * i)) ++
    (if x.u.retry ≠ [] then [execMessageRetry c] else []) ++
    (if x.flush ≠ [] then [execHostReadReturn c] else []) ++
    (if x.u.hq ≠ [] then [execUserHandlerStart c] else []) ++
    (x.u.fifoIn.map (fun q => if q.1 = 3 then execMailboxCommand c else execEngineCommandTake c q.1)))

/-- Events of the network: what is in flight arrives, oldest first. -/
def State.netEvents (s : State) : List Candidate :=
  (if s.hal ≠ [] then [execHalyardLand 0] else []) ++ (if s.acks ≠ [] then [execAckArrival 0] else []) ++
  (if s.reps ≠ [] then [execReplyArrival 0] else []) ++ (if s.net ≠ [] then [execMessageArrival 0] else []) ++
  (List.range s.migr.length).map (fun i => execMigrationArrive i) ++ (List.range s.a2a.length).map (fun i => execA2aArrival i)

/-- Events of the engines. -/
def State.engineEvents (s : State) : List Candidate :=
  s.engines.flatMap (fun p =>
    (List.range p.2.length).flatMap (fun i =>
      let c := (p.2[i]?).getD {}
      let n := ((c.started.toList ++ c.sending.toList).map (fun ch => ch.blocks.length)).foldl max 0
      let each := fun (f : Nat → Candidate) => (List.range (n + 1)).map f
      if c.kind = 2 then [execGatherIndex (p.1 - 128) i, execCommandEnd p.1 i]
      else if c.kind = 3 then each (fun j => execAppendPerform (p.1 - 128 + 2 ^ 16 * j) i) ++ [execCommandEnd p.1 i]
      else each (fun j => execChunkComplete (p.1 + 2 ^ 16 * j) i) ++ [execCommandEnd p.1 i] ++ each (fun j => execChunkStart (p.1 + 2 ^ 16 * j) i)))

/-- Events of the regions: a due wheel swap, clock steps, a full window that stalls is left to the outside. -/
def State.regionEvents (s : State) : List Candidate :=
  s.regions.flatMap (fun p =>
    (p.2.walks.map (fun w => execTranslationWalkEnd p.1 (BitVec.ofNat 56 w.2) false)) ++
    (if p.2.tcinv.getLsbD 63 then [fun s => .next (s.tcinvDone p.1)] else []) ++
    (if p.2.winPend ≠ [] then [fun s => .next (s.windowsDone p.1)] else []) ++
    (if p.2.shadow.isSome then [execWheelSwap p.1] else []) ++
    (if p.2.clk.busy then [fun s => .next (s.clockRamp p.1), execClockStepEnd p.1] else []) ++ (if p.2.clk.pending.isSome then [execClockStepBegin p.1] else []))

/-- A slot for a saved context: on its HOMECORE if it admits one there, or on another core of its scope. -/
def State.resumeSlot (s : State) (r : Nat) (c : Saved) : Option Nat :=
  ((s.readSaved r c).home :: coresOf (s.vfRegions (taskVf c.task))).findSome? (fun core =>
    if s.ctxAdmits r c core then (s.openSlots core).head? else none)

/-- Events of the scheduler. -/
def State.schedEvents (s : State) : List Candidate :=
  (((s.queues.map (fun p => p.1)).filter (fun q => s.fetchable? q && (s.queue q).backoff = 0)).map (fun q => execRecordFetch q)) ++
  s.launches.flatMap (fun p =>
    let v := p.1 / 2 ^ 24
    let n := p.1 % 2 ^ 24
    if p.2.phase = 1 then [execSubmissionCheck v n]
    else if p.2.phase = 2 ∨ p.2.phase = 3 then
      (if s.launchOver p.1 then [execLaunchComplete v n] else []) ++
      (if s.regions.any (fun q => q.2.log.mode = 2) then [execPreempt v n] else []) ++
      (if s.readyLaunch v n then
        (match s.nextTile v n with
          | some t => [execTaskDispatch t.2 v n t.1]
          | none => [execPreempt v n])
      else [])
    else []) ++
  s.regions.flatMap (fun p => (p.2.contexts.filter (fun c => s.resumable p.1 c)).filterMap (fun c =>
    (s.resumeSlot p.1 c).map (fun k => execContextResume k c.area)))

/-- The state after the next event that is due, if one is. -/
def State.agenda (s : State) : Option State :=
  (s.tryFirst s.threadEvents).or ((s.tryFirst s.coreEvents).or ((s.tryFirst s.netEvents).or
    ((s.tryFirst s.engineEvents).or ((s.tryFirst s.regionEvents).or (s.tryFirst s.schedEvents)))))

end Sys2Proof.Machine
end

