-- ==== Sys2Proof/Machine/Pointer.lean ====
section
/-! DEFINITION. Pointer and segment instructions (05, R111 to R117). -/

namespace Sys2Proof.Machine

/-- PADD (R112): a signed value added to the offset; outside 52 bits it traps SEG_LIMIT with ADDR sa, and sd is not written. -/
def padd (d a : BitVec 5) (v : Int) : M Unit := do
  let p ← getS a
  let o : Int := ptrOff p + v
  if o < 0 ∨ 2 ^ 52 ≤ o then trap tSegLimit p
  else do
    setS d (ptrWith p o)
    retireM

/-- PADD with a register (R112). -/
def execPadd (d a b : BitVec 5) (s : State) : Host.Outcome State Fault Refusal := finish (padd d a (s.rdS b).toInt) s
/-- PADD with an immediate (R112). -/
def execPaddImm (d a : BitVec 5) (i : BitVec 8) (s : State) : Host.Outcome State Fault Refusal := finish (padd d a i.toInt) s

/-- PSET (R113). -/
def execPset (d a : BitVec 5) (n : BitVec 3) (s : State) : Host.Outcome State Fault Refusal :=
  writesS d ((n.setWidth 64 <<< 52) ||| ((s.rdS a).setWidth 52).setWidth 64) s

/-- PFMT (R113): the code is not checked. -/
def execPfmt (d a : BitVec 5) (l : BitVec 3) (f : BitVec 6) (s : State) : Host.Outcome State Fault Refusal :=
  writesS d ((((s.rdS a).setWidth 55).setWidth 64) ||| (l.setWidth 64 <<< 55) ||| (f.setWidth 64 <<< 58)) s

/-- SEGRD (R115). -/
def execSegrd (d : BitVec 5) (n : BitVec 3) (w : BitVec 2) (s : State) : Host.Outcome State Fault Refusal :=
  writesS d ((s.rdG n).extractLsb' (64 * w.toNat) 64) s

/-- A narrowed segment (R114). -/
def segNarrow (g : BitVec 256) (a b rights : Nat) : BitVec 256 :=
  segMake ((segBase g + a) % 2 ^ 56) b (segSpace g) ((segRights g &&& rights) ||| (segRights g &&& rL))
    ((segScale g + 2 ^ 56 - a % 2 ^ 56) % 2 ^ 56) (segCore g) (segLregion g) (segCluster g) (segWindow g)

/-- SEGNAR (R114). -/
def execSegnar (n : BitVec 3) (a : BitVec 5) (r : BitVec 6) (b : BitVec 5) (s : State) : Host.Outcome State Fault Refusal :=
  finish (do
    let va ← getS a
    let vb ← getS b
    let g := s.rdG n
    if segLimit g < va.toNat ∨ segLimit g - va.toNat < vb.toNat then trap tSegLimit va
    else if (segBase g + va.toNat) % 128 ≠ 0 then trap tMisalign va
    else do
      modify (fun s => s.wrG n (segNarrow g va.toNat vb.toNat r.toNat))
      retireM) s

/-! PROBE. -/

/-- What a translation would find without setting A or D: none for a page that is not valid, else W and REM. -/
def State.probePage (s : State) (r dva : Nat) : Option (Bool × Bool) :=
  let g := s.region r
  if !g.ptroot.getLsbD 0 then none
  else match g.tcache.find? (fun e => decide (e.base = dva / 2 ^ e.shift * 2 ^ e.shift)) with
    | some e => some (e.w, e.rem)
    | none => match (s.walk r dva false walkLevels (g.ptroot.toNat / 2 ^ 13 % 2 ^ 27 * 2 ^ 13)).2 with
      | .leaf _ _ w _ rem _ => some (w, rem)
      | _ => none

/-- PROBE's result (R116, Table 05-5). -/
def State.probeWord (s : State) (p : Word) (size rights : Nat) : Word :=
  let g := s.th.r.rdG (ptrSeg p)
  let eo := ptrOff p
  let sp := segSpace g
  let fmt := decide (formatOf (ptrFmt p) = .reserved)
  let limit := !s.limitOk s.clusterNo g eo size
  let right := decide (segRights g &&& rights ≠ rights) || !s.lregionOk (taskVf s.th.id.task) g
  let align := decide (eo % size ≠ 0)
  let pages : List (Option (Bool × Bool)) := match s.pagedRegion g with
    | some r => if limit || right then [] else (pagePieces (segBase g + eo) size).map (fun q => s.probePage r q.1)
    | none => []
  let nomap := pages.any (fun (q : Option (Bool × Bool)) => match q with
    | none => true
    | some w => !w.1 && decide (rights &&& rW ≠ 0))
  let remote := decide (sp = 2 ∨ sp = 4 ∨ sp = 5 ∨ sp = 6) || pages.any (fun (q : Option (Bool × Bool)) => match q with
    | none => false
    | some w => w.2)
  BitVec.ofNat 64 ((if remote then 64 else 0) + (if nomap then 32 else 0) + (if align then 16 else 0) + (if right then 8 else 0) +
    (if limit then 4 else 0) + (if fmt then 2 else 0) + (if nomap || align || right || limit || fmt then 0 else 1))

/-- The pages of a PROBE's range that the translation cache does not hold: their region and DVAs (R116). -/
def State.probeMisses (s : State) (p : Word) (size rights : Nat) : Option (Nat × List Nat) :=
  let g := s.th.r.rdG (ptrSeg p)
  let eo := ptrOff p
  match s.pagedRegion g with
  | some r =>
    if !s.limitOk s.clusterNo g eo size || decide (segRights g &&& rights ≠ rights) || !(s.region r).ptroot.getLsbD 0 then none
    else
      match ((pagePieces (segBase g + eo) size).map (fun q => q.1)).filter (fun a =>
        !(s.region r).tcache.any (fun e => decide (e.base = a / 2 ^ e.shift * 2 ^ e.shift))) with
      | [] => none
      | l => some (r, l)
  | none => none

/-- PROBE (R116): it never traps on its access, and changes no A or D bit; while pages miss the translation cache it parks until their walks
have ended. Sizes above 2^12 trap ILLEGAL (R111). -/
def execProbe (d a : BitVec 5) (z : BitVec 4) (r : BitVec 6) (s : State) : Host.Outcome State Fault Refusal :=
  finish (do
    need (decide (z.toNat ≤ 12))
    match if s.th.w.acc.redo then none else s.probeMisses (s.rdS a) (2 ^ z.toNat) r.toNat with
    | some (g, l) => do
      modify (fun s => s.updRegion g (fun x => { x with walks := x.walks ++ l.map (fun a => (s.cur, a)) }))
      parkM (.probe g (l.headD 0))
    | none => do
      setS d (s.probeWord (s.rdS a) (2 ^ z.toNat) r.toNat)
      retireM) s

/-- SEGSET (R117): privileged; an invalid descriptor traps ILLEGAL. -/
def execSegset (n : BitVec 3) (a : BitVec 5) (s : State) : Host.Outcome State Fault Refusal :=
  finish (do
    needPriv
    let p ← getS a
    let l ← check p 0 32 32 rR anySpace
    match ← readM l 32 with
    | none => retireM
    | some b => do
      let g := BitVec.ofNat 256 (leNat b)
      need (s.segValid s.clusterNo (taskVf s.th.id.task) g)
      modify (fun s => s.wrG n g)
      retireM) s

end Sys2Proof.Machine
end

