-- ==== Sys2Proof/Machine/VectorMem.lean ====
section
/-! DEFINITION. Vector memory (09, R211 to R215) and VFENCE (R195). -/

namespace Sys2Proof.Machine

/-- A lane of a vector access: its number and effective offset. -/
abbrev LaneAt := Nat × Int

/-- The active lanes of a mask. -/
def activeIdx (m : Word32) : List Nat := (List.range 32).filter (fun i => m.getLsbD i)

/-- Lanes of VLD and VST: one access of 128 bytes, aligned to 32 (R211, R212). -/
def contiguousLanes (p sx : Word) (m : Word32) (rights : Nat) : M (List LaneAt) := do
  if activeIdx m = [] then return []
  else do
    let _ ← check p sx.toInt 128 32 rights anySpace
    return (activeIdx m).map (fun i => (i, (ptrOff p : Int) + sx.toInt + 4 * i))

/-- Lanes checked one by one, in increasing order (R212). -/
def checkLanes (p : Word) (rights : Nat) : List LaneAt → M (List LaneAt)
  | [] => return []
  | q :: r => do
    let _ ← check p (q.2 - ptrOff p) 4 4 rights anySpace
    let l ← checkLanes p rights r
    return q :: l

/-- Lanes of VLDS and VSTS: a signed byte stride (R211). -/
def stridedLanes (p sx : Word) (m : Word32) (rights : Nat) : M (List LaneAt) :=
  checkLanes p rights ((activeIdx m).map (fun i => (i, (ptrOff p : Int) + i * sx.toInt)))

/-- Lanes of VGATH and VSCAT in bounds (R211, R212). -/
def indexedLanes (p sx : Word) (idx : VReg) (m : Word32) (rights : Nat) : M (List LaneAt) :=
  let inB := fun (i : Nat) => decide (0 ≤ (lane idx i).toInt) && decide ((lane idx i).toInt < sx.toNat % 2 ^ 32)
  checkLanes p rights (((activeIdx m).filter inB).map (fun i => (i, (ptrOff p : Int) + 4 * (lane idx i).toInt)))

/-- The pieces of lanes, one of four bytes each, after translation of every page they touch (R215); none where a relaxed access has been refused.
`span` holds the offsets of all lanes of a store: the lane that sets D in a leaf marks every page that the store writes through it (R121). -/
def locateLanes (p : Word) (rights : Nat) (write : Bool) (span : List Int) : List LaneAt → M (List (Nat × Nat))
  | [] => return []
  | q :: r => do
    let s ← get
    let g := s.th.r.rdG (ptrSeg p)
    let x ← locate { seg := g, eo := q.2.toNat, ptr := ptrWith p q.2 } 4 rights write
    match s.pagedRegion g with
    | some r => modify (fun t => t.markSpan s r (span.map (fun o => segBase g + o.toNat)))
    | none => pure ()
    if x.isEmpty then return []
    let l ← locateLanes p rights write span r
    return if r ≠ [] ∧ l = [] then [] else x ++ l

/-- The lane values of bytes read four at a time. -/
def laneBytes : List LaneAt → List Byte → List (Nat × Word32)
  | [], _ => []
  | q :: r, b => (q.1, BitVec.ofNat 32 (leNat (b.take 4))) :: laneBytes r (b.drop 4)

/-- A register with lanes replaced. -/
def setLanes (v : VReg) (l : List (Nat × Word32)) : VReg :=
  ofLanes ((List.range 32).map (fun i => match l.find? (fun p => p.1 = i) with
    | some p => p.2
    | none => lane v i))

/-- The access's location for its packets: its lowest lane. -/
def State.lanesLoc (s : State) (p : Word) (l : List LaneAt) : Loc :=
  { seg := s.th.r.rdG (ptrSeg p), eo := ((l.headD (0, 0)).2).toNat, ptr := ptrWith p ((l.headD (0, 0)).2) }

/-- The lanes that a relaxed vector load brings, with the key of each. -/
def laneKeys (lanes : List LaneAt) (pieces : List (Nat × Nat)) : List (Nat × Nat) :=
  (lanes.zip pieces).map (fun p => (p.1.1, p.2.1))

/-- A vector load of lanes; `fill` are lanes written without an access (R212). A form with no access reaches no memory (R214). -/
def vecLoad (d : BitVec 5) (p : Word) (lanes : List LaneAt) (fill : List (Nat × Word32)) : M Unit := do
  let s ← get
  if lanes = [] then do
    setV d (setLanes (s.rdV d) fill)
    retireM
  else do
    let pieces ← locateLanes p rR false [] lanes
    match ← readParts (s.lanesLoc p lanes) [pieces] { dst := some (d.toNat, laneKeys lanes pieces) } with
    | some b => do
      setV d (setLanes (s.rdV d) (laneBytes lanes b ++ fill))
      retireM
    | none => do
      setV d (setLanes (s.rdV d) fill)
      retireM

/-- A vector store of lanes of vd, taken at issue (R213): of two lanes at one address the higher is left. -/
def vecStore (d : BitVec 5) (p : Word) (lanes : List LaneAt) : M Unit := do
  let s ← get
  if lanes = [] then retireM
  else do
    let l := s.lanesLoc p lanes
    if !s.goesOn then specStore l.seg
    let pieces ← locateLanes p rW true (lanes.map (fun q => q.2)) lanes
    writeParts l (layOver pieces (lanes.flatMap (fun q => leBytes 4 (lane (s.rdV d) q.1).toNat)))
    retireM

/-- VLD (R211). -/
def execVld (d a x : BitVec 5) (k : BitVec 3) (s : State) : Host.Outcome State Fault Refusal :=
  finish (do
    let l ← contiguousLanes (s.rdS a) (s.rdS x) (s.rdK k) rR
    vecLoad d (s.rdS a) l []) s

/-- VST (R211). -/
def execVst (d a x : BitVec 5) (k : BitVec 3) (s : State) : Host.Outcome State Fault Refusal :=
  finish (do
    let l ← contiguousLanes (s.rdS a) (s.rdS x) (s.rdK k) rW
    vecStore d (s.rdS a) l) s

/-- VLDS (R211). -/
def execVlds (d a x : BitVec 5) (k : BitVec 3) (s : State) : Host.Outcome State Fault Refusal :=
  finish (do
    let l ← stridedLanes (s.rdS a) (s.rdS x) (s.rdK k) rR
    vecLoad d (s.rdS a) l []) s

/-- VSTS (R211). -/
def execVsts (d a x : BitVec 5) (k : BitVec 3) (s : State) : Host.Outcome State Fault Refusal :=
  finish (do
    let l ← stridedLanes (s.rdS a) (s.rdS x) (s.rdK k) rW
    vecStore d (s.rdS a) l) s

/-- VGATH (R211, R212): lanes out of bounds take the fill value; vd = 31 traps ILLEGAL. -/
def execVgath (d a x : BitVec 5) (k : BitVec 3) (s : State) : Host.Outcome State Fault Refusal :=
  finish (do
    need (decide (d.toNat < 31))
    let m := s.rdK k
    let l ← indexedLanes (s.rdS a) (s.rdS x) (s.rdV (next5 d)) m rR
    let out := (activeIdx m).filter (fun i => !l.any (fun q => q.1 = i))
    vecLoad d (s.rdS a) l (out.map (fun i => (i, ((s.rdS x) >>> 32).setWidth 32)))) s

/-- VSCAT (R211, R212). -/
def execVscat (d a x : BitVec 5) (k : BitVec 3) (s : State) : Host.Outcome State Fault Refusal :=
  finish (do
    need (decide (d.toNat < 31))
    let l ← indexedLanes (s.rdS a) (s.rdS x) (s.rdV (next5 d)) (s.rdK k) rW
    vecStore d (s.rdS a) l) s

/-- VFENCE (R195): every earlier vector form of the thread, relaxed vector accesses included, has retired. -/
def execVfence (s : State) : Host.Outcome State Fault Refusal :=
  finish (do
    waitM .vectors
    retireM) s

end Sys2Proof.Machine
end

