-- ==== Sys2Proof/Machine/Dispatch.lean ====
section
/-! DEFINITION. The meaning of every instruction and event: one arm per constructor. -/

namespace Sys2Proof.Machine

/-- One instruction, or one event, executed. -/
def exec (i : Instr) (s : State) : Host.Outcome State Fault Refusal :=
  match i with
  | .add d a b => Sys2Proof.Machine.execAdd d a b s
  | .sub d a b => Sys2Proof.Machine.execSub d a b s
  | .mul d a b => Sys2Proof.Machine.execMul d a b s
  | .mulh d a b => Sys2Proof.Machine.execMulh d a b s
  | .mulhu d a b => Sys2Proof.Machine.execMulhu d a b s
  | .div d a b => Sys2Proof.Machine.execDiv d a b s
  | .divu d a b => Sys2Proof.Machine.execDivu d a b s
  | .rem d a b => Sys2Proof.Machine.execRem d a b s
  | .remu d a b => Sys2Proof.Machine.execRemu d a b s
  | .and d a b => Sys2Proof.Machine.execAnd d a b s
  | .or d a b => Sys2Proof.Machine.execOr d a b s
  | .xor d a b => Sys2Proof.Machine.execXor d a b s
  | .shl d a b => Sys2Proof.Machine.execShl d a b s
  | .shr d a b => Sys2Proof.Machine.execShr d a b s
  | .sar d a b => Sys2Proof.Machine.execSar d a b s
  | .rol d a b => Sys2Proof.Machine.execRol d a b s
  | .min d a b => Sys2Proof.Machine.execMin d a b s
  | .max d a b => Sys2Proof.Machine.execMax d a b s
  | .minu d a b => Sys2Proof.Machine.execMinu d a b s
  | .maxu d a b => Sys2Proof.Machine.execMaxu d a b s
  | .clz d a => Sys2Proof.Machine.execClz d a s
  | .ctz d a => Sys2Proof.Machine.execCtz d a s
  | .popc d a => Sys2Proof.Machine.execPopc d a s
  | .bswap d a => Sys2Proof.Machine.execBswap d a s
  | .addi d a i0 => Sys2Proof.Machine.execAddi d a i0 s
  | .andi d a i0 => Sys2Proof.Machine.execAndi d a i0 s
  | .ori d a i0 => Sys2Proof.Machine.execOri d a i0 s
  | .xori d a i0 => Sys2Proof.Machine.execXori d a i0 s
  | .shli d a n => Sys2Proof.Machine.execShli d a n s
  | .shri d a n => Sys2Proof.Machine.execShri d a n s
  | .sari d a n => Sys2Proof.Machine.execSari d a n s
  | .limm d i0 => Sys2Proof.Machine.execLimm d i0 s
  | .limmh d q i0 => Sys2Proof.Machine.execLimmh d q i0 s
  | .bext d a w o => Sys2Proof.Machine.execBext d a w o s
  | .bins d a w o => Sys2Proof.Machine.execBins d a w o s
  | .cmpeq d a b => Sys2Proof.Machine.execCmpeq d a b s
  | .cmplt d a b => Sys2Proof.Machine.execCmplt d a b s
  | .cmpltu d a b => Sys2Proof.Machine.execCmpltu d a b s
  | .sel d a b c => Sys2Proof.Machine.execSel d a b c s
  | .b o => Sys2Proof.Machine.execB o s
  | .bl o => Sys2Proof.Machine.execBl o s
  | .beq a b o => Sys2Proof.Machine.execBeq a b o s
  | .bne a b o => Sys2Proof.Machine.execBne a b o s
  | .blt a b o => Sys2Proof.Machine.execBlt a b o s
  | .bge a b o => Sys2Proof.Machine.execBge a b o s
  | .bltu a b o => Sys2Proof.Machine.execBltu a b o s
  | .bgeu a b o => Sys2Proof.Machine.execBgeu a b o s
  | .br a => Sys2Proof.Machine.execBr a s
  | .blr a => Sys2Proof.Machine.execBlr a s
  | .nop => Sys2Proof.Machine.execNop s
  | .yield n => Sys2Proof.Machine.execYield n s
  | .texit => Sys2Proof.Machine.execTexit s
  | .mfs d r => Sys2Proof.Machine.execMfs d r s
  | .mts a r => Sys2Proof.Machine.execMts a r s
  | .repf n d a b l => Sys2Proof.Machine.execRepf n d a b l s
  | .trap a n => Sys2Proof.Machine.execTrap a n s
  | .brk n => Sys2Proof.Machine.execBrk n s
  | .ldB d a o => Sys2Proof.Machine.execLdB d a o s
  | .ldH d a o => Sys2Proof.Machine.execLdH d a o s
  | .ldW d a o => Sys2Proof.Machine.execLdW d a o s
  | .ldD d a o => Sys2Proof.Machine.execLdD d a o s
  | .ldBs d a o => Sys2Proof.Machine.execLdBs d a o s
  | .ldHs d a o => Sys2Proof.Machine.execLdHs d a o s
  | .ldWs d a o => Sys2Proof.Machine.execLdWs d a o s
  | .ldCvt d a o => Sys2Proof.Machine.execLdCvt d a o s
  | .stB d a o => Sys2Proof.Machine.execStB d a o s
  | .stH d a o => Sys2Proof.Machine.execStH d a o s
  | .stW d a o => Sys2Proof.Machine.execStW d a o s
  | .stD d a o => Sys2Proof.Machine.execStD d a o s
  | .stCvt d a o => Sys2Proof.Machine.execStCvt d a o s
  | .stCvtSat d a o => Sys2Proof.Machine.execStCvtSat d a o s
  | .ldf d a o => Sys2Proof.Machine.execLdf d a o s
  | .ldfe d a o => Sys2Proof.Machine.execLdfe d a o s
  | .stf d a o => Sys2Proof.Machine.execStf d a o s
  | .stff d a o => Sys2Proof.Machine.execStff d a o s
  | .sete a o => Sys2Proof.Machine.execSete a o s
  | .setf a o => Sys2Proof.Machine.execSetf a o s
  | .amoAdd d a b s0 => Sys2Proof.Machine.execAmoAdd d a b s0 s
  | .amoMin d a b s0 => Sys2Proof.Machine.execAmoMin d a b s0 s
  | .amoMax d a b s0 => Sys2Proof.Machine.execAmoMax d a b s0 s
  | .amoMinu d a b s0 => Sys2Proof.Machine.execAmoMinu d a b s0 s
  | .amoMaxu d a b s0 => Sys2Proof.Machine.execAmoMaxu d a b s0 s
  | .amoSwap d a b s0 => Sys2Proof.Machine.execAmoSwap d a b s0 s
  | .amoCas d a b s0 => Sys2Proof.Machine.execAmoCas d a b s0 s
  | .amoAnd d a b s0 => Sys2Proof.Machine.execAmoAnd d a b s0 s
  | .amoOr d a b s0 => Sys2Proof.Machine.execAmoOr d a b s0 s
  | .amoXor d a b s0 => Sys2Proof.Machine.execAmoXor d a b s0 s
  | .amoFadd d a b => Sys2Proof.Machine.execAmoFadd d a b s
  | .syncarm d a o => Sys2Proof.Machine.execSyncarm d a o s
  | .syncadd d a o => Sys2Proof.Machine.execSyncadd d a o s
  | .waitgen d a o => Sys2Proof.Machine.execWaitgen d a o s
  | .rlx => Sys2Proof.Machine.execRlx s
  | .padd d a b => Sys2Proof.Machine.execPadd d a b s
  | .paddImm d a i0 => Sys2Proof.Machine.execPaddImm d a i0 s
  | .pset d a n => Sys2Proof.Machine.execPset d a n s
  | .pfmt d a l f => Sys2Proof.Machine.execPfmt d a l f s
  | .segrd d n w => Sys2Proof.Machine.execSegrd d n w s
  | .probe d a s0 r => Sys2Proof.Machine.execProbe d a s0 r s
  | .segnar n a r b => Sys2Proof.Machine.execSegnar n a r b s
  | .bld d a q o => Sys2Proof.Machine.execBld d a q o s
  | .bst d a q o => Sys2Proof.Machine.execBst d a q o s
  | .wphase d a o => Sys2Proof.Machine.execWphase d a o s
  | .wwait a i0 => Sys2Proof.Machine.execWwait a i0 s
  | .bmaprd d c i0 => Sys2Proof.Machine.execBmaprd d c i0 s
  | .vadd t r d a x k s0 => Sys2Proof.Machine.execVadd t r d a x k s0 s
  | .vsub t r d a x k s0 => Sys2Proof.Machine.execVsub t r d a x k s0 s
  | .vmul t r d a x k s0 => Sys2Proof.Machine.execVmul t r d a x k s0 s
  | .vfma t r d a x k s0 => Sys2Proof.Machine.execVfma t r d a x k s0 s
  | .vmin t d a x k s0 => Sys2Proof.Machine.execVmin t d a x k s0 s
  | .vmax t d a x k s0 => Sys2Proof.Machine.execVmax t d a x k s0 s
  | .vabs t d a k => Sys2Proof.Machine.execVabs t d a k s
  | .vneg t d a k => Sys2Proof.Machine.execVneg t d a k s
  | .vand d a x k s0 => Sys2Proof.Machine.execVand d a x k s0 s
  | .vor d a x k s0 => Sys2Proof.Machine.execVor d a x k s0 s
  | .vxor d a x k s0 => Sys2Proof.Machine.execVxor d a x k s0 s
  | .vshl d a x k s0 => Sys2Proof.Machine.execVshl d a x k s0 s
  | .vshr t d a x k s0 => Sys2Proof.Machine.execVshr t d a x k s0 s
  | .vcmpEq t d a x k s0 => Sys2Proof.Machine.execVcmpEq t d a x k s0 s
  | .vcmpLt t d a x k s0 => Sys2Proof.Machine.execVcmpLt t d a x k s0 s
  | .vcmpLe t d a x k s0 => Sys2Proof.Machine.execVcmpLe t d a x k s0 s
  | .vcmpUnord t d a x k s0 => Sys2Proof.Machine.execVcmpUnord t d a x k s0 s
  | .vsel d a x k s0 => Sys2Proof.Machine.execVsel d a x k s0 s
  | .vperm d a x s0 => Sys2Proof.Machine.execVperm d a x s0 s
  | .vbcast t d x k => Sys2Proof.Machine.execVbcast t d x k s
  | .vins d n x => Sys2Proof.Machine.execVins d n x s
  | .vext d a n => Sys2Proof.Machine.execVext d a n s
  | .vred t d a o k => Sys2Proof.Machine.execVred t d a o k s
  | .vdot t d a b k => Sys2Proof.Machine.execVdot t d a b k s
  | .vdotb d a x k => Sys2Proof.Machine.execVdotb d a x k s
  | .vscan t d a r o k => Sys2Proof.Machine.execVscan t d a r o k s
  | .vtopk t d a c k => Sys2Proof.Machine.execVtopk t d a c k s
  | .vld d a x k => Sys2Proof.Machine.execVld d a x k s
  | .vst d a x k => Sys2Proof.Machine.execVst d a x k s
  | .vlds d a x k => Sys2Proof.Machine.execVlds d a x k s
  | .vsts d a x k => Sys2Proof.Machine.execVsts d a x k s
  | .vgath d a x k => Sys2Proof.Machine.execVgath d a x k s
  | .vscat d a x k => Sys2Proof.Machine.execVscat d a x k s
  | .vcvtFromF32 r q d a x k s0 => Sys2Proof.Machine.execVcvtFromF32 r q d a x k s0 s
  | .vcvtToF32 r q d a x k => Sys2Proof.Machine.execVcvtToF32 r q d a x k s
  | .vsf f d a r k => Sys2Proof.Machine.execVsf f d a r k s
  | .kand d a b => Sys2Proof.Machine.execKand d a b s
  | .kor d a b => Sys2Proof.Machine.execKor d a b s
  | .knot d a => Sys2Proof.Machine.execKnot d a s
  | .kmovKk d a => Sys2Proof.Machine.execKmovKk d a s
  | .kmovKs d a => Sys2Proof.Machine.execKmovKs d a s
  | .kmovSk d a => Sys2Proof.Machine.execKmovSk d a s
  | .kpop d a => Sys2Proof.Machine.execKpop d a s
  | .vfence => Sys2Proof.Machine.execVfence s
  | .hsend x => Sys2Proof.Machine.execHsend x s
  | .hrecv d => Sys2Proof.Machine.execHrecv d s
  | .hsendv a => Sys2Proof.Machine.execHsendv a s
  | .hrecvv d => Sys2Proof.Machine.execHrecvv d s
  | .xscan d a x => Sys2Proof.Machine.execXscan d a x s
  | .oclaim d k n => Sys2Proof.Machine.execOclaim d k n s
  | .oclaimAny d k => Sys2Proof.Machine.execOclaimAny d k s
  | .orelease k n => Sys2Proof.Machine.execOrelease k n s
  | .ofill n a r => Sys2Proof.Machine.execOfill n a r s
  | .odrain n a r => Sys2Proof.Machine.execOdrain n a r s
  | .skset a => Sys2Proof.Machine.execSkset a s
  | .gang n => Sys2Proof.Machine.execGang n s
  | .ungang => Sys2Proof.Machine.execUngang s
  | .accz c => Sys2Proof.Machine.execAccz c s
  | .accld a c => Sys2Proof.Machine.execAccld a c s
  | .accst d a s0 r l c => Sys2Proof.Machine.execAccst d a s0 r l c s
  | .accrd d r h c => Sys2Proof.Machine.execAccrd d r h c s
  | .mma e g t z c b a => Sys2Proof.Machine.execMma e g t z c b a s
  | .mmas e g t z c b a => Sys2Proof.Machine.execMmas e g t z c b a s
  | .mmaJ e g t z c b a => Sys2Proof.Machine.execMmaJ e g t z c b a s
  | .mmasJ e g t z c b a => Sys2Proof.Machine.execMmasJ e g t z c b a s
  | .send d a h t => Sys2Proof.Machine.execSend d a h t s
  | .recv d v => Sys2Proof.Machine.execRecv d v s
  | .recvp d v => Sys2Proof.Machine.execRecvp d v s
  | .rst d a s0 o => Sys2Proof.Machine.execRst d a s0 o s
  | .rstV d a h o => Sys2Proof.Machine.execRstV d a h o s
  | .rld d a s0 o => Sys2Proof.Machine.execRld d a s0 o s
  | .ramo d a s0 o b => Sys2Proof.Machine.execRamo d a s0 o b s
  | .amsg d a h t => Sys2Proof.Machine.execAmsg d a h t s
  | .hret => Sys2Proof.Machine.execHret s
  | .epush b a e => Sys2Proof.Machine.execEpush b a e s
  | .epop d e => Sys2Proof.Machine.execEpop d e s
  | .epoll d e => Sys2Proof.Machine.execEpoll d e s
  | .ecfg a e => Sys2Proof.Machine.execEcfg a e s
  | .fence s0 k => Sys2Proof.Machine.execFence s0 k s
  | .fenceNet => Sys2Proof.Machine.execFenceNet s
  | .icsync s0 => Sys2Proof.Machine.execIcsync s0 s
  | .spece => Sys2Proof.Machine.execSpece s
  | .spcmp => Sys2Proof.Machine.execSpcmp s
  | .spabort => Sys2Proof.Machine.execSpabort s
  | .spappend d a => Sys2Proof.Machine.execSpappend d a s
  | .spstat d n => Sys2Proof.Machine.execSpstat d n s
  | .specb t n k m g e => Sys2Proof.Machine.execSpecb t n k m g e s
  | .logmark a t => Sys2Proof.Machine.execLogmark a t s
  | .launch d a => Sys2Proof.Machine.execLaunch d a s
  | .migrate d a => Sys2Proof.Machine.execMigrate d a s
  | .segset n a => Sys2Proof.Machine.execSegset n a s
  | .wheelset a => Sys2Proof.Machine.execWheelset a s
  | .bankret d c b => Sys2Proof.Machine.execBankret d c b s
  | .logctlRead d a => Sys2Proof.Machine.execLogctlRead d a s
  | .logctlRing d a => Sys2Proof.Machine.execLogctlRing d a s
  | .logctlMode d a => Sys2Proof.Machine.execLogctlMode d a s
  | .logctlTail d a => Sys2Proof.Machine.execLogctlTail d a s
  | .logctlHead d a => Sys2Proof.Machine.execLogctlHead d a s
  | .ctxsave d a s0 => Sys2Proof.Machine.execCtxsave d a s0 s
  | .ctxload d a => Sys2Proof.Machine.execCtxload d a s
  | .colour d => Sys2Proof.Machine.execColour d s
  | .wakeResume d a => Sys2Proof.Machine.execWakeResume d a s
  | .wakeFault d a => Sys2Proof.Machine.execWakeFault d a s
  | .wakeAbandon d a => Sys2Proof.Machine.execWakeAbandon d a s
  | .fadd d a b r => Sys2Proof.Machine.execFadd d a b r s
  | .fmul d a b r => Sys2Proof.Machine.execFmul d a b r s
  | .ffma d a b c r => Sys2Proof.Machine.execFfma d a b c r s
  | .fcmp d a b p => Sys2Proof.Machine.execFcmp d a b p s
  | .fcvt d a b k r => Sys2Proof.Machine.execFcvt d a b k r s
  | .vscanlr t d a k => Sys2Proof.Machine.execVscanlr t d a k s
  | .codeFetch => Sys2Proof.Machine.execCodeFetch s
  | .deferredTrap => Sys2Proof.Machine.execDeferredTrap s
  | .breakpointMatch => Sys2Proof.Machine.execBreakpointMatch s
  | .faultPacketSend core => Sys2Proof.Machine.execFaultPacketSend core s
  | .lsAccessPerform core => Sys2Proof.Machine.execLsAccessPerform core s
  | .requestPlace core => Sys2Proof.Machine.execRequestPlace core s
  | .wheelMeeting core => Sys2Proof.Machine.execWheelMeeting core s
  | .farMeeting core => Sys2Proof.Machine.execFarMeeting core s
  | .wheelSwap region => Sys2Proof.Machine.execWheelSwap region s
  | .bankretComplete thread => Sys2Proof.Machine.execBankretComplete thread s
  | .wwaitWake thread => Sys2Proof.Machine.execWwaitWake thread s
  | .translationWalkEnd region dva write => Sys2Proof.Machine.execTranslationWalkEnd region dva write s
  | .vectorCommandStart core => Sys2Proof.Machine.execVectorCommandStart core s
  | .sfRequestStart core => Sys2Proof.Machine.execSfRequestStart core s
  | .matrixCommandStart core => Sys2Proof.Machine.execMatrixCommandStart core s
  | .gangForm leader => Sys2Proof.Machine.execGangForm leader s
  | .halyardLand i0 => Sys2Proof.Machine.execHalyardLand i0 s
  | .messageArrival i0 => Sys2Proof.Machine.execMessageArrival i0 s
  | .messageRetry core => Sys2Proof.Machine.execMessageRetry core s
  | .ackArrival i0 => Sys2Proof.Machine.execAckArrival i0 s
  | .replyArrival i0 => Sys2Proof.Machine.execReplyArrival i0 s
  | .handlerStart core => Sys2Proof.Machine.execHandlerStart core s
  | .userHandlerStart core => Sys2Proof.Machine.execUserHandlerStart core s
  | .engineCommandTake core port => Sys2Proof.Machine.execEngineCommandTake core port s
  | .chunkStart unit i0 => Sys2Proof.Machine.execChunkStart unit i0 s
  | .chunkComplete unit i0 => Sys2Proof.Machine.execChunkComplete unit i0 s
  | .commandEnd engine i0 => Sys2Proof.Machine.execCommandEnd engine i0 s
  | .gatherIndex region i0 => Sys2Proof.Machine.execGatherIndex region i0 s
  | .appendPerform unit i0 => Sys2Proof.Machine.execAppendPerform unit i0 s
  | .a2aArrival i0 => Sys2Proof.Machine.execA2aArrival i0 s
  | .mailboxCommand core => Sys2Proof.Machine.execMailboxCommand core s
  | .guessEnd thread => Sys2Proof.Machine.execGuessEnd thread s
  | .windowStart owner => Sys2Proof.Machine.execWindowStart owner s
  | .specCommit owner => Sys2Proof.Machine.execSpecCommit owner s
  | .replayStall region => Sys2Proof.Machine.execReplayStall region s
  | .logmodeWrite region value => Sys2Proof.Machine.execLogmodeWrite region value s
  | .logptrTailWrite region value => Sys2Proof.Machine.execLogptrTailWrite region value s
  | .queueNotify q value => Sys2Proof.Machine.execQueueNotify q value s
  | .recordFetch q => Sys2Proof.Machine.execRecordFetch q s
  | .recordRefetch q => Sys2Proof.Machine.execRecordRefetch q s
  | .submissionCheck vf launch => Sys2Proof.Machine.execSubmissionCheck vf launch s
  | .qctlWrite q pf value => Sys2Proof.Machine.execQctlWrite q pf value s
  | .qerrClear q value => Sys2Proof.Machine.execQerrClear q value s
  | .windowAllot core vf launch => Sys2Proof.Machine.execWindowAllot core vf launch s
  | .taskDispatch thread vf launch tile => Sys2Proof.Machine.execTaskDispatch thread vf launch tile s
  | .launchComplete vf launch => Sys2Proof.Machine.execLaunchComplete vf launch s
  | .priorityAge vf launch => Sys2Proof.Machine.execPriorityAge vf launch s
  | .preempt vf launch => Sys2Proof.Machine.execPreempt vf launch s
  | .evictionTest region => Sys2Proof.Machine.execEvictionTest region s
  | .contextSave thread => Sys2Proof.Machine.execContextSave thread s
  | .contextResume thread area => Sys2Proof.Machine.execContextResume thread area s
  | .loadTableRefresh cluster => Sys2Proof.Machine.execLoadTableRefresh cluster s
  | .migrationInterval core => Sys2Proof.Machine.execMigrationInterval core s
  | .migrationArrive i0 => Sys2Proof.Machine.execMigrationArrive i0 s
  | .tcinvGo region value => Sys2Proof.Machine.execTcinvGo region value s
  | .ptrootWrite region value => Sys2Proof.Machine.execPtrootWrite region value s
  | .regionReset region pf value => Sys2Proof.Machine.execRegionReset region pf value s
  | .railFault region => Sys2Proof.Machine.execRailFault region s
  | .clockFault region => Sys2Proof.Machine.execClockFault region s
  | .hbmStackFault stack => Sys2Proof.Machine.execHbmStackFault stack s
  | .collectiveEngineFault die => Sys2Proof.Machine.execCollectiveEngineFault die s
  | .packageReset image => Sys2Proof.Machine.execPackageReset image s
  | .windowWrite region n word value => Sys2Proof.Machine.execWindowWrite region n word value s
  | .rgintClear region value => Sys2Proof.Machine.execRgintClear region value s
  | .cutStart region value => Sys2Proof.Machine.execCutStart region value s
  | .cutResum vf => Sys2Proof.Machine.execCutResum vf s
  | .cutResend region => Sys2Proof.Machine.execCutResend region s
  | .clockRequest region value => Sys2Proof.Machine.execClockRequest region value s
  | .clockStepBegin region => Sys2Proof.Machine.execClockStepBegin region s
  | .clockStepEnd region => Sys2Proof.Machine.execClockStepEnd region s
  | .linkEnable port value => Sys2Proof.Machine.execLinkEnable port value s
  | .linkUp port peer => Sys2Proof.Machine.execLinkUp port peer s
  | .laneFault port => Sys2Proof.Machine.execLaneFault port s
  | .breakpointWrite n word value => Sys2Proof.Machine.execBreakpointWrite n word value s
  | .profctlWrite core value => Sys2Proof.Machine.execProfctlWrite core value s
  | .triggerPulse die line => Sys2Proof.Machine.execTriggerPulse die line s
  | .trigin pin => Sys2Proof.Machine.execTrigin pin s
  | .getVersion fn => Sys2Proof.Machine.execGetVersion fn s
  | .getCapabilities fn => Sys2Proof.Machine.execGetCapabilities fn s
  | .negotiateAlgorithms fn => Sys2Proof.Machine.execNegotiateAlgorithms fn s
  | .getDigests fn => Sys2Proof.Machine.execGetDigests fn s
  | .getCertificate fn => Sys2Proof.Machine.execGetCertificate fn s
  | .challenge fn => Sys2Proof.Machine.execChallenge fn s
  | .getMeasurements fn index => Sys2Proof.Machine.execGetMeasurements fn index s
  | .registerWrite block index offset value => Sys2Proof.Machine.execRegisterWrite block index offset value s
  | .illegalWord w => Sys2Proof.Machine.execIllegalWord w s
  | .issueTurn core => Sys2Proof.Machine.execIssueTurn core s
  | .memoryControllerAccess unit => Sys2Proof.Machine.execMemoryControllerAccess unit s
  | .hostReadReturn core => Sys2Proof.Machine.execHostReadReturn core s
  | .mailboxResult core slot element => Sys2Proof.Machine.execMailboxResult core slot element s
  | .unresolvedPageFault region => Sys2Proof.Machine.execUnresolvedPageFault region s
  | .resetdone region image => Sys2Proof.Machine.execResetdone region image s

end Sys2Proof.Machine
end

