-- ==== Sys2Proof/Machine/Turn.lean ====
section
/-! DEFINITION. A granted turn: the word the current thread issues, with what may take its place (a deferred trap, the end of a guess
routine, a fetch, a breakpoint), and a gang leader's delivery (03, R51, R68 to R74; 10, R248; 15, R318; 19, R384; 23, R445). -/

namespace Sys2Proof.Machine

/-- The leader's delivery of a word (R248): each follower gets the word, with the leader's PC and repeat frame. -/
def State.deliverWord (s : State) (w : BitVec 32) : State :=
  if s.th.en.gangN = 0 ∨ s.th.en.leader ≠ s.cur ∨ s.th.is.sent then s
  else
    let t := s.th
    let s := (gangMembers s.cur t.en.gangN).foldl (fun s m =>
      if m = s.cur then s
      else s.updT m (fun x => { x with r.pc := t.r.pc, r.rep := t.r.rep, is.frame := t.is.frame, is.delivered := some w })) s
    { s with th.is.sent := true }

/-- The turn is over: the thread issues nothing in it. -/
def State.endTurn (s : State) : State := { s with issuing := false }

/-- A word issued: breakpoints are tested, the word is renamed and decoded, the scoreboard and the unit queues are asked, and the turn is taken;
a marked word must be one that may be relaxed (R56, R70, R77, R78, R145, R445). A word that may not issue yet leaves the turn to others. -/
def State.issueWord (s : State) (w : BitVec 32) : Host.Outcome State Fault Refusal :=
  if s.bpTested && s.bpHit.isSome then exec .breakpointMatch s.endTurn
  else
    let word := renameWord s.th.r.rep w
    let turn := (s.takeTurn s.cur).endTurn
    match decode word with
    | .error _ => execIllegalWord w turn
    | .ok i =>
      if s.th.is.rlx && !(markable word && rlxOk i) then execIllegalWord w turn
      else if !s.nextOk s.cur i then .next s.endTurn
      else exec i { turn.deliverWord w with word := w }

/-- Whether the slot runs a guess routine that fetches the body's first word (R318). -/
def State.guessDone (s : State) : Bool :=
  s.th.isGuess && decide (s.th.r.pc = (s.getT s.th.sp.owner).sp.bodyPc) && s.th.sp.owner ≠ s.cur

/-- A fetch, unless a failed one ends the capture of a frame (R69). -/
def State.fetchNext (s : State) : Host.Outcome State Fault Refusal :=
  if s.th.r.rep.act && s.th.r.rep.pass = 0 && s.th.is.frame.length ≥ s.th.r.rep.needed && !s.fetchable then .next s.endCapture
  else exec .codeFetch s.endTurn

/-- The word at the PC of the current thread's buffer, or of its frame store in the later passes of a frame. -/
def State.issueBuffered (s : State) : Host.Outcome State Fault Refusal :=
  let r := s.th.r.rep
  if r.act ∧ r.pass ≠ 0 then s.issueWord ((s.th.is.frame.drop r.idx).headD 0)
  else match s.th.buffered with
    | none => .next s
    | some w =>
      match s.frameStep w with
      | .again s => .next s
      | .word w s => s.issueWord w

/-- Whether the thread must fetch: its buffer lacks the word at its PC, or its frame store the words of its frame. -/
def Thread.mustFetch (t : Thread) : Bool :=
  decide (t.is.frame.length < t.r.rep.needed) || (!(t.r.rep.act && t.r.rep.pass ≠ 0) && t.buffered.isNone)

/-- An instruction that has waited is executed again, outside a turn (R289). -/
def State.goOnWord (s : State) : Host.Outcome State Fault Refusal :=
  match decode (renameWord s.th.r.rep s.th.w.acc.word) with
  | .error _ => .next s.endTurn
  | .ok i => exec i { s.endTurn with word := s.th.w.acc.word }

/-- The granted turn of the current thread: a fetch that succeeds is followed by the issue in the same turn. -/
def State.issueNext (s : State) : Host.Outcome State Fault Refusal :=
  if s.th.w.acc.redo then s.goOnWord
  else if s.th.st ≠ .ready then .next s.endTurn
  else if s.th.is.deferred ≠ [] then exec .deferredTrap s
  else match s.th.is.delivered with
    | some w => s.issueWord w
    | none =>
      if s.guessDone then execGuessEnd s.cur s
      else if s.th.mustFetch then
        match s.fetchNext with
        | .next t => if t.issuing && !t.th.mustFetch then t.issueBuffered else .next t
        | o => o
      else s.issueBuffered

end Sys2Proof.Machine
end

