-- ==== Sys2Proof/WellFormed.lean ====
section
/-! DEFINITION. Well-formedness. The fields of an instruction word are bit fields, so every term of an instruction but one is well formed; an
operand value that the spec forbids is found at issue (R56). An event is well formed when the units it names exist (R1, R8, R10, R22). -/

namespace Sys2Proof

/-- Whether a register block of a number exists (22, Table 22-1). -/
def blockOk (c : Bool) (block : RegBlock) (index : Nat) : Bool :=
  match block with
  | .region => index < Config.regions c
  | .cluster => index < Config.clusters c
  | .debug => index < Config.cores c
  | .pf => true
  | .route => true
  | .vf => index < Config.vfs c
  | .vfTable => index < Config.vfs c
  | .queue => index < Config.queues
  | .vfQueue => index < Config.vfs c * Config.queues
  | .msix => index < Config.vfs c || index = 32

/-- For an event, whether the units it names exist on a part (`c` for a KJ-PX9C); none for an instruction word. -/
def Instr.unitsOk (c : Bool) : Instr → Option Bool
  | .codeFetch => some true
  | .deferredTrap => some true
  | .breakpointMatch => some true
  | .faultPacketSend coreNo => some (decide (coreNo < Config.cores c))
  | .lsAccessPerform coreNo => some (decide (coreNo < Config.cores c))
  | .requestPlace coreNo => some (decide (coreNo < Config.cores c))
  | .wheelMeeting coreNo => some (decide (coreNo < Config.cores c))
  | .farMeeting coreNo => some (decide (coreNo < Config.cores c))
  | .wheelSwap regionNo => some (decide (regionNo < Config.regions c))
  | .bankretComplete threadNo => some (decide (threadNo < 16 * Config.cores c))
  | .wwaitWake threadNo => some (decide (threadNo < 16 * Config.cores c))
  | .translationWalkEnd regionNo _ _ => some (decide (regionNo < Config.regions c))
  | .vectorCommandStart coreNo => some (decide (coreNo < Config.cores c))
  | .sfRequestStart coreNo => some (decide (coreNo < Config.cores c))
  | .matrixCommandStart coreNo => some (decide (coreNo < Config.cores c))
  | .gangForm leaderNo => some (decide (leaderNo < 16 * Config.cores c))
  | .halyardLand _ => some true
  | .messageArrival _ => some true
  | .messageRetry coreNo => some (decide (coreNo < Config.cores c))
  | .ackArrival _ => some true
  | .replyArrival _ => some true
  | .handlerStart coreNo => some (decide (coreNo < Config.cores c))
  | .userHandlerStart coreNo => some (decide (coreNo < Config.cores c))
  | .engineCommandTake coreNo portNo => some (decide (coreNo < Config.cores c) && decide (portNo < 4))
  | .chunkStart unit _ => some (decide (unit % 2 ^ 16 < 168))
  | .chunkComplete unit _ => some (decide (unit % 2 ^ 16 < 168))
  | .commandEnd engineNo _ => some (decide (engineNo < 168))
  | .gatherIndex regionNo _ => some (decide (regionNo < Config.regions c))
  | .appendPerform unit _ => some (decide (unit % 2 ^ 16 < Config.regions c))
  | .a2aArrival _ => some true
  | .mailboxCommand coreNo => some (decide (coreNo < Config.cores c))
  | .guessEnd threadNo => some (decide (threadNo < 16 * Config.cores c))
  | .windowStart ownerNo => some (decide (ownerNo < 16 * Config.cores c))
  | .specCommit ownerNo => some (decide (ownerNo < 16 * Config.cores c))
  | .replayStall regionNo => some (decide (regionNo < Config.regions c))
  | .logmodeWrite regionNo _ => some (decide (regionNo < Config.regions c))
  | .logptrTailWrite regionNo _ => some (decide (regionNo < Config.regions c))
  | .queueNotify qNo _ => some (decide (qNo < Config.queues))
  | .recordFetch qNo => some (decide (qNo < Config.queues))
  | .recordRefetch qNo => some (decide (qNo < Config.queues))
  | .submissionCheck vfNo launchNo => some (decide (vfNo < Config.vfs c) && decide (launchNo < 2 ^ 24))
  | .qctlWrite qNo _ _ => some (decide (qNo < Config.queues))
  | .qerrClear qNo _ => some (decide (qNo < Config.queues))
  | .windowAllot coreNo vfNo launchNo => some (decide (coreNo < Config.cores c) && decide (vfNo < Config.vfs c) && decide (launchNo < 2 ^ 24))
  | .taskDispatch threadNo vfNo launchNo _ => some (decide (threadNo < 16 * Config.cores c) && decide (vfNo < Config.vfs c) && decide (launchNo < 2 ^ 24))
  | .launchComplete vfNo launchNo => some (decide (vfNo < Config.vfs c) && decide (launchNo < 2 ^ 24))
  | .priorityAge vfNo launchNo => some (decide (vfNo < Config.vfs c) && decide (launchNo < 2 ^ 24))
  | .preempt vfNo launchNo => some (decide (vfNo < Config.vfs c) && decide (launchNo < 2 ^ 24))
  | .evictionTest regionNo => some (decide (regionNo < Config.regions c))
  | .contextSave threadNo => some (decide (threadNo < 16 * Config.cores c))
  | .contextResume threadNo _ => some (decide (threadNo < 16 * Config.cores c))
  | .loadTableRefresh clusterNo => some (decide (clusterNo < Config.clusters c))
  | .migrationInterval coreNo => some (decide (coreNo < Config.cores c))
  | .migrationArrive _ => some true
  | .tcinvGo regionNo _ => some (decide (regionNo < Config.regions c))
  | .ptrootWrite regionNo _ => some (decide (regionNo < Config.regions c))
  | .regionReset regionNo _ _ => some (decide (regionNo < Config.regions c))
  | .railFault regionNo => some (decide (regionNo < Config.regions c))
  | .clockFault regionNo => some (decide (regionNo < Config.regions c))
  | .hbmStackFault stackNo => some (decide (stackNo < Config.hbmStacks c))
  | .collectiveEngineFault dieNo => some (decide (dieNo < Config.dies c))
  | .packageReset _ => some true
  | .windowWrite regionNo nNo wordNo _ => some (decide (regionNo < Config.regions c) && decide (nNo < 4) && decide (wordNo < 2))
  | .rgintClear regionNo _ => some (decide (regionNo < Config.regions c))
  | .cutStart regionNo _ => some (decide (regionNo < Config.regions c))
  | .cutResum vfNo => some (decide (vfNo < Config.vfs c))
  | .cutResend regionNo => some (decide (regionNo < Config.regions c))
  | .clockRequest regionNo _ => some (decide (regionNo < Config.regions c))
  | .clockStepBegin regionNo => some (decide (regionNo < Config.regions c))
  | .clockStepEnd regionNo => some (decide (regionNo < Config.regions c))
  | .linkEnable portNo _ => some (decide (portNo < Config.ports false))
  | .linkUp portNo _ => some (decide (portNo < Config.ports c))
  | .laneFault portNo => some (decide (portNo < Config.ports c))
  | .breakpointWrite nNo wordNo _ => some (decide (nNo < 16) && decide (wordNo < 2))
  | .profctlWrite coreNo _ => some (decide (coreNo < Config.cores c))
  | .triggerPulse dieNo lineNo => some (decide (dieNo < Config.dies c) && decide (lineNo < 64))
  | .trigin pinNo => some (decide (pinNo < 4))
  | .getVersion fnNo => some (decide (fnNo < Config.vfs c) || decide (fnNo = 32))
  | .getCapabilities fnNo => some (decide (fnNo < Config.vfs c) || decide (fnNo = 32))
  | .negotiateAlgorithms fnNo => some (decide (fnNo < Config.vfs c) || decide (fnNo = 32))
  | .getDigests fnNo => some (decide (fnNo < Config.vfs c) || decide (fnNo = 32))
  | .getCertificate fnNo => some (decide (fnNo < Config.vfs c) || decide (fnNo = 32))
  | .challenge fnNo => some (decide (fnNo < Config.vfs c) || decide (fnNo = 32))
  | .getMeasurements fnNo _ => some (decide (fnNo < Config.vfs c) || decide (fnNo = 32))
  | .registerWrite block index _ _ => some (blockOk c block index)
  | .illegalWord _ => some true
  | .issueTurn coreNo => some (decide (coreNo < Config.cores c))
  | .memoryControllerAccess unit => some (decide (unit % 2 ^ 16 < Config.cores c))
  | .hostReadReturn coreNo => some (decide (coreNo < Config.cores c))
  | .mailboxResult coreNo slotNo _ => some (decide (coreNo < Config.cores c) && decide (slotNo < 16))
  | .unresolvedPageFault regionNo => some (decide (regionNo < Config.regions c))
  | .resetdone regionNo _ => some (decide (regionNo < Config.regions c))
  | _ => none

/-- Whether a term is an event, not an instruction word. -/
def Instr.isEvent (i : Instr) : Bool := (i.unitsOk false).isSome

/-- Well-formed terms: every instruction word, and every event whose units exist on a KJ-PX9A. -/
def Instr.wf (i : Instr) : Bool := (i.unitsOk false).getD true

/-- An event that may take place on a part. -/
def Instr.canHappen (c : Bool) (i : Instr) : Bool := (i.unitsOk c).getD false

/-- Whether a term is well formed on a part: an event's units exist, and the word of an instruction is its own. FENCE with kind 3 in the first
scope is FENCE.NET's word (R295). -/
def Instr.wellFormed (c : Bool) (i : Instr) : Bool := (i.unitsOk c).getD true && decide (i ≠ .fence 0 3)

end Sys2Proof
end

