-- ==== Sys2Proof/Machine/Step.lean ====
section
/-! DEFINITION. One step of the package: a granted turn first, then the events that come from outside, then an event that is due, then the
next issue turn. -/

namespace Sys2Proof.Machine

/-- One step. An event that names a unit which the part does not have is discarded (R5, R427). -/
def step (s : State) : Host.Outcome State Fault Refusal :=
  if s.issuing then s.issueNext
  else match s.inputs with
    | e :: l => if e.canHappen s.pkg.partC then exec e { s with inputs := l } else .next { s with inputs := l }
    | [] =>
      match s.agenda with
      | some s' => .next s'
      | none => execIssueTurn s.focus s

/-- The state with a code image of one word in host memory, the current slot READY at its start as a privileged task of its launch, and
its turn granted. -/
def State.withFetchWord (s : State) (nbits w : Nat) : State :=
  let n := taskKey s.th.id.task
  let l := s.launch n
  let l := { l with phase := 2, priv := true, kernel := { l.kernel with code := 0, host := true, words := 1, patches := [] } }
  let t := s.th
  let t := { t with
    st := .ready
    r := { t.r with pc := 0, rep := {} }
    id := { t.id with priv := true }
    is := { t.is with rlx := false, ibuf := [], frame := [], deferred := [], delivered := none, sent := false, woken := true }
    w := t.w.over
    sp := { t.sp with role := .none }
    en := { t.en with gangN := 0 } }
  ({ s with inputs := [], issuing := true, th := t }.setLaunch n l).setBytes (hostKey 0) (bytesOfWord (BitVec.ofNat 32 (w % 2 ^ nbits)))

end Sys2Proof.Machine
end

