-- ==== Sys2Proof/Safety.lean ====
section
/-! DEFINITION. The terms of the claims: a safe run and a sound state, and what it means that an instruction retires with one effect and
no other. -/

namespace Sys2Proof.Machine

/-! Runs and states. -/

/-- A step goes on: it neither faults nor refuses. -/
def State.GoesOn (s : State) : Prop := ∃ t, step s = .next t

/-- The memories hold what they read as in the one canonical form (keys rising, no default listed). -/
def State.memOk (s : State) : Prop := Memory.wf s.mem = true ∧ SMap.wf false s.full = true ∧ SMap.wf false s.poison = true ∧
  SMap.wf 0 s.upsets = true

/-- A state that the claims call sound. -/
def State.Inv (s : State) : Prop := s.memOk

/-! Effects. In each of these `s` is the state before and `t` the state after. The relations fix all of `t`: what they do not name is as
it was, in every field of the machine. -/

/-- `t` is `s` after the current thread has retired an instruction, with `r` as the thread's registers: memory, the other threads and the
rest of the package are unchanged. -/
def State.Retired (s t : State) (r : Regs) : Prop :=
  t = { s with th := { s.th with r := r, is := s.th.is.done, w := s.th.w.over } }

/-- The instruction retires having written scalar register `d` with `v`, and nothing else; s0 stays 0. -/
def State.WroteS (s t : State) (d : BitVec 5) (v : Word) : Prop :=
  s.Retired t { s.th.r.next with s := t.th.r.s } ∧ ∀ n, t.rdS n = if n = d ∧ n ≠ 0 then v else s.rdS n

/-- `i` completes at `s`, and all it does is to write `v` to scalar register `d`. -/
def GivesS (i : Instr) (s : State) (d : BitVec 5) (v : Word) : Prop := ∃ t, exec i s = .next t ∧ s.WroteS t d v

/-- The same with FPFLAGS and the generator state, which become `fp` and `seed`. -/
def GivesSF (i : Instr) (s : State) (d : BitVec 5) (v : Word) (fp : BitVec 4) (seed : Word) : Prop :=
  ∃ t, exec i s = .next t ∧ s.Retired t { s.th.r.next with s := t.th.r.s, fp := fp, seed := seed } ∧
    ∀ n, t.rdS n = if n = d ∧ n ≠ 0 then v else s.rdS n

/-- `t` is `s` after the current thread has taken a branch to `pc`: its instruction buffer is empty, its registers are `r` but for the PC. -/
def State.Jumped (s t : State) (r : Regs) (pc : Word) : Prop :=
  t = { s with th := { s.th with r := { r with pc := pc }, is := { s.th.is.done with ibuf := [] }, w := s.th.w.over } }

/-- The packet a trap of the current thread sends (19, Table 19-2), for a thread in no speculation group. -/
def State.packetOf (s : State) (code : BitVec 8) (addr info pc : Word) : Packet :=
  { task := s.th.id.task, addr := addr, pc := pc.setWidth 32, core := s.coreNo, slot := s.slotNo, frame := s.th.r.rep.act, code := code,
    info := info }

/-- Nothing takes part in a trap of the current thread but its slot and its region's mailbox: no group, no gang, no save, no trigger line,
and the mailbox takes the packet. -/
def State.TrapsAlone (s : State) : Prop :=
  s.th.st ≠ .saving ∧ s.th.sp.role = .none ∧ s.th.en.gangN = 0 ∧ s.pkg.trigsel = [] ∧ (s.region s.regionNo).mailbox.length < 256 ∧
  (s.core s.coreNo).held = []

/-- `t` is `s` with the current slot FROZEN at `at0` by a trap, whose packet reports `pc`: no register but the PC changes, LASTCODE of the slot
is the code, and memory and the other threads are as before (R385). -/
def State.Froze (s t : State) (code : BitVec 8) (addr info pc at0 : Word) : Prop :=
  let g := s.region s.regionNo
  t = { s with
    regions := SMap.set {} s.regions s.regionNo { g with mailbox := g.mailbox ++ [s.packetOf code addr info pc] }
    cores := (s.setLastCode s.cur code).cores
    th := { s.th with
      st := .frozen
      r := { s.th.r with pc := at0 }
      is := t.th.is
      w := s.th.w.over } } ∧
  t.lastCode s.cur = code ∧ t.th.is.stepping = false ∧ t.th.is.rlx = false

/-- `i` traps at `s` with nothing done: the slot freezes with its PC at the instruction, or at its RLX word (R58, R385). -/
def Traps (i : Instr) (s : State) (code : BitVec 8) (addr info : Word) : Prop :=
  ∃ t, exec i s = .next t ∧ s.Froze t code addr info s.th.reportPc s.th.reportPc

/-- `t` is `s` with the current slot PARKED on a cause, its registers as they were: the instruction goes on later. -/
def State.Parked (s t : State) (p : Park) : Prop :=
  t = { s with th := { s.th with st := .parked, w := { s.th.w with park := p, since := t.th.w.since, acc := t.th.w.acc } } }

/-- `t` is `s` after the current thread has retired an instruction that may have written memory and full/empty bits; the claims say which. -/
def State.RetiredMem (s t : State) (r : Regs) : Prop :=
  t = { s with mem := t.mem, full := t.full, th := { s.th with r := r, is := s.th.is.done, w := s.th.w.over } }

/-- Every byte of memory reads in `t` as in `s`, but for the bytes stored at `key`. -/
def State.BytesAt (s t : State) (key : Nat) (b : List Byte) : Prop :=
  ∀ k, t.byte k = if key ≤ k ∧ k < key + b.length then b.getD (k - key) 0 else s.byte k

/-- Every full/empty bit reads in `t` as in `s`, but for that of the word at `key`. -/
def State.FullAt (s t : State) (key : Nat) (f : Bool) : Prop :=
  ∀ k, t.isFull k = if k / 8 = key / 8 then f else s.isFull k

/-- `t` is `s` but for region `r`, which holds `g`. -/
def State.OnlyRegion (s t : State) (r : Nat) (g : Region) : Prop :=
  t = { s with regions := t.regions } ∧ ∀ q, t.region q = if q = r then g else s.region q

/-! Memory accesses. -/

/-- An access of `n` bytes through the pointer `p` with displacement `d` passes the checks of R106 and, where its space is paged,
translates (R118 to R121): its bytes lie at `key`, and `s'` is the machine after the translation. -/
def State.Reaches (s : State) (p : Word) (d : Int) (n align rights : Nat) (space : Nat → Bool) (write : Bool) (key : Nat) (s' : State) : Prop :=
  ∃ l, (check p d n align rights space).run s = (.ok l, s) ∧ (placeOf l n rights write).run s = (.ok [(key, n)], s')

/-- Nothing stands between an access of the current thread and its memory: it is in no speculation group and in no save, its instruction is
not marked relaxed and has no access under way, nothing of its core or its own is queued, no word is poisoned or holds an error that no read
has met, and no region logs or replays. -/
def State.Calm (s : State) : Prop :=
  s.th.st ≠ .saving ∧ s.th.sp.role = .none ∧ s.th.is.rlx = false ∧ s.th.w.acc.jrn = [] ∧ s.th.w.acc.pos = 0 ∧ s.th.w.acc.redo = false ∧
  (s.core s.coreNo).seq = [] ∧ s.relReqs s.cur = [] ∧ s.poison = [] ∧ s.upsets = [] ∧ ∀ r, (s.log r).mode = 0

/-- The current thread's instruction goes on after its strong accesses have been performed: they gave `l`, in order (R289). -/
def State.WentOn (s : State) (l : List Got) : Prop :=
  s.th.sp.role = .none ∧ s.th.w.acc.pos = 0 ∧ s.th.w.acc.jrn = l ∧ ∀ g ∈ l, g.poison = false

/-- `i` parks at `s` on a strong access that waits for its requests (R289): its requests, with the actions `ops`, are all that the thread has queued,
registers and memory are as the translation, which leaves `s'`, left them, and nothing else but the core's queues changes. -/
def Awaits (i : Instr) (s s' : State) (ops : List Micro) : Prop :=
  ∃ t x, exec i s = .next t ∧ s'.Parked { t with cores := s'.cores } .access ∧ t.cores = (s'.setCore s.coreNo x).cores ∧
    x = { s'.core s.coreNo with seq := x.seq, wheel := x.wheel, far := x.far, mem := x.mem, reqNo := x.reqNo } ∧
    (t.relReqs s.cur).map (fun q => q.op) = ops ∧ ∀ q ∈ t.relReqs s.cur, q.strong = true ∧ q.no = t.th.w.acc.no

/-- The same for an access that is one action. -/
def Queues (i : Instr) (s s' : State) (op : Micro) : Prop := Awaits i s s' [op]

/-- No thread waits on a full/empty word or a sync word. -/
def State.NoWaiters (s : State) : Prop :=
  ∀ k ∈ s.threadKeys, (s.getT k).st = .parked → (∀ f key v d l, (s.getT k).w.park ≠ .fullEmpty f key v d l) ∧
    ∀ key g d l p, (s.getT k).w.park ≠ .waitgen key g d l p

/-- `i` completes at `s` after the translation that leaves `s'`: scalar register `d` receives `v`, flags are ORed, the bytes at `key`
become those of `b`, and nothing else changes. -/
def GivesMem (i : Instr) (s s' : State) (d : BitVec 5) (v : Word) (flags : BitVec 4) (key : Nat) (b : List Byte) : Prop :=
  ∃ t, exec i s = .next t ∧ s'.RetiredMem t { s'.th.r.next with s := t.th.r.s, fp := s'.th.r.fp ||| flags } ∧ t.full = s'.full ∧
    (∀ n, t.rdS n = if n = d ∧ n ≠ 0 then v else s'.rdS n) ∧ s'.BytesAt t key b

/-! Vector results. In each of these `s0` is the state with the command's place in its queue taken (R194), `s` itself where none is. -/

/-- `i` completes at `s`: vector register `d` receives `v`, flags are ORed into FPFLAGS, and nothing else changes. -/
def GivesV (i : Instr) (s s0 : State) (d : BitVec 5) (v : VReg) (fl : Flags) : Prop :=
  ∃ t, exec i s = .next t ∧ s0.Retired t { s.th.r.next with v := t.th.r.v, fp := s.th.r.fp ||| fl } ∧
    ∀ n, t.rdV n = if n = d then v else s.rdV n

/-- The same with a pair of registers, `d` and the one after it. -/
def GivesVV (i : Instr) (s s0 : State) (d : BitVec 5) (v w : VReg) (fl : Flags) : Prop :=
  ∃ t, exec i s = .next t ∧ s0.Retired t { s.th.r.next with v := t.th.r.v, fp := s.th.r.fp ||| fl } ∧
    ∀ n, t.rdV n = if n = d then v else if n = d + 1 then w else s.rdV n

/-- `i` completes at `s`: mask register `d` receives `v`, k0 stays all ones, and nothing else changes. -/
def GivesK (i : Instr) (s s0 : State) (d : BitVec 3) (v : Word32) : Prop :=
  ∃ t, exec i s = .next t ∧ s0.Retired t { s.th.r.next with k := t.th.r.k } ∧ ∀ n, t.rdK n = if n = d ∧ n ≠ 0 then v else s.rdK n

/-- `v` and `fl` are the element-wise result of `f` on elements of `w` bits under the mask `m` (R191): an active element is computed, an
inactive one keeps its old value, and the flags are those of the active elements. -/
def Lanewise (w : Nat) (m : Word32) (old : VReg) (f : Nat → Nat × Flags) (v : VReg) (fl : Flags) : Prop :=
  (∀ e < 1024 / w, elemOf v w e = if m.getLsbD (w * e / 32) then (f e).1 % 2 ^ w else elemOf old w e) ∧
  ∀ b < 4, (fl.getLsbD b = true ↔ ∃ e < 1024 / w, m.getLsbD (w * e / 32) = true ∧ (f e).2.getLsbD b = true)

/-- `i` completes at `s` with an element-wise result in vd. -/
def GivesLanes (i : Instr) (s s0 : State) (d : BitVec 5) (w : Nat) (k : BitVec 3) (f : Nat → Nat × Flags) : Prop :=
  ∃ v fl, GivesV i s s0 d v fl ∧ Lanewise w (s.rdK k) (s.rdV d) f v fl

end Sys2Proof.Machine
end

