-- ==== Sys2Proof/Certificates/Slice0/Obligations.lean ====
section
/-! DEFINITION. The statements for the provers. -/

open Sys2Proof Sys2Proof.Machine

/-! Integer instructions (04). -/

/-- R88 (Table 04-6) and ADDI of R90: sums, differences and products. Nothing but sd and the PC changes. -/
def Sys2Proof.Claim.SumsAndProducts : Prop :=
  ∀ (s : State) (d a b : BitVec 5) (i : BitVec 16),
    GivesS (.add d a b) s d (BitVec.ofNat 64 ((s.rdS a).toNat + (s.rdS b).toNat)) ∧
    GivesS (.sub d a b) s d (BitVec.ofInt 64 ((s.rdS a).toNat - (s.rdS b).toNat)) ∧
    GivesS (.addi d a i) s d (BitVec.ofInt 64 ((s.rdS a).toNat + i.toInt)) ∧
    GivesS (.mul d a b) s d (BitVec.ofNat 64 ((s.rdS a).toNat * (s.rdS b).toNat)) ∧
    GivesS (.mulh d a b) s d (BitVec.ofInt 64 ((s.rdS a).toInt * (s.rdS b).toInt / 2 ^ 64)) ∧
    GivesS (.mulhu d a b) s d (BitVec.ofNat 64 ((s.rdS a).toNat * (s.rdS b).toNat / 2 ^ 64))

/-- R89 (Table 04-7): every case of division. None traps: each form completes on all operands. -/
def Obligations.DivisionNeverTraps : Prop :=
  ∀ (s : State) (d a b : BitVec 5), let x := s.rdS a; let y := s.rdS b
    ∃ q qu r ru : Word, GivesS (.div d a b) s d q ∧ GivesS (.divu d a b) s d qu ∧ GivesS (.rem d a b) s d r ∧ GivesS (.remu d a b) s d ru ∧
      (y = 0 → q = 0xFFFFFFFFFFFFFFFF#64 ∧ qu = 0xFFFFFFFFFFFFFFFF#64 ∧ r = x ∧ ru = x) ∧
      (x.toInt = -2 ^ 63 → y.toInt = -1 → q.toInt = -2 ^ 63 ∧ r = 0) ∧
      (y ≠ 0 → (x.toInt ≠ -2 ^ 63 ∨ y.toInt ≠ -1) →
        q.toInt = x.toInt.tdiv y.toInt ∧ r.toInt = x.toInt - q.toInt * y.toInt) ∧
      (y ≠ 0 → qu.toNat = x.toNat / y.toNat ∧ ru.toNat = x.toNat - qu.toNat * y.toNat)

/-- R88 and R90: logic and shifts, bit by bit. Register amounts count mod 64; ANDI extends the sign, ORI and XORI extend with zeros. -/
def Sys2Proof.Claim.LogicAndShifts : Prop :=
  ∀ (s : State) (d a b : BitVec 5) (i : BitVec 16) (n : BitVec 6), let x := s.rdS a; let y := s.rdS b; let m := y.toNat % 64
    (∃ v, GivesS (.and d a b) s d v ∧ ∀ k < 64, v.getLsbD k = (x.getLsbD k && y.getLsbD k)) ∧
    (∃ v, GivesS (.or d a b) s d v ∧ ∀ k < 64, v.getLsbD k = (x.getLsbD k || y.getLsbD k)) ∧
    (∃ v, GivesS (.xor d a b) s d v ∧ ∀ k < 64, v.getLsbD k = (x.getLsbD k != y.getLsbD k)) ∧
    (∃ v, GivesS (.andi d a i) s d v ∧ ∀ k < 64, v.getLsbD k = (x.getLsbD k && i.getLsbD (min k 15))) ∧
    (∃ v, GivesS (.ori d a i) s d v ∧ ∀ k < 64, v.getLsbD k = (x.getLsbD k || i.getLsbD k)) ∧
    (∃ v, GivesS (.xori d a i) s d v ∧ ∀ k < 64, v.getLsbD k = (x.getLsbD k != i.getLsbD k)) ∧
    (∃ v, GivesS (.shl d a b) s d v ∧ ∀ k < 64, v.getLsbD k = (decide (m ≤ k) && x.getLsbD (k - m))) ∧
    (∃ v, GivesS (.shr d a b) s d v ∧ ∀ k < 64, v.getLsbD k = x.getLsbD (k + m)) ∧
    (∃ v, GivesS (.sar d a b) s d v ∧ ∀ k < 64, v.getLsbD k = x.getLsbD (min (k + m) 63)) ∧
    (∃ v, GivesS (.rol d a b) s d v ∧ ∀ k < 64, v.getLsbD k = x.getLsbD ((k + 64 - m) % 64)) ∧
    (∃ v, GivesS (.shli d a n) s d v ∧ ∀ k < 64, v.getLsbD k = (decide (n.toNat ≤ k) && x.getLsbD (k - n.toNat))) ∧
    (∃ v, GivesS (.shri d a n) s d v ∧ ∀ k < 64, v.getLsbD k = x.getLsbD (k + n.toNat)) ∧
    (∃ v, GivesS (.sari d a n) s d v ∧ ∀ k < 64, v.getLsbD k = x.getLsbD (min (k + n.toNat) 63))

/-- R88 and R92: minimum, maximum, counts of bits, byte reversal, comparison and selection. -/
def Sys2Proof.Claim.ComparesAndCounts : Prop :=
  ∀ (s : State) (d a b c : BitVec 5), let x := s.rdS a; let y := s.rdS b
    (∃ v, GivesS (.min d a b) s d v ∧ v.toInt = min x.toInt y.toInt) ∧
    (∃ v, GivesS (.max d a b) s d v ∧ v.toInt = max x.toInt y.toInt) ∧
    (∃ v, GivesS (.minu d a b) s d v ∧ v.toNat = min x.toNat y.toNat) ∧
    (∃ v, GivesS (.maxu d a b) s d v ∧ v.toNat = max x.toNat y.toNat) ∧
    (∃ v, GivesS (.clz d a) s d v ∧ v.toNat ≤ 64 ∧ (∀ k < v.toNat, x.getLsbD (63 - k) = false) ∧
      (v.toNat < 64 → x.getLsbD (63 - v.toNat) = true)) ∧
    (∃ v, GivesS (.ctz d a) s d v ∧ v.toNat ≤ 64 ∧ (∀ k < v.toNat, x.getLsbD k = false) ∧ (v.toNat < 64 → x.getLsbD v.toNat = true)) ∧
    (∃ v, GivesS (.popc d a) s d v ∧ v.toNat = ((List.range 64).filter (fun k => x.getLsbD k)).length) ∧
    (∃ v, GivesS (.bswap d a) s d v ∧ ∀ k < 64, v.getLsbD k = x.getLsbD (8 * (7 - k / 8) + k % 8)) ∧
    GivesS (.cmpeq d a b) s d (if x = y then 1 else 0) ∧
    GivesS (.cmplt d a b) s d (if x.toInt < y.toInt then 1 else 0) ∧
    GivesS (.cmpltu d a b) s d (if x.toNat < y.toNat then 1 else 0) ∧
    GivesS (.sel d a b c) s d (if s.rdS c ≠ 0 then x else y)

/-- R91: BEXT and BINS at every width 0 to 127 and every offset 0 to 255, with w = min(width, 64 - offset), and their words in X format; neither traps. -/
def Obligations.BitFields : Prop :=
  ∀ (s : State) (d a : BitVec 5) (width : BitVec 7) (offset : BitVec 8), let x := s.rdS a; let o := offset.toNat
    let w := min width.toNat (64 - o)
    (∃ v, GivesS (.bext d a width offset) s d v ∧
      if width = 0 ∨ 64 ≤ o then v = 0 else ∀ k < 64, v.getLsbD k = (decide (k < w) && x.getLsbD (o + k))) ∧
    (∃ v, GivesS (.bins d a width offset) s d v ∧
      if width = 0 ∨ 64 ≤ o then v = s.rdS d
      else ∀ k < 64, v.getLsbD k = if o ≤ k ∧ k < o + w then x.getLsbD (k - o) else (s.rdS d).getLsbD k) ∧
    decode (0x09#6 ++ d ++ a ++ 0#1 ++ width ++ offset) = .ok (.bext d a width offset) ∧
    decode (0x09#6 ++ d ++ a ++ 1#1 ++ width ++ offset) = .ok (.bins d a width offset)

/-- R90: LIMM extends the sign of its 21 bits; LIMMH replaces the 16-bit lane q of sd and keeps the other lanes. -/
def Sys2Proof.Claim.LongImmediates : Prop :=
  ∀ (s : State) (d : BitVec 5) (i : BitVec 21) (q : BitVec 2) (j : BitVec 16),
    (∃ v, GivesS (.limm d i) s d v ∧ v.toInt = i.toInt) ∧
    (∃ v, GivesS (.limmh d q j) s d v ∧
      ∀ k < 64, v.getLsbD k = if k / 16 = q.toNat then j.getLsbD (k % 16) else (s.rdS d).getLsbD k)

/-- R88, R90, R92: the integer forms: sums and products, logic and shifts, comparisons and counts, long immediates. -/
def Obligations.IntegerForms : Prop := Claim.SumsAndProducts ∧ Claim.LogicAndShifts ∧ Claim.ComparesAndCounts ∧ Claim.LongImmediates

/-! Scalar FP32 (04). -/

/-- R98, R99: the FP32 forms on the low halves of their sources, rounded under the mode R37 gives, the high half of an FP32 result zero, and
flags ORed in. A conversion that rounds under SR takes one generator step. A reserved rounding field traps ILLEGAL. -/
def Obligations.ScalarFloat : Prop :=
  ∀ (s : State) (d a b c k : BitVec 5) (r : BitVec 3), let f := fun (n : BitVec 5) => (s.rdS n).setWidth 32
    let fp := s.th.r.fp
    let seed := s.th.r.seed
    let mode := if r = 7 then s.th.r.rmode else r
    let rm : RM := if mode = 1 then .rtz else if mode = 2 then .rdn else if mode = 3 then .rup else .rne
    let gives := fun (i : Instr) (v : Word32 × Flags) => GivesSF i s d (0#32 ++ v.1) (fp ||| v.2) seed
    (r ≠ 4 → r ≠ 5 → r ≠ 6 →
      gives (.fadd d a b r) (f32Add rm (f a) (f b)) ∧ gives (.fmul d a b r) (f32Mul rm (f a) (f b)) ∧
      gives (.ffma d a b c r) (f32Fma rm (f a) (f b) (f c))) ∧
    (r ≠ 5 → r ≠ 6 → k.toNat % 16 < 12 → (16 ≤ k.toNat → k.toNat % 16 ∈ [4, 6, 8, 10]) → (b ≠ 0 → k.toNat % 16 ∈ [8, 9]) →
      (k.toNat % 16 ∈ [8, 9] → b.toNat % 8 ≠ 0) →
      ∃ g x, fcvtFormat (k.toNat % 16) b = .flt g ∧
        x = fcvtResult (k.toNat % 16) (decide (16 ≤ k.toNat)) g mode.toNat seed (s.rdS a) ∧
        GivesSF (.fcvt d a b k r) s d x.1.1 (fp ||| x.1.2)
          (if mode = 4 ∧ k.toNat % 16 ∉ [5, 7, 9, 11] then srStep seed else seed)) ∧
    (s.TrapsAlone → r = 5 ∨ r = 6 →
      Traps (.fadd d a b r) s tIllegal (s.word.setWidth 64) 0 ∧ Traps (.fmul d a b r) s tIllegal (s.word.setWidth 64) 0 ∧
      Traps (.ffma d a b c r) s tIllegal (s.word.setWidth 64) 0 ∧ Traps (.fcvt d a b k r) s tIllegal (s.word.setWidth 64) 0)

/-- R100: the predicates of FCMP. EQ has +0 = -0, all but UNORD are false with a NaN, no flag is set, and codes 4 to 31 trap ILLEGAL. -/
def Obligations.FloatCompare : Prop :=
  ∀ (s : State) (d a b p : BitVec 5), let x := f32 ((s.rdS a).setWidth 32); let y := f32 ((s.rdS b).setWidth 32)
    (p.toNat < 4 → ∃ v : Bool, GivesS (.fcmp d a b p) s d (if v then 1 else 0) ∧
      (x = .nan ∨ y = .nan → (v = true ↔ p = 3)) ∧
      (x ≠ .nan → y ≠ .nan → ∃ o, FV.cmp x y = some o ∧
        (p = 0 → (v = true ↔ o = .eq)) ∧ (p = 1 → (v = true ↔ o = .lt)) ∧ (p = 2 → (v = true ↔ o ≠ .gt)) ∧ (p = 3 → v = false))) ∧
    (4 ≤ p.toNat → s.TrapsAlone → Traps (.fcmp d a b p) s tIllegal (s.word.setWidth 64) 0)

/-! Control transfer and the system forms (04, 03, 19). -/

/-- R52, R93: the branch forms of a thread in no gang. A target counts from the branch word; BLR reads sa before s31 is written; a register
target off a word boundary traps MISALIGN with the target as ADDR and s31 unwritten. -/
def Sys2Proof.Claim.Branches : Prop :=
  ∀ (s : State) (a b : BitVec 5) (o : BitVec 13) (j : BitVec 26), let pc := s.th.r.pc; let x := s.rdS a; let y := s.rdS b
    let linked := s.th.r.wrS 31 (pc + 4)
    let cond := fun (i : Instr) (c : Prop) =>
      (c → ∃ t, exec i s = .next t ∧ s.Jumped t s.th.r (pc + BitVec.ofInt 64 (4 * o.toInt))) ∧
      (¬c → ∃ t, exec i s = .next t ∧ s.Retired t s.th.r.next)
    s.th.en.gangN = 0 →
    (∃ t, exec (.b j) s = .next t ∧ s.Jumped t s.th.r (pc + BitVec.ofInt 64 (4 * j.toInt))) ∧
    (∃ t, exec (.bl j) s = .next t ∧ s.Jumped t linked (pc + BitVec.ofInt 64 (4 * j.toInt)) ∧ t.rdS 31 = pc + 4) ∧
    cond (.beq a b o) (x = y) ∧ cond (.bne a b o) (x ≠ y) ∧
    cond (.blt a b o) (x.toInt < y.toInt) ∧ cond (.bge a b o) (y.toInt ≤ x.toInt) ∧
    cond (.bltu a b o) (x.toNat < y.toNat) ∧ cond (.bgeu a b o) (y.toNat ≤ x.toNat) ∧
    (x.toNat % 4 = 0 →
      (∃ t, exec (.br a) s = .next t ∧ s.Jumped t s.th.r x) ∧ (∃ t, exec (.blr a) s = .next t ∧ s.Jumped t linked x ∧ t.rdS 31 = pc + 4)) ∧
    (x.toNat % 4 ≠ 0 → s.TrapsAlone → Traps (.br a) s tMisalign x 0 ∧ Traps (.blr a) s tMisalign x 0)

/-- R94: in a gang a follower goes where its leader went, whatever its own registers hold. -/
def Sys2Proof.Claim.FollowersFollow : Prop :=
  ∀ (s : State) (a b : BitVec 5) (o : BitVec 13) (i : Instr), let p := (s.getT s.th.en.leader).r.pc
    s.th.en.gangN ≠ 0 → s.th.en.leader ≠ s.cur → s.th.r.rep.act = false →
    i ∈ [.beq a b o, .bne a b o, .blt a b o, .bge a b o, .bltu a b o, .bgeu a b o, .br a] →
    ∃ t, exec i s = .next t ∧ t.th.r = { s.th.r with pc := p } ∧ t.mem = s.mem ∧ t.threads = s.threads ∧ t.cores = s.cores

/-- R52, R93, R94: branches, and how a gang follower branches. -/
def Obligations.BranchForms : Prop := Claim.Branches ∧ Claim.FollowersFollow

/-- R85, R97, R38, R43: MFS gives sd a state register's value; MTS writes FPFLAGS, RMODE and RNGSEED and nothing else, and traps ILLEGAL
with nothing changed on a read-only or reserved number and on a value its register does not take. -/
def Obligations.StateRegisters : Prop :=
  ∀ (s : State) (d a : BitVec 5) (r : BitVec 8), let v := s.rdS a; let n := r.toNat
    (∀ x, s.stateReg n = some x → GivesS (.mfs d r) s d x) ∧
    (s.stateReg 0x00 = some s.th.id.task ∧ s.stateReg 0x01 = some (BitVec.ofNat 64 (s.cur % 16)) ∧
      s.stateReg 0x02 = some (BitVec.ofNat 64 (s.cur / 16)) ∧ s.stateReg 0x03 = some (BitVec.ofNat 64 (s.cur / 1024)) ∧
      s.stateReg 0x05 = some (BitVec.ofNat 64 (s.region (s.cur / 4096)).clock) ∧
      s.stateReg 0x08 = some (0#60 ++ s.th.r.fp) ∧ s.stateReg 0x09 = some (0#61 ++ s.th.r.rmode) ∧ s.stateReg 0x0A = some s.th.r.seed) ∧
    (n = 0x08 → v.toNat < 16 → ∃ t, exec (.mts a r) s = .next t ∧ s.Retired t { s.th.r.next with fp := v.setWidth 4 }) ∧
    (n = 0x09 → v.toNat < 5 → ∃ t, exec (.mts a r) s = .next t ∧ s.Retired t { s.th.r.next with rmode := v.setWidth 3 }) ∧
    (n = 0x0A → ∃ t, exec (.mts a r) s = .next t ∧ s.Retired t { s.th.r.next with seed := v }) ∧
    (s.TrapsAlone → (n = 0x08 ∧ 16 ≤ v.toNat) ∨ (n = 0x09 ∧ 5 ≤ v.toNat) ∨ n ∉ [0x08, 0x09, 0x0A] →
      Traps (.mts a r) s tIllegal (s.word.setWidth 64) 0) ∧
    (s.TrapsAlone → n = 0x07 ∨ 0x15 ≤ n → Traps (.mfs d r) s tIllegal (s.word.setWidth 64) 0)

/-- R95, R68, R145: NOP changes nothing, YIELD sets GAP to 8 + n, REPF opens a frame, RLX marks the next word. -/
def Sys2Proof.Claim.QuietForms : Prop :=
  ∀ (s : State) (n : BitVec 8) (m d a b : BitVec 5) (l : BitVec 4),
    (∃ t, exec .nop s = .next t ∧ s.Retired t s.th.r.next) ∧
    (∃ t, exec (.yield n) s = .next t ∧ s.Retired { t with th.is.gap := s.th.is.gap } s.th.r.next ∧ t.th.is.gap = 8 + n.toNat) ∧
    (m ≠ 0 → ∃ t, exec (.repf m d a b l) s = .next t ∧ t.th.is.frame = [] ∧
      s.Retired { t with th.is.frame := s.th.is.frame }
        { s.th.r.next with rep := { act := true, pass := 0, idx := 0, lenm1 := l.toNat, nm1 := m.toNat, sd := d.toNat, sa := a.toNat, sb := b.toNat } }) ∧
    (m = 0 → s.TrapsAlone → Traps (.repf m d a b l) s tIllegal (s.word.setWidth 64) 0) ∧
    (∃ t, exec .rlx s = .next t ∧ t.th.is.rlx = true ∧
      s.Retired { t with th.is.rlx := false, th.is.stepped := s.th.is.stepping } s.th.r.next)

/-- R70: in an open frame the next instruction is the next of the pass, the first of the next pass, or, after the last pass, the word
after the captured run; outside a frame it is the next word. The registers keep their values. -/
def Sys2Proof.Claim.FrameOrder : Prop :=
  ∀ (r : Regs), let n := r.next
    n.s = r.s ∧ n.v = r.v ∧ n.k = r.k ∧ n.g = r.g ∧ n.fp = r.fp ∧ n.rmode = r.rmode ∧ n.seed = r.seed ∧
    (r.rep.act = false → n.pc = r.pc + 4 ∧ n.rep = r.rep) ∧
    (r.rep.act = true → r.rep.idx < r.rep.lenm1 → n.pc = r.pc + 4 ∧ n.rep = { r.rep with idx := r.rep.idx + 1 }) ∧
    (r.rep.act = true → r.rep.idx = r.rep.lenm1 → r.rep.pass < r.rep.nm1 →
      n.pc = r.pc - BitVec.ofNat 64 (4 * r.rep.lenm1) ∧ n.rep = { r.rep with idx := 0, pass := r.rep.pass + 1 }) ∧
    (r.rep.act = true → r.rep.idx = r.rep.lenm1 → r.rep.nm1 ≤ r.rep.pass → n.pc = r.pc + 4 ∧ n.rep.act = false)

/-- R68, R70, R95, R145: NOP, YIELD, REPF and RLX, and the order of a repeat frame. -/
def Obligations.QuietFormsAndFrames : Prop := Claim.FrameOrder ∧ Claim.QuietForms

/-- R385, R58: a trap freezes the slot at its instruction (at the RLX word of a marked one), records its code, and sends the packet of
Table 19-2 to the region supervisor; nothing else changes. -/
def Sys2Proof.Claim.TrapEntry : Prop :=
  ∀ (s : State) (code : BitVec 8) (addr info : Word), s.TrapsAlone →
    let pc := if s.th.is.rlx then s.th.r.pc - 4 else s.th.r.pc
    s.Froze (s.takeTrap code addr info) code addr info pc pc

/-- R387: TRAP and BRK retire before their own trap is taken: the slot freezes at the next instruction, and the packet reports the word's
own PC, sa or 0 as ADDR and n as INFO. -/
def Sys2Proof.Claim.TrapAndBrk : Prop :=
  ∀ (s : State) (a : BitVec 5) (n : BitVec 8), s.TrapsAlone → s.th.is.rlx = false → s.th.r.rep.act = false →
    (∃ t, exec (.trap a n) s = .next t ∧ s.Froze t 0x09 (s.rdS a) (0#56 ++ n) s.th.r.pc (s.th.r.pc + 4)) ∧
    (∃ t, exec (.brk n) s = .next t ∧ s.Froze t 0x08 0 (0#56 ++ n) s.th.r.pc (s.th.r.pc + 4))

/-- R58, R385, R387: taking a trap, and TRAP and BRK, which retire first. -/
def Obligations.TrapsTaken : Prop := Claim.TrapEntry ∧ Claim.TrapAndBrk

/-! Pointers and segments (05). -/

/-- R112, R113, R115: pointer arithmetic touches the offset alone; a sum outside 52 bits traps SEG_LIMIT with ADDR sa. -/
def Sys2Proof.Claim.PointerForms : Prop :=
  ∀ (s : State) (d a b : BitVec 5) (i : BitVec 8) (n l : BitVec 3) (f : BitVec 6) (w : BitVec 2), let p := s.rdS a
    let moved := fun (j : Instr) (v : Int) =>
      (0 ≤ p.toNat % 2 ^ 52 + v → p.toNat % 2 ^ 52 + v < 2 ^ 52 →
        ∃ x, GivesS j s d x ∧ (x.toNat : Int) = p.toNat + v) ∧
      (p.toNat % 2 ^ 52 + v < 0 ∨ 2 ^ 52 ≤ p.toNat % 2 ^ 52 + v → s.TrapsAlone → Traps j s tSegLimit p 0)
    moved (.padd d a b) (s.rdS b).toInt ∧ moved (.paddImm d a i) i.toInt ∧
    GivesS (.pset d a n) s d (BitVec.ofNat 64 (n.toNat * 2 ^ 52 + p.toNat % 2 ^ 52)) ∧
    GivesS (.pfmt d a l f) s d (BitVec.ofNat 64 (f.toNat * 2 ^ 58 + l.toNat * 2 ^ 55 + p.toNat % 2 ^ 55)) ∧
    GivesS (.segrd d n w) s d (BitVec.ofNat 64 ((s.rdG n).toNat / 2 ^ (64 * w.toNat)))

/-- R114, R117: SEGNAR narrows a segment in place and never widens it; SEGSET, in a privileged thread, loads a valid descriptor. -/
def Sys2Proof.Claim.SegmentForms : Prop :=
  ∀ (s s' : State) (n : BitVec 3) (a b : BitVec 5) (r : BitVec 6) (key : Nat) (w : Got),
    let g := s.rdG n
    let x := (s.rdS a).toNat
    let y := (s.rdS b).toNat
    let wrote := fun (t : State) (h : BitVec 256) => s.Retired t { s.th.r.next with g := t.th.r.g } ∧
      ∀ m, t.rdG m = if m = n then h else s.rdG m
    let at0 := fun (u : State) => s.Reaches (s.rdS a) 0 32 32 rR anySpace false key u
    let loads := fun (h : BitVec 256) => s.segValid s.clusterNo (taskVf s.th.id.task) h = true → ∃ t, exec (.segset n a) s = .next t ∧ wrote t h
    (x ≤ segLimit g → y ≤ segLimit g - x → (segBase g + x) % 128 = 0 → segBase g + x < 2 ^ 56 →
      ∃ t h, exec (.segnar n a r b) s = .next t ∧ wrote t h ∧ segBase h = segBase g + x ∧ segLimit h = y ∧ segSpace h = segSpace g ∧
        segRights h = (segRights g &&& r.toNat) ||| (segRights g &&& rL) ∧ (segScale h + x) % 2 ^ 56 = segScale g ∧
        segCore h = segCore g ∧ segLregion h = segLregion g ∧ segCluster h = segCluster g ∧ segWindow h = segWindow g) ∧
    (s.TrapsAlone → segLimit g < x ∨ segLimit g - x < y → Traps (.segnar n a r b) s tSegLimit (s.rdS a) 0) ∧
    (s.th.id.priv = true →
      (s.Calm → isLs key = true → at0 s → loads (BitVec.ofNat 256 (s.readLE key 32))) ∧
      (s'.Calm → isLs key = false → key % 32 = 0 → at0 s' → Queues (.segset n a) s s' (.read [(key, 32)])) ∧
      (s.WentOn [{ pieces := [(key, 32)] }, w] → loads (BitVec.ofNat 256 (leNat w.bytes))))

/-- R116: PROBE traps on no operand of a size up to 2^12, changes nothing but sd, and says OK exactly when it reports nothing else. While pages miss
the translation cache it parks, and their walks are under way. -/
def Sys2Proof.Claim.ProbeOnlyReports : Prop :=
  ∀ (s : State) (d a : BitVec 5) (z : BitVec 4) (r : BitVec 6) (g : Nat) (l : List Nat), z.toNat ≤ 12 →
    let misses := s.probeMisses (s.rdS a) (2 ^ z.toNat) r.toNat
    (misses = none ∨ s.th.w.acc.redo = true →
      ∃ v, GivesS (.probe d a z r) s d v ∧ v.toNat < 128 ∧ (v.getLsbD 0 = true ↔ ∀ k, 1 ≤ k → k ≤ 5 → v.getLsbD k = false)) ∧
    (misses = some (g, l) → s.th.w.acc.redo = false → s.th.st ≠ .saving → ∃ t, exec (.probe d a z r) s = .next t ∧
      s.Parked { t with regions := s.regions } (.probe g (l.headD 0)) ∧
      t.regions = (s.updRegion g (fun x => { x with walks := x.walks ++ l.map (fun a => (s.cur, a)) })).regions)

/-- R112 to R117: the forms of pointers and segments. -/
def Obligations.Pointers : Prop := Claim.PointerForms ∧ Claim.SegmentForms ∧ Claim.ProbeOnlyReports

/-! Loads and stores (06). An access in local store is complete in its own step, but for a converting one whose scale byte lies in another
piece of 128 bytes. Elsewhere, where `s'` is the machine after the translation, the instruction queues its request and parks (R289); the request
is performed by the events of `Obligations.CoreQueueEvents`, and the instruction goes on with what it gave. A segment's base is aligned to 128
bytes (R109), so an access that is aligned in its segment is aligned in its memory. -/

/-- R135, R289: a plain load writes sd with the bytes at the effective address, zero- or sign-extended; memory reads as before. -/
def Sys2Proof.Claim.PlainLoads : Prop :=
  ∀ (s s' : State) (d a : BitVec 5) (o : BitVec 12) (key : Nat) (g : Got),
    let at0 := fun (n : Nat) (u : State) => s.Reaches (s.rdS a) (o.toInt * n) n n rR anySpace false key u
    let zx := fun (_ x : Nat) => BitVec.ofNat 64 x
    let sx := fun (n x : Nat) => BitVec.ofInt 64 (if x < 2 ^ (8 * n - 1) then (x : Int) else x - 2 ^ (8 * n))
    let loads := fun (i : Instr) (n : Nat) (v : Nat → Nat → Word) =>
      (s.Calm → isLs key = true → at0 n s → GivesS i s d (v n (s.readLE key n))) ∧
      (s'.Calm → isLs key = false → key % n = 0 → at0 n s' → Queues i s s' (.read [(key, n)])) ∧
      (s.WentOn [{ pieces := [(key, n)] }, g] → g.bytes.length = n → GivesS i s d (v n (leNat g.bytes)))
    loads (.ldB d a o) 1 zx ∧ loads (.ldBs d a o) 1 sx ∧ loads (.ldH d a o) 2 zx ∧ loads (.ldHs d a o) 2 sx ∧
    loads (.ldW d a o) 4 zx ∧ loads (.ldWs d a o) 4 sx ∧ loads (.ldD d a o) 8 zx

/-- R135, R289: a plain store writes the low bytes of sd, little-endian, at the effective address; every other byte, every register and every
full/empty bit is as before. -/
def Sys2Proof.Claim.PlainStores : Prop :=
  ∀ (s s' : State) (d a : BitVec 5) (o : BitVec 12) (key n : Nat) (i : Instr) (g : Got),
    let at0 := fun (u : State) => s.Reaches (s.rdS a) (o.toInt * n) n n rW anySpace true key u
    let b := leBytes n (s.rdS d).toNat
    ((n, i) = (1, .stB d a o) ∨ (n, i) = (2, .stH d a o) ∨ (n, i) = (4, .stW d a o) ∨ (n, i) = (8, .stD d a o)) →
    (s.Calm → isLs key = true → key % n = 0 → at0 s →
      ∃ t, exec i s = .next t ∧ s.RetiredMem t s.th.r.next ∧ t.full = s.full ∧ s.BytesAt t key b) ∧
    (s'.Calm → isLs key = false → key % n = 0 → at0 s' → Queues i s s' (.write (layOver [(key, n)] b))) ∧
    (s.WentOn [{ pieces := [(key, n)] }, g] → ∃ t, exec i s = .next t ∧ s.Retired t s.th.r.next)

/-- R105, R136, R137, R450: a converting load writes the element widened, scaled by the code of its scale byte where BL is not 0; a converting
store writes sd converted under RMODE, with the generator's next state, the scale byte read first. An element and its scale byte in one piece of
128 bytes of local store are accessed together. -/
def Sys2Proof.Claim.ConvertingAccesses : Prop :=
  ∀ (s s' s2 : State) (d a : BitVec 5) (o : BitVec 12) (key skey : Nat) (sat : Bool) (l : Loc) (w : Got),
    let p := s.rdS a
    let f := formatOf (ptrFmt p)
    let n := f.size
    let at0 := fun (rights : Nat) (write : Bool) (u : State) => s.Reaches p (o.toInt * n) n n rights anySpace write key u
    let load := Instr.ldCvt d a o
    let store := if sat then Instr.stCvtSat d a o else .stCvt d a o
    let conv := fun (k : Nat) => convStored f sat s.th.r.rmode.toNat s.th.r.seed k (s.rdS d)
    let stored := fun (v : (List Byte × Flags) × Word) => ∃ t, exec store s = .next t ∧ s.BytesAt t key v.1.1 ∧ t.full = s.full ∧
      s.RetiredMem t { s.th.r.next with seed := v.2, fp := s.th.r.fp ||| v.1.2 }
    let gave := fun (i : Instr) (v : Word × Flags) => GivesSF i s d v.1 (s.th.r.fp ||| v.2) s.th.r.seed
    let wrote := fun (seed : Word) (fl : Flags) =>
      ∃ t, exec store s = .next t ∧ s.Retired t { s.th.r.next with seed := seed, fp := s.th.r.fp ||| fl }
    f ≠ .bytes → f ≠ .reserved →
    (ptrBl p = 0 →
      (s.Calm → isLs key = true → at0 rR false s → gave load (convLoaded f none (s.bytes key n))) ∧
      (s.Calm → isLs key = true → key % n = 0 → at0 rW true s → stored (conv 127)) ∧
      (s'.Calm → isLs key = false → key % n = 0 → at0 rR false s' → Queues load s s' (.read [(key, n)])) ∧
      (s'.Calm → isLs key = false → key % n = 0 → at0 rW true s' → Queues store s s' (.write (layOver [(key, n)] (conv 127).1.1))) ∧
      (s.WentOn [{ pieces := [(key, n)] }, w] → gave load (convLoaded f none w.bytes)) ∧
      (s.WentOn [{ pieces := [(key, n)] }, w] → wrote (conv 127).2 (conv 127).1.2)) ∧
    (∀ g, f = .flt g → ptrBl p ≠ 0 →
      let seg := s.th.r.rdG (ptrSeg p)
      let so := scaleOffset n (decide (f = .flt .e2m1)) (ptrBl p) seg l.eo
      let sl : Loc := { seg := seg, eo := so, ptr := l.ptr }
      let together := onePiece [(skey, 1), (key, n)] = true
      let ok := l.eo = ((ptrOff p : Int) + o.toInt * n).toNat ∧ s.limitOk s.clusterNo seg so 1 = true
      let found := fun (rights : Nat) (write : Bool) => (check p (o.toInt * n) n n rights anySpace).run s = (.ok l, s) ∧ ok ∧
        (placeOf l n (if write then rW else rR) write).run s = (.ok [(key, n)], s') ∧ (placeOf sl 1 rR false).run s' = (.ok [(skey, 1)], s2)
      (s.Calm → isLs key = true → isLs skey = true → together → s2 = s → found rR false →
        gave load (convLoaded f (some (s.readLE skey 1)) (s.bytes key n))) ∧
      (s.Calm → isLs key = true → isLs skey = true → together → s2 = s → found (rR + rW) true → stored (conv (s.readLE skey 1))) ∧
      (s2.Calm → isLs skey = false ∨ ¬together → found (rR + rW) true →
        Queues store s s2 (.conv skey [(key, n)] (ptrFmt p) sat s.th.r.rmode.toNat s.th.r.seed (s.rdS d))) ∧
      (ok → s.WentOn [{ pieces := [(key, n)] }, { pieces := [(skey, 1)] }, w] → w.bytes.length = n + 1 →
        gave load (if so < l.eo then convLoaded f (some (leNat (w.bytes.take 1))) (w.bytes.drop 1)
          else convLoaded f (some (leNat (w.bytes.drop n))) (w.bytes.take n))) ∧
      (ok → s.WentOn [{ pieces := [(key, n)] }, { pieces := [(skey, 1)] }, w] → wrote (conv 127).2 w.flags))

/-- R135 to R137, R289, R450: plain and converting loads and stores. -/
def Obligations.LoadsAndStores : Prop := Claim.PlainLoads ∧ Claim.PlainStores ∧ Claim.ConvertingAccesses

/-- R132, R133: a load that meets a single-bit error gives the corrected data and counts it in CE; one that meets an uncorrectable word
poisons it, counts it in UE with its index, and traps BANK_POISON. -/
def Obligations.MemoryErrors : Prop :=
  ∀ (s : State) (d a : BitVec 5) (o : BitVec 12) (key n : Nat), let c := key / 2 ^ 18
    let ce := fun (t : State) => (t.core c).lserr.toNat % 2 ^ 16
    let ue := fun (t : State) => (t.core c).lserr.toNat / 2 ^ 16 % 2 ^ 16
    let last := fun (t : State) => (t.core c).lserr.toNat / 2 ^ 32 % 2 ^ 15
    s.Reaches (s.rdS a) (o.toInt * 8) 8 8 rR anySpace false key s → isLs key = true → State.Calm { s with upsets := [] } →
    s.upsets = [(key / 8, n)] →
    (n = 1 → ∃ t, exec (.ldD d a o) s = .next t ∧ t.th.st = s.th.st ∧ t.rdS d = (if d = 0 then 0 else BitVec.ofNat 64 (s.readLE key 8)) ∧
      t.mem = s.mem ∧ t.poison = [] ∧ t.upsets = [] ∧ ce t = min 0xFFFF (ce s + 1) ∧ ue t = ue s ∧ last t = last s) ∧
    (n = 2 → s.TrapsAlone → ∃ t, exec (.ldD d a o) s = .next t ∧ t.th.st = .frozen ∧ t.th.r = s.th.r ∧ t.lastCode s.cur = tBankPoison ∧
      t.mem = s.mem ∧ t.isPoison key = true ∧ t.upsets = [] ∧ ce t = ce s ∧ ue t = min 0xFFFF (ue s + 1) ∧ last t = key % 2 ^ 18 / 8)

/-- R138 (Table 06-4): each full/empty form on a word in the state it needs, with no thread waiting. -/
def Sys2Proof.Claim.FullEmptyForms : Prop :=
  ∀ (s : State) (d a : BitVec 5) (o : BitVec 12) (key : Nat),
    let p := s.rdS a
    let r := fun (rights : Nat) => s.Reaches p (o.toInt * 8) 8 8 rights only0 true key s
    let same := s.th.r.next
    s.Calm → s.NoWaiters → isLs key = true →
    (r rR → s.isFull key = true → GivesS (.ldf d a o) s d (BitVec.ofNat 64 (s.readLE key 8))) ∧
    (r (rR + rW) → s.isFull key = true →
      ∃ t, exec (.ldfe d a o) s = .next t ∧ s.RetiredMem t { s.th.r.next with s := t.th.r.s } ∧ t.mem = s.mem ∧ s.FullAt t key false ∧
        ∀ n, t.rdS n = if n = d ∧ n ≠ 0 then BitVec.ofNat 64 (s.readLE key 8) else s.rdS n) ∧
    (r (rR + rW) → s.isFull key = false →
      ∃ t, exec (.stf d a o) s = .next t ∧ s.RetiredMem t same ∧ s.BytesAt t key (leBytes 8 (s.rdS d).toNat) ∧ s.FullAt t key true) ∧
    (r rW →
      (∃ t, exec (.stff d a o) s = .next t ∧ s.RetiredMem t same ∧ s.BytesAt t key (leBytes 8 (s.rdS d).toNat) ∧ s.FullAt t key true) ∧
      (∃ t, exec (.sete a o) s = .next t ∧ s.RetiredMem t same ∧ t.mem = s.mem ∧ s.FullAt t key false) ∧
      (∃ t, exec (.setf a o) s = .next t ∧ s.RetiredMem t same ∧ t.mem = s.mem ∧ s.FullAt t key true))

/-- R142, R143 (Table 06-7), R289: each atomic writes its new value over the old one and gives sd the old value, sign-extended for .W and
zero-extended for FADD. -/
def Sys2Proof.Claim.Atomics : Prop :=
  ∀ (s s' : State) (d a b : BitVec 5) (z : BitVec 1) (key : Nat) (g : Got),
    let n := if z = 1 then 8 else 4
    let m := 2 ^ (8 * n)
    let old := s.readLE key n
    let x := (s.rdS b).toNat % m
    let y := (s.rdS d).toNat % m
    let sg := fun (v : Nat) => if v < m / 2 then (v : Int) else v - m
    let at0 := fun (n : Nat) (u : State) => s.Reaches (s.rdS a) 0 n n rA amoSpace true key u
    let queued := fun (i : Instr) (op : Nat) (wide : Bool) (n : Nat) =>
      (s'.Calm → isLs key = false → at0 n s' → Queues i s s' (.amo op wide key (s.rdS b) (s.rdS d))) ∧
      (s.WentOn [{ pieces := [(key, n)] }, g] → GivesSF i s d g.value (s.th.r.fp ||| g.flags) s.th.r.seed)
    let does := fun (i : Instr) (op new : Nat) =>
      (s.Calm → isLs key = true → at0 n s → GivesMem i s s d (BitVec.ofInt 64 (sg old)) 0 key (leBytes n new)) ∧ queued i op (decide (z = 1)) n
    does (.amoAdd d a b z) 0 ((old + x) % m) ∧
    does (.amoMin d a b z) 1 (if sg old ≤ sg x then old else x) ∧
    does (.amoMax d a b z) 2 (if sg x ≤ sg old then old else x) ∧
    does (.amoMinu d a b z) 3 (min old x) ∧
    does (.amoMaxu d a b z) 4 (max old x) ∧
    does (.amoSwap d a b z) 5 x ∧
    does (.amoCas d a b z) 6 (if old = y then x else old) ∧
    does (.amoAnd d a b z) 7 (old &&& x) ∧
    does (.amoOr d a b z) 8 (old ||| x) ∧
    does (.amoXor d a b z) 9 (old ^^^ x) ∧
    (s.Calm → isLs key = true → at0 4 s →
      let w := s.readLE key 4
      let r := f32Add .rne (BitVec.ofNat 32 w) ((s.rdS b).setWidth 32)
      GivesMem (.amoFadd d a b) s s d (BitVec.ofNat 64 w) r.2 key (leBytes 4 r.1.toNat)) ∧
    queued (.amoFadd d a b) 10 false 4

/-- R148 to R150, R289: SYNCARM and SYNCADD apply one update to the sync word, field by field; WAITGEN on a generation that has moved on gives
sd the word's upper half. No thread waits. -/
def Sys2Proof.Claim.SyncWords : Prop :=
  ∀ (s : State) (d a : BitVec 5) (o : BitVec 12) (key : Nat) (g : Got),
    let r := fun (rights : Nat) => s.Reaches (s.rdS a) (o.toInt * 16) 16 16 rights only012 true key s
    let w := s.readSync key
    let v := (s.rdS d).toNat % 2 ^ 32
    let updated := fun (t : State) (target add : Nat) (fault exceeded err : Bool) =>
      let u := t.readSync key
      let c := min (syncCount w + add) (2 ^ 32 - 1)
      let sat := decide (2 ^ 32 - 1 < syncCount w + add)
      let moves := decide (target ≠ 0 ∧ target ≤ c)
      let rest := if moves then c - target else c
      s.RetiredMem t s.th.r.next ∧ t.full = s.full ∧ s.BytesAt t key (leBytes 16 u.toNat) ∧
      syncTarget u = target ∧ syncCount u = rest ∧ syncGen u = (if moves then (syncGen w + 1) % 2 ^ 32 else syncGen w) ∧
      syncPend u = syncPend w ∧ u.getLsbD 125 = fault ∧
      u.getLsbD 126 = (exceeded || sat || (moves && decide (rest ≠ 0))) ∧ u.getLsbD 127 = (err || sat || (moves && decide (rest ≠ 0)))
    let done := fun (i : Instr) => ∃ t, exec i s = .next t ∧ s.Retired t s.th.r.next
    (s.Calm → s.NoWaiters → isLs key = true →
      (r (rR + rW) →
        (∃ t, exec (.syncarm d a o) s = .next t ∧ updated t v 0 false false false) ∧
        (∃ t, exec (.syncadd d a o) s = .next t ∧
          updated t (syncTarget w) v (w.getLsbD 125) (w.getLsbD 126) (w.getLsbD 127))) ∧
      (r rR → syncGen w ≠ v → GivesS (.waitgen d a o) s d (BitVec.ofNat 64 (w.toNat / 2 ^ 64)))) ∧
    (s.Calm → isBank key = true →
      (r (rR + rW) → Queues (.syncarm d a o) s s (.sync 0 key (BitVec.ofNat 32 v)) ∧ Queues (.syncadd d a o) s s (.sync 1 key (BitVec.ofNat 32 v))) ∧
      (r rR → Queues (.waitgen d a o) s s (.wait key (BitVec.ofNat 32 v) d.toNat))) ∧
    (s.WentOn [{ pieces := [(key, 16)] }, g] →
      done (.syncarm d a o) ∧ done (.syncadd d a o) ∧ GivesS (.waitgen d a o) s d g.value)

/-- R138 to R151: full/empty accesses, atomics and sync words. -/
def Obligations.Synchronisation : Prop := Claim.FullEmptyForms ∧ Claim.Atomics ∧ Claim.SyncWords

/-! Vectors and masks (09). A queued form takes its place in the vector command queue (R194). -/

/-- R196, R191: VADD, VSUB, VMUL and VFMA on every active element, rounded under rm; for I32 they wrap and set no flag. A reserved rm, SR
and an I32 rm that is not 0 trap ILLEGAL. -/
def Sys2Proof.Claim.VectorArithmetic : Prop :=
  ∀ (s : State) (t : BitVec 2) (r : BitVec 3) (d a x : BitVec 5) (k : BitVec 3) (z : BitVec 1),
    let w := if t = 1 ∨ t = 2 then 16 else 32
    let A := fun (e : Nat) => elemOf (s.rdV a) w e
    let B := fun (e : Nat) => if z = 1 then (s.rdS x).toNat % 2 ^ w else elemOf (s.rdV x) w e
    let D := fun (e : Nat) => elemOf (s.rdV d) w e
    let mode := if r = 7 then s.th.r.rmode else r
    let rm : RM := if mode = 1 then .rtz else if mode = 2 then .rdn else if mode = 3 then .rup else .rne
    let g : FFmt := if t = 1 then .f16 else if t = 2 then .bf16 else .f32
    let gives := fun (i : Instr) (f : Nat → Nat × Flags) => GivesLanes i s (s.pushVcq [d.toNat]) d w k f
    (t ≠ 3 → r ≠ 4 → r ≠ 5 → r ≠ 6 →
      gives (.vadd t r d a x k z) (fun e => g.add rm (A e) (B e)) ∧
      gives (.vsub t r d a x k z) (fun e => g.sub rm (A e) (B e)) ∧
      gives (.vmul t r d a x k z) (fun e => g.mul rm (A e) (B e)) ∧
      gives (.vfma t r d a x k z) (fun e => g.fma rm (A e) (B e) (D e))) ∧
    (t = 3 → r = 0 →
      gives (.vadd t r d a x k z) (fun e => (A e + B e, 0)) ∧
      gives (.vsub t r d a x k z) (fun e => (A e + (2 ^ 32 - B e), 0)) ∧
      gives (.vmul t r d a x k z) (fun e => (A e * B e, 0)) ∧
      gives (.vfma t r d a x k z) (fun e => (A e * B e + D e, 0))) ∧
    (s.TrapsAlone → (t = 3 ∧ r ≠ 0) ∨ (t ≠ 3 ∧ (r = 4 ∨ r = 5 ∨ r = 6)) →
      ∀ i ∈ [Instr.vadd t r d a x k z, .vsub t r d a x k z, .vmul t r d a x k z, .vfma t r d a x k z],
        Traps i s tIllegal (s.word.setWidth 64) 0)

/-- R198, R199: minimum and maximum by value with a NaN giving the canonical NaN, the sign forms, and the bitwise and shift forms; none
sets a flag. VSHR of types 1 and 2 traps ILLEGAL. -/
def Sys2Proof.Claim.VectorLanes : Prop :=
  ∀ (s : State) (t : BitVec 2) (d a x : BitVec 5) (k : BitVec 3) (z : BitVec 1),
    let w := if t = 1 ∨ t = 2 then 16 else 32
    let A := fun (e : Nat) => elemOf (s.rdV a) w e
    let B := fun (e : Nat) => if z = 1 then (s.rdS x).toNat % 2 ^ w else elemOf (s.rdV x) w e
    let C := fun (e : Nat) => elemOf (s.rdV a) 32 e
    let E := fun (e : Nat) => if z = 1 then (s.rdS x).toNat % 2 ^ 32 else elemOf (s.rdV x) 32 e
    let g : FFmt := if t = 1 then .f16 else if t = 2 then .bf16 else .f32
    let sg := fun (v : Nat) => if v < 2 ^ 31 then (v : Int) else v - 2 ^ 32
    let low := fun (u v : Nat) => if t = 3 then decide (sg u < sg v) else (g.value u).below (g.value v)
    let bad := fun (v : Nat) => t ≠ 3 ∧ g.value v = .nan
    let gives := fun (i : Instr) (w : Nat) (f : Nat → Nat) => GivesLanes i s (s.pushVcq [d.toNat]) d w k (fun e => (f e, 0))
    (∃ f, gives (.vmin t d a x k z) w f ∧ ∀ e < 1024 / w, (bad (A e) ∨ bad (B e) → f e = g.nanCode) ∧
      (¬bad (A e) → ¬bad (B e) → (f e = A e ∨ f e = B e) ∧ low (A e) (f e) = false ∧ low (B e) (f e) = false)) ∧
    (∃ f, gives (.vmax t d a x k z) w f ∧ ∀ e < 1024 / w, (bad (A e) ∨ bad (B e) → f e = g.nanCode) ∧
      (¬bad (A e) → ¬bad (B e) → (f e = A e ∨ f e = B e) ∧ low (f e) (A e) = false ∧ low (f e) (B e) = false)) ∧
    gives (.vabs t d a k) w (fun e => if bad (A e) then g.nanCode else if t = 3 then (sg (A e)).natAbs else A e % 2 ^ (w - 1)) ∧
    gives (.vneg t d a k) w (fun e => if bad (A e) then g.nanCode else if t = 3 then 2 ^ 32 - A e else A e + 2 ^ (w - 1)) ∧
    gives (.vand d a x k z) 32 (fun e => C e &&& E e) ∧
    gives (.vor d a x k z) 32 (fun e => C e ||| E e) ∧
    gives (.vxor d a x k z) 32 (fun e => C e ^^^ E e) ∧
    gives (.vshl d a x k z) 32 (fun e => C e * 2 ^ (E e % 32)) ∧
    gives (.vshr 0 d a x k z) 32 (fun e => C e / 2 ^ (E e % 32)) ∧
    gives (.vshr 3 d a x k z) 32 (fun e => (sg (C e) / 2 ^ (E e % 32) % 2 ^ 32).toNat) ∧
    (s.TrapsAlone → t = 1 ∨ t = 2 → Traps (.vshr t d a x k z) s tIllegal (s.word.setWidth 64) 0)

/-- R191 to R203: element-wise vector results. -/
def Obligations.VectorResults : Prop := Claim.VectorArithmetic ∧ Claim.VectorLanes

/-- R200, R210: VCMP writes kd with the predicate of every active container and 0 elsewhere; the mask forms; a kd of 0 discards. -/
def Sys2Proof.Claim.MaskResults : Prop :=
  ∀ (s : State) (t : BitVec 2) (d k ka kb : BitVec 3) (a x sd : BitVec 5) (z : BitVec 1),
    let A := fun (e : Nat) => lane (s.rdV a) e
    let B := fun (e : Nat) => if z = 1 then (s.rdS x).setWidth 32 else lane (s.rdV x) e
    let o := fun (e : Nat) => FV.cmp (f32 (A e)) (f32 (B e))
    let cmp := fun (i : Instr) (float int : Nat → Prop) =>
      (t = 0 ∨ t = 3 → ∃ v, GivesK i s (s.pushVcq (maskReg d)) d v ∧
        ∀ e < 32, (v.getLsbD e = true ↔ (s.rdK k).getLsbD e = true ∧ if t = 0 then float e else int e)) ∧
      (s.TrapsAlone → t = 1 ∨ t = 2 → Traps i s tIllegal (s.word.setWidth 64) 0)
    cmp (.vcmpEq t d a x k z) (fun e => o e = some .eq) (fun e => A e = B e) ∧
    cmp (.vcmpLt t d a x k z) (fun e => o e = some .lt) (fun e => (A e).toInt < (B e).toInt) ∧
    cmp (.vcmpLe t d a x k z) (fun e => o e = some .lt ∨ o e = some .eq) (fun e => (A e).toInt ≤ (B e).toInt) ∧
    (∃ v, GivesK (.vcmpUnord 0 d a x k z) s (s.pushVcq (maskReg d)) d v ∧
      ∀ e < 32, (v.getLsbD e = true ↔ (s.rdK k).getLsbD e = true ∧ o e = none)) ∧
    (s.TrapsAlone → t ≠ 0 → Traps (.vcmpUnord t d a x k z) s tIllegal (s.word.setWidth 64) 0) ∧
    GivesK (.kand d ka kb) s s d (s.rdK ka &&& s.rdK kb) ∧
    GivesK (.kor d ka kb) s s d (s.rdK ka ||| s.rdK kb) ∧
    GivesK (.knot d ka) s s d (s.rdK ka ^^^ 0xFFFFFFFF#32) ∧
    GivesK (.kmovKk d ka) s s d (s.rdK ka) ∧
    GivesK (.kmovKs d a) s s d ((s.rdS a).setWidth 32) ∧
    GivesS (.kmovSk sd ka) s sd (BitVec.ofNat 64 (s.rdK ka).toNat) ∧
    (∃ v, GivesS (.kpop sd ka) s sd v ∧ v.toNat = ((List.range 32).filter (fun e => (s.rdK ka).getLsbD e)).length)

/-- R201: the data-moving forms. -/
def Sys2Proof.Claim.VectorMoves : Prop :=
  ∀ (s : State) (t : BitVec 2) (d a x n : BitVec 5) (k : BitVec 3) (z : BitVec 1),
    let A := fun (e : Nat) => lane (s.rdV a) e
    let sx := (s.rdS x).setWidth 32
    let w := if t = 1 ∨ t = 2 then 16 else 32
    let gives := fun (i : Instr) (f : Nat → Word32) => ∃ v, GivesV i s (s.pushVcq [d.toNat]) d v 0 ∧ ∀ e < 32, lane v e = f e
    gives (.vsel d a x k z) (fun e => if (s.rdK k).getLsbD e then A e else if z = 1 then sx else lane (s.rdV x) e) ∧
    gives (.vperm d a x 0) (fun e => A ((lane (s.rdV x) e).toNat % 32)) ∧
    gives (.vperm d a x 1) (fun e => A ((e + (s.rdS x).toNat % 32) % 32)) ∧
    gives (.vins d n x) (fun e => if e = n.toNat then sx else lane (s.rdV d) e) ∧
    GivesLanes (.vbcast t d x k) s (s.pushVcq [d.toNat]) d w k (fun _ => ((s.rdS x).toNat % 2 ^ w, 0)) ∧
    GivesS (.vext d a n) s d (BitVec.ofNat 64 (A n.toNat).toNat)

/-- R191 to R203: mask results and vector moves. -/
def Obligations.MasksAndMoves : Prop := Claim.MaskResults ∧ Claim.VectorMoves

/-- R202, R203: reductions of a batch and dot products. Inactive lanes enter a sum as +0 and are ignored by MIN and MAX; with no active
lane the result is the identity. -/
def Sys2Proof.Claim.VectorReductions : Prop :=
  ∀ (s : State) (t : BitVec 2) (d a b : BitVec 5) (k : BitVec 3), let m := s.rdK k
    let g : FFmt := if t = 1 then .f16 else if t = 2 then .bf16 else .f32
    let w := if t = 1 ∨ t = 2 then 16 else 32
    let L := fun (e : Nat) => if w = 32 then lane (s.rdV a) e else widen (g.value (elemOf (s.rdV a) 16 e))
    let acc : Word32 := (s.rdS d).setWidth 32
    let i8 := fun (v : VReg) (e : Nat) => (BitVec.ofNat 8 (elemOf v 8 e)).toInt
    let gives := fun (i : Instr) (v : Word) (fl : Flags) => GivesSF i s d v (s.th.r.fp ||| fl) s.th.r.seed
    let floatElems := fun (g : FFmt) (w : Nat) (v : VReg) (masked : Bool) => (List.range (1024 / w)).map
      (fun e => if masked && !m.getLsbD (w * e / 32) then FV.fin false 0 0 else g.value (elemOf v w e))
    (t = 3 →
      (gives (.vred t d a 0 k)
        ((BitVec.ofNat 32 (((List.range 32).filter (fun e => m.getLsbD e)).map (fun e => (L e).toNat)).sum).signExtend 64) 0) ∧
      (∃ v, gives (.vred t d a 1 k) v 0 ∧ (∀ e < 32, m.getLsbD e = true → v.toInt ≤ (L e).toInt) ∧
        (v.toInt = 2 ^ 31 - 1 ∨ ∃ e < 32, m.getLsbD e = true ∧ v.toInt = (L e).toInt)) ∧
      (∃ v, gives (.vred t d a 2 k) v 0 ∧ (∀ e < 32, m.getLsbD e = true → (L e).toInt ≤ v.toInt) ∧
        (v.toInt = -2 ^ 31 ∨ ∃ e < 32, m.getLsbD e = true ∧ v.toInt = (L e).toInt)) ∧
      (gives (.vdot t d a b k) ((BitVec.ofInt 32 (acc.toInt +
        ((List.range 128).map (fun e => if m.getLsbD (e / 4) then i8 (s.rdV a) e * i8 (s.rdV b) e else 0)).sum)).signExtend 64) 0)) ∧
    (t ≠ 3 →
      (let r := tree32 ((List.range 32).map (fun e => if m.getLsbD e then f32 (L e) else .fin false 0 0))
       gives (.vred t d a 0 k) (0#32 ++ r.1) r.2) ∧
      (∃ v : Word32, gives (.vred t d a 1 k) (0#32 ++ v) 0 ∧
        ((∃ e < 32, m.getLsbD e = true ∧ f32 (L e) = .nan) → v = 0x7FC00000#32) ∧
        ((∀ e < 32, m.getLsbD e = true → f32 (L e) ≠ .nan) → (v = 0x7F800000#32 ∨ ∃ e < 32, m.getLsbD e = true ∧ v = L e) ∧
          ∀ e < 32, m.getLsbD e = true → (f32 (L e)).below (f32 v) = false)) ∧
      (∃ v : Word32, gives (.vred t d a 2 k) (0#32 ++ v) 0 ∧
        ((∃ e < 32, m.getLsbD e = true ∧ f32 (L e) = .nan) → v = 0x7FC00000#32) ∧
        ((∀ e < 32, m.getLsbD e = true → f32 (L e) ≠ .nan) → (v = 0xFF800000#32 ∨ ∃ e < 32, m.getLsbD e = true ∧ v = L e) ∧
          ∀ e < 32, m.getLsbD e = true → (f32 v).below (f32 (L e)) = false)) ∧
      (let r := dotAccumulate (32 / w) acc ((floatElems g w (s.rdV a) true).zip (floatElems g w (s.rdV b) false))
       t = 0 → gives (.vdot t d a b k) (0#32 ++ r.1) r.2) ∧
      (let r := dotAccumulate 2 acc ((floatElems g w (s.rdV a) true).zip (floatElems g w (s.rdV b) false))
       t ≠ 0 → gives (.vdot t d a b k) (0#32 ++ r.1) r.2)) ∧
    (let code : BitVec 6 := (s.rdS b).setWidth 6
     (∀ sg ext p, formatOf code = .flt (.b8 sg ext p) →
       let r := dotAccumulate 4 acc ((floatElems (.b8 sg ext p) 8 (s.rdV a) true).zip (floatElems (.b8 sg ext p) 8 (s.rdV (a + 1)) false))
       gives (.vdotb d a b k) (0#32 ++ r.1) r.2) ∧
     (s.TrapsAlone → (∀ sg ext p, formatOf code ≠ .flt (.b8 sg ext p)) → Traps (.vdotb d a b k) s tFormat 0 (BitVec.ofNat 64 code.toNat))) ∧
    (s.TrapsAlone → Traps (.vred t d a 3 k) s tIllegal (s.word.setWidth 64) 0)

/-- R204, R206: scans. An active lane of a wrapping integer scan is the sum, minimum or maximum of the active lanes up to it; a floating
lane is that of the five steps of R48 with inactive lanes at the identity. An inactive lane keeps its value. -/
def Sys2Proof.Claim.VectorScans : Prop :=
  ∀ (s : State) (t : BitVec 2) (d a : BitVec 5) (r : BitVec 3) (k : BitVec 3), let m := s.rdK k
    let g : FFmt := if t = 1 then .f16 else if t = 2 then .bf16 else .f32
    let L := fun (v : VReg) (e : Nat) => if t = 1 ∨ t = 2 then widen (g.value (elemOf v 16 e)) else lane v e
    let mode := if r = 7 then s.th.r.rmode else r
    let rm : RM := if mode = 1 then .rtz else if mode = 2 then .rdn else if mode = 3 then .rup else .rne
    let upTo := fun (e : Nat) => (List.range (e + 1)).filter (fun j => m.getLsbD j)
    let scanned := fun (i : Instr) (f : Nat → Word32) => ∃ v, GivesV i s (s.pushVcq [d.toNat]) d v 0 ∧
      ∀ e < 32, lane v e = if m.getLsbD e then f e else lane (s.rdV d) e
    let flagged := fun (l : List Flags) (fl : Flags) => ∀ b < 4, (fl.getLsbD b = true ↔ ∃ e < 32, m.getLsbD e = true ∧ (l.getD e 0).getLsbD b = true)
    (t = 3 →
      scanned (.vscan t d a 0 0 k) (fun e => BitVec.ofNat 32 ((upTo e).map (fun j => (lane (s.rdV a) j).toNat)).sum) ∧
      (∃ f, scanned (.vscan t d a 0 1 k) f ∧ ∀ e < 32, m.getLsbD e = true → (∃ j ∈ upTo e, f e = lane (s.rdV a) j) ∧
        ∀ j ∈ upTo e, (f e).toInt ≤ (lane (s.rdV a) j).toInt) ∧
      (∃ f, scanned (.vscan t d a 0 2 k) f ∧ ∀ e < 32, m.getLsbD e = true → (∃ j ∈ upTo e, f e = lane (s.rdV a) j) ∧
        ∀ j ∈ upTo e, (lane (s.rdV a) j).toInt ≤ (f e).toInt)) ∧
    (t ≠ 3 → r ≠ 4 → r ≠ 5 → r ≠ 6 →
      let q := scanAll (f32Add rm) ((List.range 32).map (fun e => if m.getLsbD e then L (s.rdV a) e else 0x80000000#32))
      ∃ v fl, GivesV (.vscan t d a r 0 k) s (s.pushVcq [d.toNat]) d v fl ∧ flagged (q.map (fun p => p.2)) fl ∧
        ∀ e < 32, lane v e = if m.getLsbD e then (q.getD e (0, 0)).1 else lane (s.rdV d) e) ∧
    (t ≠ 3 →
      (∃ f, scanned (.vscan t d a 0 1 k) f ∧ ∀ e < 32, m.getLsbD e = true → (∀ j ∈ upTo e, f32 (L (s.rdV a) j) ≠ .nan) →
        ∀ j ∈ upTo e, (f32 (L (s.rdV a) j)).below (f32 (f e)) = false) ∧
      (∃ f, scanned (.vscan t d a 0 2 k) f ∧ ∀ e < 32, m.getLsbD e = true → (∀ j ∈ upTo e, f32 (L (s.rdV a) j) ≠ .nan) →
        ∀ j ∈ upTo e, (f32 (f e)).below (f32 (L (s.rdV a) j)) = false)) ∧
    (t ≠ 3 → d.toNat < 31 → a.toNat < 31 → d ≠ a + 1 → a ≠ d + 1 →
      let q := scanAll composePair ((List.range 32).map
        (fun e => if m.getLsbD e then (L (s.rdV a) e, L (s.rdV (a + 1)) e) else (0x3F800000#32, 0x80000000#32)))
      ∃ v u fl, GivesVV (.vscanlr t d a k) s (s.pushVcq [d.toNat, (d + 1).toNat]) d v u fl ∧ flagged (q.map (fun p => p.2)) fl ∧
        ∀ e < 32, lane v e = (if m.getLsbD e then (q.getD e ((0, 0), 0)).1.1 else lane (s.rdV d) e) ∧
          lane u e = (if m.getLsbD e then (q.getD e ((0, 0), 0)).1.2 else lane (s.rdV (d + 1)) e)) ∧
    (s.TrapsAlone → t = 3 ∨ d = 31 ∨ a = 31 ∨ d = a + 1 ∨ a = d + 1 → Traps (.vscanlr t d a k) s tIllegal (s.word.setWidth 64) 0)

/-- R203 to R206: reductions and scans. -/
def Obligations.ReductionsAndScans : Prop := Claim.VectorReductions ∧ Claim.VectorScans

/-- R205: VTOPK lists the active lanes in descending order, ties and NaNs by lane, and fills what is left of both registers. -/
def Obligations.VectorRanking : Prop :=
  ∀ (s : State) (t : BitVec 2) (d a : BitVec 5) (c : BitVec 2) (k : BitVec 3), let m := s.rdK k
    let A := fun (e : Nat) => lane (s.rdV a) e
    let nan := fun (x : Word32) => t = 0 ∧ f32 x = .nan
    let below := fun (x y : Word32) => if t = 3 then x.toInt < y.toInt else ¬nan y ∧ (nan x ∨ FV.cmp (f32 x) (f32 y) = some .lt)
    let active := (List.range 32).filter (fun e => m.getLsbD e)
    let n := min (8 * 2 ^ c.toNat) active.length
    (t = 0 ∨ t = 3 → c ≠ 3 → d ≠ 31 → a ≠ d + 1 →
      ∃ v u, GivesVV (.vtopk t d a c k) s (s.pushVcq [d.toNat, (d + 1).toNat]) d v u 0 ∧
        (∀ e < 32, n ≤ e → lane u e = 0xFFFFFFFF#32 ∧ lane v e = if t = 0 then 0x7FC00000#32 else 0x80000000#32) ∧
        (∀ e < n, (lane u e).toNat ∈ active ∧
          (lane v e = if nan (A (lane u e).toNat) then 0x7FC00000#32 else A (lane u e).toNat)) ∧
        (∀ e < n, ∀ f < n, e < f → let x := (lane u e).toNat; let y := (lane u f).toNat
          ¬below (A x) (A y) ∧ (¬below (A y) (A x) → x < y)) ∧
        ∀ y ∈ active, (∀ e < n, (lane u e).toNat ≠ y) → ∀ e < n, ¬below (A (lane u e).toNat) (A y)) ∧
    (s.TrapsAlone → t = 1 ∨ t = 2 ∨ c = 3 ∨ d = 31 ∨ a = d + 1 → Traps (.vtopk t d a c k) s tIllegal (s.word.setWidth 64) 0)

/-- R207, R208: conversions take the batch in increasing order, one generator step for each active element under SR, and write part q of
the narrow register or the wide lanes; VSF is a function of the lane and rm. -/
def Obligations.VectorConversions : Prop :=
  ∀ (s : State) (r : BitVec 3) (q : BitVec 2) (d a x : BitVec 5) (k : BitVec 3) (z : BitVec 1) (f : BitVec 4), let m := s.rdK k
    let c := cvtFormat x
    let w := c.2.1
    let n := c.2.2.1
    let mode := (if r = 7 then s.th.r.rmode else r).toNat
    let rm : RM := if mode = 1 then .rtz else if mode = 2 then .rdn else if mode = 3 then .rup else .rne
    let pair := fun (b : BitVec 5) (e : Nat) => lane (s.rdV (if e < 32 then b else b + 1)) (e % 32)
    let ok := r ≠ 5 ∧ r ≠ 6 ∧ q.toNat < c.2.2.2 ∧ (x = 16 → d ≠ 31 ∧ a ≠ 31)
    let gives := fun (i : Instr) (regs : List Nat) (fl : Flags) (seed : Word) (P : (BitVec 5 → VReg) → Prop) =>
      ∃ t, exec i s = .next t ∧ (s.pushVcq regs).Retired t { s.th.r.next with v := t.th.r.v, fp := s.th.r.fp ||| fl, seed := seed } ∧ P t.rdV
    (ok →
      let y := cvtBatch (fun seed v => cvtFrom c.1 mode (decide (z = 1)) seed (BitVec.ofNat 32 v)) m
        ((List.range n).map (fun e => (e, (pair a e).toNat, elemOf (s.rdV d) w (q.toNat * n + e)))) s.th.r.seed
      gives (.vcvtFromF32 r q d a x k z) [d.toNat] y.1.2 y.2 (fun v => (∀ b, b ≠ d → v b = s.rdV b) ∧
        ∀ e < 1024 / w, elemOf (v d) w e = if q.toNat * n ≤ e ∧ e < q.toNat * n + n then y.1.1.getD (e - q.toNat * n) 0 % 2 ^ w
          else elemOf (s.rdV d) w e)) ∧
    (ok →
      let y := cvtBatch (fun seed v => cvtTo c.1 mode seed v) m
        ((List.range n).map (fun e => (e, elemOf (s.rdV a) w (q.toNat * n + e), (pair d e).toNat))) s.th.r.seed
      gives (.vcvtToF32 r q d a x k) (if n = 64 then [d.toNat, (d + 1).toNat] else [d.toNat]) y.1.2 y.2 (fun v => (∀ b, b ≠ d → (n = 64 → b ≠ d + 1) → v b = s.rdV b) ∧
        ∀ e < n, lane (v (if e < 32 then d else d + 1)) (e % 32) = BitVec.ofNat 32 (y.1.1.getD e 0))) ∧
    (∀ g, r ≠ 4 → r ≠ 5 → r ≠ 6 → specialFn f.toNat = some g →
      GivesLanes (.vsf f d a r k) s (s.pushSfq d.toNat) d 32 k
        (fun e => let y := specialLane g rm (lane (s.rdV a) e); (y.1.toNat, y.2))) ∧
    (s.TrapsAlone →
      (r = 5 ∨ r = 6 ∨ c.2.2.2 ≤ q.toNat → Traps (.vcvtFromF32 r q d a x k z) s tIllegal (s.word.setWidth 64) 0 ∧
        Traps (.vcvtToF32 r q d a x k) s tIllegal (s.word.setWidth 64) 0) ∧
      (9 ≤ f.toNat ∨ r = 4 → Traps (.vsf f d a r k) s tIllegal (s.word.setWidth 64) 0))

/-- R211 to R215, R289: the vector loads write the active lanes that reach memory, VGATH the fill value to its lanes out of bounds, and the
other lanes keep their values; the stores write the active lanes and no other byte. `key` says where each lane's bytes lie. In local store an
access is complete in its own step; in the bank memory of a cluster, `cl`, it queues one request for each block that it touches, in address order,
whatever the rights of its segment, and the instruction goes on with what they gave. VFENCE retires once the thread has no earlier vector work (R195). -/
def Obligations.VectorMemory : Prop :=
  ∀ (s : State) (d a x : BitVec 5) (k : BitVec 3) (key : Nat → Nat) (cl : Nat) (w : Got),
    let p := s.rdS a
    let sx := s.rdS x
    let m := s.rdK k
    let inLs := fun (b : Nat) => isLs b && decide (b % 4 = 0)
    let inBank := fun (b : Nat) => isBank b && decide (keyCluster b = cl) && decide (b % 4 = 0)
    let idx := fun (e : Nat) => (lane (s.rdV (d + 1)) e).toInt
    let inside := fun (e : Nat) => m.getLsbD e && decide (0 ≤ idx e) && decide (idx e < sx.toNat % 2 ^ 32)
    let lanes := fun (act : Nat → Bool) => (List.range 32).filter act
    let pieces := fun (act : Nat → Bool) => (lanes act).map (fun e => (key e, 4))
    let reach := fun (act : Nat → Bool) (off : Nat → Int) (rights : Nat) (write : Bool) => ∀ e < 32, act e = true →
      ∃ l, (check p (off e) 4 4 rights anySpace).run s = (.ok l, s) ∧ (placeOf l 4 rights write).run s = (.ok [(key e, 4)], s)
    let whole := fun (rights : Nat) => ∃ l, (check p sx.toInt 128 32 rights anySpace).run s = (.ok l, s)
    let all := fun (act : Nat → Bool) (f : Nat → Bool) => ∀ e < 32, act e = true → f (key e) = true
    let waits := fun (i : Instr) (ops : List Micro) => Awaits i s s ops
    let got := fun (act : Nat → Bool) => lanes act ≠ [] ∧ s.WentOn ((lanes act).map (fun e => { pieces := [(key e, 4)] }) ++ [w])
    let loads := fun (i : Instr) (act : Nat → Bool) (off : Nat → Int) (other : Nat → Word32) =>
      let wrote := fun (v : Nat → Nat) => ∃ t, exec i s = .next t ∧ s.Retired t { s.th.r.next with v := t.th.r.v } ∧
        (∀ n, n ≠ d → t.rdV n = s.rdV n) ∧
        ∀ e < 32, lane (t.rdV d) e = if act e then BitVec.ofNat 32 (v e) else other e
      (s.Calm → reach act off rR false → all act inLs → wrote (fun e => s.readLE (key e) 4)) ∧
      (s.Calm → reach act off rR false → all act inBank → lanes act ≠ [] → waits i ((splitPieces (pieces act)).map Micro.read)) ∧
      (got act → w.bytes.length = 4 * (lanes act).length →
        wrote (fun e => leNat ((w.bytes.drop (4 * ((lanes act).takeWhile (fun f => f ≠ e)).length)).take 4)))
    let stores := fun (i : Instr) (act : Nat → Bool) (off : Nat → Int) =>
      let cells := layOver (pieces act) ((lanes act).flatMap (fun e => leBytes 4 (lane (s.rdV d) e).toNat))
      (s.Calm → reach act off rW true → all act inLs → ∃ t, exec i s = .next t ∧ s.RetiredMem t s.th.r.next ∧ t.full = s.full ∧
        (∀ b, (∀ e < 32, act e = true → b < key e ∨ key e + 4 ≤ b) → t.byte b = s.byte b) ∧
        ∀ e < 32, act e = true → (∀ f < 32, e < f → act f = true → key f + 4 ≤ key e ∨ key e + 4 ≤ key f) →
          t.readLE (key e) 4 = (lane (s.rdV d) e).toNat) ∧
      (s.Calm → reach act off rW true → all act inBank → lanes act ≠ [] → waits i ((splitCells cells).map Micro.write)) ∧
      (got act → ∃ t, exec i s = .next t ∧ s.Retired t s.th.r.next)
    let on := fun (e : Nat) => m.getLsbD e
    let keep := fun (e : Nat) => lane (s.rdV d) e
    (whole rR → loads (.vld d a x k) on (fun e => sx.toInt + 4 * e) keep) ∧
    loads (.vlds d a x k) on (fun e => e * sx.toInt) keep ∧
    (d ≠ 31 → loads (.vgath d a x k) inside (fun e => 4 * idx e)
      (fun e => if m.getLsbD e then BitVec.ofNat 32 (sx.toNat / 2 ^ 32) else keep e)) ∧
    (whole rW → stores (.vst d a x k) on (fun e => sx.toInt + 4 * e)) ∧
    stores (.vsts d a x k) on (fun e => e * sx.toInt) ∧
    (d ≠ 31 → stores (.vscat d a x k) inside (fun e => 4 * idx e)) ∧
    (s.vectorBusy s.cur = false → ∃ t, exec .vfence s = .next t ∧ s.Retired t s.th.r.next) ∧
    (s.vectorBusy s.cur = true → s.th.st ≠ .saving → ∃ t, exec .vfence s = .next t ∧ s.Parked t (.work .vectors))

/-! Bank memory and the wheels (07). -/

/-- R164, R180, R181, R183: BLD and BST queue one request and park; when it has met its bank BLD replaces quarter q of vd with the 32 bytes that it
gave, and BST's quarter has been stored. WPHASE names the first cycle from the second one on in which a strong access would meet its bank, and
BMAPRD reads an entry of the bank map beside N. -/
def Sys2Proof.Claim.BankAccesses : Prop :=
  ∀ (s : State) (d a : BitVec 5) (q c : BitVec 2) (o : BitVec 10) (w : BitVec 12) (i : BitVec 6) (key : Nat) (g : Got),
    let at0 := fun (rights : Nat) (write : Bool) => s.Reaches (s.rdS a) (o.toInt * 32) 32 32 rights only12 write key s
    (s.Calm → key % 32 = 0 → at0 rR false → Queues (.bld d a q o) s s (.read [(key, 32)])) ∧
    (s.WentOn [{ pieces := [(key, 32)] }, g] → g.bytes.length = 32 →
      ∃ t, exec (.bld d a q o) s = .next t ∧ s.Retired t { s.th.r.next with v := t.th.r.v } ∧ ∀ n, ∀ e < 32,
        lane (t.rdV n) e = if n = d ∧ e / 8 = q.toNat then BitVec.ofNat 32 (leNat ((g.bytes.drop (4 * (e % 8))).take 4)) else lane (s.rdV n) e) ∧
    (s.Calm → key % 32 = 0 → at0 rW true →
      Queues (.bst d a q o) s s (.write (layOver [(key, 32)] (leBytes 32 ((s.rdV d).toNat / 2 ^ (256 * q.toNat)))))) ∧
    (s.WentOn [{ pieces := [(key, 32)] }, g] → ∃ t, exec (.bst d a q o) s = .next t ∧ s.Retired t s.th.r.next) ∧
    (∀ l, (check (s.rdS a) (w.toInt * 32) 32 32 0 only12).run s = (.ok l, s) →
      let g := if segSpace l.seg = 1 then s.clusterNo % 4 else segCluster l.seg
      let b := (s.cluster (4 * s.regionNo + g)).home (segBase l.seg + l.eo)
      let rg := s.region s.regionNo
      let meets := fun (u : Nat) => rg.meets (s.clusterNo % 4) g (s.coreNo % 64) b u
      ∃ u, GivesS (.wphase d a w) s d (BitVec.ofNat 64 u) ∧ rg.clock + 2 ≤ u ∧ (∀ v, rg.clock + 2 ≤ v → v < u → meets v = false) ∧
        (u < rg.clock + 2 + 4608 → meets u = true)) ∧
    (let k := s.cluster (4 * s.regionNo + c.toNat)
     let n := 64 - k.retired.length
     GivesS (.bmaprd d c i) s d (BitVec.ofNat 64 (256 * n + if i.toNat < n then
       128 + (((List.range 64).filter (fun b => !k.retired.contains b)).getD i.toNat 0) else 0)))

/-- R172, R173: WHEELSET reads the head of an image and then the rest, and loads a valid image as the shadow of the region, to take effect at the
first cycle after this one that ends a revolution of both tables; WHEEL_SWAP makes it the table in effect. -/
def Sys2Proof.Claim.WheelTables : Prop :=
  ∀ (s s' : State) (a : BitVec 5) (key : Nat) (p1 p2 : List (Nat × Nat)) (v w : Got),
    let n := fun (head : List Byte) => 128 + 256 * (head.headD 0).toNat
    let at0 := fun (n : Nat) => s.Reaches (s.rdS a) 0 n 64 rR anySpace false key s
    let r := s.regionNo
    let g := s.region r
    let old := g.wheel.pi * g.wheel.po
    let inside := fun (n : Nat) => s.limitOk s.clusterNo (s.th.r.rdG (ptrSeg (s.rdS a))) (ptrOff (s.rdS a)) n = true
    let loads := fun (image : List Byte) => let w := wheelOf image
      w.valid = true → 0 < old → 0 < w.pi * w.po →
      ∃ t u, exec (.wheelset a) s = .next t ∧ s.Retired { t with regions := s.regions } s.th.r.next ∧
        (∀ q, t.region q = if q = r then { g with shadow := some w, swapAt := u } else s.region q) ∧
        g.clock < u ∧ u % old = 0 ∧ u % (w.pi * w.po) = 0 ∧
        ∀ v, g.clock < v → v % old = 0 → v % (w.pi * w.po) = 0 → u ≤ v
    (s.th.id.priv = true → s.Calm → isLs key = true → headOk (s.bytes key 128) = true → at0 128 → at0 (n (s.bytes key 128)) →
      loads (s.bytes key (n (s.bytes key 128)))) ∧
    (s.th.id.priv = true → p1 ≠ [] → p2 ≠ [] → s.WentOn [{ pieces := p1 }, v, { pieces := p2 }, w] → headOk v.bytes = true → inside (n v.bytes) →
      loads (v.bytes ++ w.bytes)) ∧
    (s.th.id.priv = true → s'.Calm → isLs key = false → key % 128 = 0 →
      (∃ l, (check (s.rdS a) 0 128 64 rR anySpace).run s = (.ok l, s) ∧ (placeOf l 128 rR false).run s = (.ok [(key, 128)], s')) →
      ∃ t, exec (.wheelset a) s = .next t ∧ t.th.st = .parked ∧ t.th.w.park = .access ∧ t.th.r = s.th.r ∧
        (t.relReqs s.cur).map (fun q => q.op) = (splitPieces [(key, 128)]).map Micro.read) ∧
    (∀ q x, (s.region q).shadow = some x → (s.region q).swapAt ≤ (s.region q).clock →
      exec (.wheelSwap q) s = .next (s.setRegion q { s.region q with wheel := x, shadow := none, swapAt := 0 }))

/-- R175, R176: BANKRET in a privileged thread answers 2, 3 or 1 or parks; its completion retires the bank, zeroises the whole group and
leaves the thread READY with status 0. -/
def Sys2Proof.Claim.BankRetirement : Prop :=
  ∀ (s : State) (d : BitVec 5) (c : BitVec 2) (b : BitVec 6), let k := 4 * s.regionNo + c.toNat
    let gone := (s.cluster k).retired.contains b.toNat
    let few := 64 - (s.cluster k).retired.length ≤ 32
    (s.th.id.priv = true →
      (gone = true → GivesS (.bankret d c b) s d 2) ∧
      (gone = false → few → GivesS (.bankret d c b) s d 3) ∧
      (gone = false → ¬few → s.clusterIdle k = false → GivesS (.bankret d c b) s d 1) ∧
      (gone = false → ¬few → s.clusterIdle k = true → s.th.st ≠ .saving → ∃ t, exec (.bankret d c b) s = .next t ∧
        s.Parked t (.bankret d.toNat k b.toNat))) ∧
    (∀ x y z u, (s.getT u).w.park = .bankret x y z → (s.getT u).st = .parked →
      ∃ t, exec (.bankretComplete u) s = .next t ∧ t.cluster y = { s.cluster y with retired := (s.cluster y).retired ++ [z] } ∧
        (∀ j, t.byte j = if inBank y j then 0 else s.byte j) ∧
        t.getT u = { s.getT u with
          st := .ready, r := ((s.getT u).r.wrS x 0).next, is := (s.getT u).is.done, w := (s.getT u).w.over } ∧
        (∀ j, j ≠ u → t.getT j = s.getT j) ∧ t.cores = s.cores ∧ t.regions = s.regions ∧ t.full = s.full)

/-- R157 to R182: bank-memory forms, wheel tables and bank retirement. -/
def Obligations.BankMemory : Prop := Claim.BankAccesses ∧ Claim.WheelTables ∧ Claim.BankRetirement

/-- R126, R161, R163, R164, R167, R170, R288, R290: a queued request is performed when its sequencer, wheel, far-port or memory-controller event
takes place: a store's bytes are written, what a read gives reaches its thread, and the request leaves its queue. A port serves in each cycle the
first, by cycle, then slot, of its placed requests that meet and follow no earlier one of their thread to the same bytes (R146), and loses the cycle
where none does; a far meeting comes after the near ones of its cycle. A request that waits for a place takes it. -/
def Sys2Proof.Claim.QueuedAccesses : Prop :=
  ∀ (s : State) (c : Nat) (a b : List RelReq) (q : RelReq),
    let x := s.core c
    let r := regionOf c
    let rg := s.region r
    let now := rg.clock
    let own := clusterOf c % 4
    let unmarked := s.poison = [] ∧ s.upsets = []
    let ownOf := fun (k : Nat) (y : RelReq) => y.lseg = false ∧ y.dst = none ∧ y.cvt = none ∧ coreOf y.who = k
    let alone := fun (l : List RelReq) (y : RelReq) => ∀ z ∈ l.takeWhile (fun z => decide (z ≠ y)), z.who = y.who → z.clash y = false
    let wrote := fun (i : Instr) (x' : Core) (keeps : Nat → Prop) => ∀ cells, q.op = .write cells → q.strong = false → unmarked → ownOf c q →
      ∃ t, exec i s = .next t ∧ t.mem = (s.setCells cells).mem ∧ t.full = s.full ∧ t.core c = x' ∧ t.regions = s.regions ∧
        (∀ k, keeps k → t.core k = s.core k) ∧ ∀ k, (t.getT k).r = (s.getT k).r ∧ (t.getT k).st = (s.getT k).st
    let gave := fun (i : Instr) (x' : Core) (keeps : Nat → Prop) => ∀ l, q.op = .read l → q.strong = true → unmarked → ownOf c q →
      s.runs q.who q.task = true →
      ∃ t, exec i s = .next t ∧ t.mem = s.mem ∧ t.full = s.full ∧ t.core c = x' ∧ t.regions = s.regions ∧
        (∀ k, keeps k → t.core k = s.core k) ∧ ∀ k, t.getT k = if k = q.who then
            { s.getT k with w := { (s.getT k).w with acc := (s.getT k).w.acc.take q { bytes := s.piecesBytes l } now } }
          else s.getT k
    let performed := fun (i : Instr) (x' : Core) => wrote i x' (fun k => k ≠ c) ∧ gave i x' (fun k => k ≠ c)
    let performedFar := fun (i : Instr) (x' : Core) => wrote i x' (fun k => regionOf k ≠ r) ∧ gave i x' (fun k => regionOf k ≠ r)
    let sooner := fun (y q : RelReq) => y.cycle < q.cycle ∨ (y.cycle = q.cycle ∧ y.who < q.who)
    let first := fun (ok : RelReq → Prop) => ok q ∧ (∀ y ∈ a, ok y → sooner q y) ∧ ∀ y ∈ b, ok y → ¬sooner y q
    let nearOf := fun (k : Nat) (y : RelReq) => y.placed = true ∧ y.cycle ≤ now ∧ alone (s.core k).wheel y ∧
      s.reqBank y = (rg.wheelAt now).bank (clusterOf k % 4) (now % (rg.wheelAt now).pi) (k % 64)
    let near := nearOf c
    let far := fun (y : RelReq) => y.placed = true ∧ y.cycle ≤ now ∧ alone x.far y ∧ rg.meets own (keyCluster y.op.key % 4) (c % 64) (s.reqBank y) now = true
    let room := fun (l : List RelReq) (y : RelReq) => y.placed = false ∧ placedOf y.who l < 32
    let placed := { q with placed := true, cycle := max q.cycle (now + 1) }
    let isNear := isLs q.op.key = false ∧ isBank q.op.key = true ∧ q.isFar = false
    let isFarOff := isLs q.op.key = false ∧ isBank q.op.key = true ∧ q.isFar = true
    (isLs q.op.key = true → x.seq = q :: b → performed (.lsAccessPerform c) { x with seq := b }) ∧
    (isLs q.op.key = false → isBank q.op.key = false → x.mem = a ++ q :: b → q ∉ a → (∀ y ∈ a, y.who = q.who → y.clash q = false) →
      ∀ z, z % 2 ^ 16 = c → z / 2 ^ 16 = a.length → performed (.memoryControllerAccess z) { x with mem := a ++ b }) ∧
    (isNear → x.wheel = a ++ q :: b → x.met ≤ now → first near → performed (.wheelMeeting c) { x with wheel := a ++ b, met := now + 1 }) ∧
    (x.met ≤ now → (∀ y ∈ x.wheel, ¬near y) → exec (.wheelMeeting c) s = .next (s.setCore c { x with met := now + 1 })) ∧
    (now < x.met → exec (.wheelMeeting c) s = .next s) ∧
    (isFarOff → x.far = a ++ q :: b → x.farMet ≤ now → x.met ≤ now → (∀ k, regionOf k = r → (s.core k).wheel = []) →
      first far → performedFar (.farMeeting c) { x with far := a ++ b, met := now + 1, farMet := now + 1 }) ∧
    (∀ k y cells l, isFarOff → x.far = [q] → x.farMet ≤ now → far q → q.op = .read l → q.strong = true → unmarked → ownOf c q →
      s.runs q.who q.task = true → regionOf k = r → k ≠ c → (s.core k).wheel = [y] → (s.core k).met ≤ now → nearOf k y → y.op = .write cells →
      y.strong = false → ownOf k y → isLs y.op.key = false → isBank y.op.key = true → y.isFar = false →
      (∀ j, regionOf j = r → j ≠ k → (s.core j).wheel = []) →
      ∃ t, exec (.farMeeting c) s = .next t ∧ t.mem = (s.setCells cells).mem ∧ (t.core k).wheel = [] ∧ (t.core c).far = [] ∧
        (t.getT q.who).w.acc = (s.getT q.who).w.acc.take q { bytes := (s.setCells cells).piecesBytes l } now) ∧
    (x.wheel = a ++ q :: b → room x.wheel q → (∀ y ∈ a, ¬room x.wheel y) →
      exec (.requestPlace c) s = .next (s.setCore c { x with wheel := a ++ placed :: b })) ∧
    (x.far = a ++ q :: b → room x.far q → (∀ y ∈ a, ¬room x.far y) → (∀ y ∈ x.wheel, ¬room x.wheel y) →
      exec (.requestPlace c) s = .next (s.setCore c { x with far := a ++ placed :: b }))

/-- R193, R209, R233: a start takes the head of its queue. R182: WWAIT completes: it parks until the phase it names, no sooner than eight cycles
on, and at each such cycle its wake makes the thread READY after it. -/
def Sys2Proof.Claim.UnitStartsAndWwait : Prop :=
  ∀ (s : State) (c z : Nat) (a : BitVec 5) (i : BitVec 12) (q : UnitCmd) (m : MxCmd) (l : List UnitCmd) (h : List MxCmd), let x := s.core c
    exec (.vectorCommandStart c) s = .next (s.setCore c { x with u := { x.u with vcq := x.u.vcq.drop 1 } }) ∧
    (x.u.sfq = q :: l → s.runs q.who q.task = true → exec (.sfRequestStart c) s = .next (s.setCore c { x with u := { x.u with sfq := l } })) ∧
    (x.u.intake = m :: h → m.joint = [] → m.ready = true →
      exec (.matrixCommandStart c) s = .next (s.setCore c { x with u := { x.u with intake := h } })) ∧
    (let g := s.region s.regionNo
     let phase := (s.rdS a + BitVec.ofInt 64 i.toInt).toNat % g.wheel.pi
     s.th.st ≠ .saving →
      ∃ t, exec (.wwait a i) s = .next t ∧ s.Parked t (.wwait phase (g.clock + 8)) ∧
        (g.clock + 8 ≤ z → z % (g.wheelAt z).pi = phase →
          exec (.wwaitWake s.cur) (t.setRegion s.regionNo { g with clock := z }) = .next { s.setRegion s.regionNo { g with clock := z } with
            th := { s.th with st := .ready, r := s.th.r.next, is := s.th.is.done, w := { s.th.w.over with since := t.th.w.since } } }))

/-- R126, R163, R167, R170, R182, R193, R209, R233, R288: queued accesses, unit starts and WWAIT. -/
def Obligations.CoreQueueEvents : Prop := Claim.QueuedAccesses ∧ Claim.UnitStartsAndWwait

/-! Ends, fences and gangs (04, 12, 10). -/

/-- R96: TEXIT waits for its thread's relaxed accesses and unit commands; then it empties the slot, counts an ended task of its launch and
releases every unit the slot held; memory and the other threads are as before. -/
def Sys2Proof.Claim.TaskEnd : Prop :=
  ∀ (s : State), let n := taskKey s.th.id.task
    s.slotNo ≠ 15 → s.th.sp.act = false → s.th.sp.role = .none →
    (s.workDone s.cur .all = true → s.th.is.deferred = [] → s.th.en.gangN = 0 →
      ∃ t, exec .texit s = .next t ∧ t.th = {} ∧ t.cur = s.cur ∧ t.mem = s.mem ∧ t.full = s.full ∧ t.threads = s.threads ∧
        (t.launch n).ended = (s.launch n).ended + 1 ∧ (t.launch n).abandoned = (s.launch n).abandoned ∧
        (∀ l, l ≠ n → t.launch l = s.launch l) ∧ (∀ u, (t.core s.coreNo).u.holder u ≠ s.slotNo + 1) ∧
        (∀ u, (s.core s.coreNo).u.holder u ≠ s.slotNo + 1 → (t.core s.coreNo).u.holder u = (s.core s.coreNo).u.holder u) ∧
        ∀ c, c ≠ s.coreNo → t.core c = s.core c) ∧
    (s.workDone s.cur .all = false → s.th.st ≠ .saving → ∃ t, exec .texit s = .next t ∧ s.Parked t (.work .all))

/-- R80, R295, R296, R301: a fence retires once the thread's earlier work of its kind is performed, and parks before; a REL or FULL fence of SYSTEM
scope after host writes waits for the flushing read, whose return completes it. FENCE.NET retires when nothing of the thread is in the network.
ICSYNC empties the instruction buffers in its scope and what their cores still see of code. Reserved codes trap ILLEGAL. -/
def Sys2Proof.Claim.Fences : Prop :=
  ∀ (s : State) (z : BitVec 3) (k : BitVec 2) (c : Nat),
    let work : Work := if k = 0 then .reads else if k = 1 then .writes else .accesses
    let done := s.workDone s.cur work = true
    let awake := s.th.st ≠ .saving
    (s.th.sp.role = .none → done → z.toNat < 6 → k ≠ 3 → ¬(z = 5 ∧ k ≠ 0 ∧ s.th.w.hostDirty = true) →
      ∃ t, exec (.fence z k) s = .next t ∧ s.Retired t s.th.r.next) ∧
    (s.th.sp.role = .none → ¬done → z.toNat < 6 → k ≠ 3 → awake → ∃ t, exec (.fence z k) s = .next t ∧ s.Parked t (.work work)) ∧
    (s.th.sp.role = .none → done → z = 5 → k ≠ 0 → k ≠ 3 → s.th.w.hostDirty = true → awake →
      ∃ t, exec (.fence z k) s = .next t ∧ t.th.st = .parked ∧ t.th.w.park = .hostFlush ∧ t.th.r = s.th.r ∧ t.mem = s.mem ∧
        (t.core s.coreNo).flush = (s.core s.coreNo).flush ++ [s.cur]) ∧
    (s.TrapsAlone → 6 ≤ z.toNat ∨ k = 3 → Traps (.fence z k) s tIllegal (s.word.setWidth 64) 0) ∧
    (∀ u l, (s.core c).flush = u :: l → (s.getT u).st = .parked → (s.getT u).w.park = .hostFlush →
      exec (.hostReadReturn c) s = .next ((s.setCore c { s.core c with flush := l }).setT u { s.getT u with
        st := .ready, r := (s.getT u).r.next, is := (s.getT u).is.done,
        w := { (s.getT u).w.over with hostDirty := false } })) ∧
    (s.th.sp.role = .none → s.netQuiet s.cur = true → ∃ t, exec .fenceNet s = .next t ∧ s.Retired t s.th.r.next) ∧
    (s.th.sp.role = .none → s.netQuiet s.cur = false → awake → ∃ t, exec .fenceNet s = .next t ∧ s.Parked t .fenceNet) ∧
    (s.th.sp.role = .none → z.toNat < 6 →
      ∃ t, exec (.icsync z) s = .next t ∧ t.th.r = s.th.r.next ∧ t.mem = s.mem ∧
        (∀ j, (t.core j).code = if s.inScope z.toNat j then [] else (s.core j).code) ∧
        ∀ u, let inside := s.inScope z.toNat (coreOf u) && (decide (z ≠ 0) || decide (u = s.cur))
          (t.getT u).r = (if u = s.cur then s.th.r.next else (s.getT u).r) ∧
          (u ∈ s.threadKeys → inside = true → (t.getT u).is.ibuf = []) ∧ (inside = false → (t.getT u).is.ibuf = (s.getT u).is.ibuf)) ∧
    (s.TrapsAlone → 6 ≤ z.toNat → Traps (.icsync z) s tIllegal (s.word.setWidth 64) 0)

/-- R96, R295 to R301: TEXIT and the fences. -/
def Obligations.EndsAndFences : Prop := Claim.TaskEnd ∧ Claim.Fences

/-- R247, R250: GANG completes: it parks its thread until every member of the aligned group has issued it, and then all are READY after it with the
lowest member leading. A member that waits with another width, an undeclared level, or a gang that stands traps GANG. UNGANG completes in each
member, and with the last the gang is disbanded; outside a gang it traps GANG. -/
def Obligations.Gangs : Prop :=
  ∀ (s : State) (n : BitVec 8) (k : Nat),
    let declared := (s.launchOf s.cur).levels.any (fun l => l.domain = 7 && l.cores && l.width = n.toNat)
    let fits := n = 2 ∨ n = 4 ∨ n = 8
    let free := s.slotNo ≠ 15 ∧ s.th.sp.act = false ∧ s.th.sp.role = .none
    let mates := gangMembers s.cur n.toNat
    let others := fun (P : Nat → Prop) => ∃ u ∈ s.threadKeys, u ≠ s.cur ∧ ∃ m, s.gangWait u = some m ∧ (u ∈ mates ∨ s.cur ∈ gangMembers u m) ∧ P m
    let formed := fun (t u : State) (ms : List Nat) (k : Nat) => u.mem = t.mem ∧ u.cores = t.cores ∧
      (∀ m ∈ ms, (u.getT m).st = .ready ∧ (u.getT m).r = (t.getT m).r.next ∧ (u.getT m).en.gangN = n.toNat ∧
        (u.getT m).en.leader = ms.headD k ∧ (u.getT m).is.ibuf = []) ∧ ∀ m, m ∉ ms → u.getT m = t.getT m
    (fits → free → s.th.en.gangN = 0 → declared = true → ¬others (fun m => m ≠ n.toNat) → s.th.st ≠ .saving →
      ∃ t, exec (.gang n) s = .next t ∧ s.Parked t (.gang n.toNat) ∧
        ((∀ m ∈ mates, m ≠ s.cur → s.gangWait m = some n.toNat) → ∃ u, exec (.gangForm s.cur) t = .next u ∧ formed t u mates s.cur)) ∧
    (fits → free → s.th.en.gangN = 0 → declared = true → others (fun m => m ≠ n.toNat) → s.th.st ≠ .saving →
      ∃ t, exec (.gang n) s = .next t ∧ t.th.st = .frozen ∧ t.lastCode s.cur = tGang ∧ t.th.r = { s.th.r with pc := s.th.reportPc } ∧ t.mem = s.mem) ∧
    (fits → free → s.TrapsAlone → declared = false → Traps (.gang n) s tGang 0 0) ∧
    (¬fits → s.TrapsAlone → Traps (.gang n) s tIllegal (s.word.setWidth 64) 0) ∧
    (fits → (∀ m ∈ gangMembers k n.toNat, s.gangWait m = some n.toNat) → k ∈ gangMembers k n.toNat →
      ∃ t, exec (.gangForm k) s = .next t ∧ formed s t (gangMembers k n.toNat) k) ∧
    (let ms := gangMembers s.cur s.th.en.gangN
     s.th.sp.role = .none → s.th.en.gangN ≠ 0 →
      ((∃ m ∈ ms, m ≠ s.cur ∧ (s.getT m).is.delivered ≠ none) → ∃ t, exec .ungang s = .next t ∧ s.Retired t s.th.r.next) ∧
      (s.cur ∈ ms → (∀ m ∈ ms, m ≠ s.cur → (s.getT m).is.delivered = none) →
        ∃ t, exec .ungang s = .next t ∧ t.th.r = s.th.r.next ∧ t.th.en.gangN = 0 ∧ t.mem = s.mem ∧
          (∀ c, t.core c = { s.core c with u := { (s.core c).u with intake := (t.core c).u.intake } }) ∧
          ∀ m ∈ ms, (s.getT m).en.gangN = s.th.en.gangN → (s.getT m).en.leader = s.th.en.leader →
            (t.getT m).en.gangN = 0 ∧ (m ≠ s.cur → (t.getT m).r = (s.getT m).r))) ∧
    (s.TrapsAlone → Traps .ungang s tGang 0 0)

/-! The halyard (09). -/

/-- R217 to R220: a send puts one entry on its way to the successor, or discards it at position 63; a receive takes the oldest entry of the
slot, and zeros at position 0; XSCAN continues the chain. With no entry or no room a form parks. An entry that lands joins its slot's
buffer. That bytes 8 to 127 of HSEND's scalar entry are 0 is the model's choice (log 23): R217 to R220 do not say what they hold. -/
def Obligations.HalyardForms : Prop :=
  ∀ (s : State) (d a x : BitVec 5) (e : HalEntry) (l : List HalEntry) (i : Nat) (f : HalFlit),
    let first := s.halPos = 0
    let last := s.halPos = 63
    let room := s.halFull s.halNext = false
    let entry := fun (kind : Nat) (v : VReg) => ({ kind := kind, data := v, launch := taskKey s.th.id.task } : HalEntry)
    let sends := fun (i : Instr) (kind : Nat) (v : VReg) =>
      (last → ∃ t, exec i s = .next t ∧ s.Retired t s.th.r.next) ∧
      (¬last → room → ∃ t, exec i s = .next t ∧ t.th.r = s.th.r.next ∧ t.mem = s.mem ∧ t.threads = s.threads ∧
        ∃ g, t.hal = s.hal ++ [g] ∧ g.dst = s.halNext ∧ g.src = s.cur ∧ g.entry = entry kind v) ∧
      (¬last → s.halFull s.halNext = true → ∃ t, exec i s = .next t ∧ s.Parked t .hsend)
    let takes := fun (i : Instr) (r : Regs) (entry : HalEntry) =>
      (first → entry = {} → ∃ t, exec i s = .next t ∧ s.Retired t r) ∧
      (¬first → s.halBuf s.cur = entry :: l → ∃ t, exec i s = .next t ∧ t.th.r = r ∧ t.halBuf s.cur = l ∧ t.mem = s.mem ∧
        t.threads = s.threads ∧ t.hal = s.hal) ∧
      (¬first → s.halBuf s.cur = [] → ∃ t, exec i s = .next t ∧ s.Parked t .hrecv)
    (s.slotNo ≠ 15 → s.Calm →
      sends (.hsend x) 0 (BitVec.ofNat 1024 (s.rdS x).toNat) ∧ sends (.hsendv a) 1 (s.rdV a) ∧
      takes (.hrecv d) (s.th.r.wrS d.toNat (e.data.setWidth 64)).next e ∧
      takes (.hrecvv d) (s.th.r.wrV d.toNat (if e.kind = 1 then e.data else BitVec.ofNat 1024 (e.data.toNat % 2 ^ 64))).next e ∧
      (a ≠ 31 → (first ∨ s.halBuf s.cur = e :: l) → last ∨ room →
        let c := if first then (0x3F800000#32, 0x80000000#32) else (lane e.data 0, lane e.data 1)
        let h := f32Fma .rne c.1 ((s.rdS x).setWidth 32) c.2
        let A := fun (n : Nat) => lane (s.rdV a) n
        let B := fun (n : Nat) => lane (s.rdV (a + 1)) n
        let top := composePair c (A 31, B 31)
        ∃ t, exec (.xscan d a x) s = .next t ∧ t.mem = s.mem ∧ (∀ n, n ≠ d → t.rdV n = s.rdV n) ∧
          (∀ n < 32, lane (t.rdV d) n = (f32Fma .rne (A n) h.1 (B n)).1) ∧ (first ∨ t.halBuf s.cur = l) ∧
          (if last then t.hal = s.hal else ∃ g, t.hal = s.hal ++ [g] ∧ g.dst = s.halNext ∧ g.entry.kind = 2 ∧
            lane g.entry.data 0 = top.1.1 ∧ lane g.entry.data 1 = top.1.2))) ∧
    (s.slotNo = 15 → s.TrapsAlone → ∀ i ∈ [Instr.hsend x, .hrecv d, .hsendv a, .hrecvv d], Traps i s tIllegal (s.word.setWidth 64) 0) ∧
    (s.hal[i]? = some f → (s.region (regionOf (coreOf f.dst))).cut.going = false →
      (s.getT f.dst).st = .empty ∨ taskKey (s.getT f.dst).id.task = f.entry.launch →
      ∃ t, exec (.halyardLand i) s = .next t ∧ t.hal = s.hal.eraseIdx i ∧ t.halBuf f.dst = s.halBuf f.dst ++ [f.entry] ∧ t.mem = s.mem)

/-! The matrix unit (10). -/

/-- R227, R228, R238: a claim gives a free unit, or one the slot holds, and answers its number; otherwise all ones. A release frees a unit
that the slot holds, and traps OPERAND_SLOT on one it does not. SKSET loads sk. -/
def Sys2Proof.Claim.MatrixClaims : Prop :=
  ∀ (s : State) (d a : BitVec 5) (k : BitVec 1) (n : BitVec 3), let u := (s.core s.coreNo).u
    let code := if k = 1 then 8 + n.toNat else n.toNat
    let mine := s.slotNo + 1
    let claimed := fun (t : State) (c h : Nat) (r : Regs) =>
      t.th.r = r.next ∧ t.mem = s.mem ∧ t.threads = s.threads ∧ (∀ c', c' ≠ s.coreNo → t.core c' = s.core c') ∧
      ∀ x, (t.core s.coreNo).u.holder x = if x = c then h else u.holder x
    s.slotNo ≠ 15 → s.th.sp.role = .none →
    (k = 0 ∨ n.toNat < 3 →
      (u.holder code = 0 ∨ u.holder code = mine →
        ∃ t, exec (.oclaim d k n) s = .next t ∧ claimed t code mine (s.th.r.wrS d.toNat (BitVec.ofNat 64 n.toNat))) ∧
      (u.holder code ≠ 0 → u.holder code ≠ mine → GivesS (.oclaim d k n) s d 0xFFFFFFFFFFFFFFFF#64) ∧
      (u.holder code = mine → ∃ t, exec (.orelease k n) s = .next t ∧ claimed t code 0 s.th.r) ∧
      (u.holder code ≠ mine → s.TrapsAlone → Traps (.orelease k n) s tOperandSlot (BitVec.ofNat 64 code) 0)) ∧
    (∀ x, x < (if k = 1 then 2 else 8) →
      let c := if k = 1 then 8 + x else x
      u.holder c = 0 → (∀ y < x, u.holder (if k = 1 then 8 + y else y) ≠ 0) →
      ∃ t, exec (.oclaimAny d k) s = .next t ∧ claimed t c mine (s.th.r.wrS d.toNat (BitVec.ofNat 64 x))) ∧
    ((∀ x, x < (if k = 1 then 2 else 8) → u.holder (if k = 1 then 8 + x else x) ≠ 0) →
      GivesS (.oclaimAny d k) s d 0xFFFFFFFFFFFFFFFF#64) ∧
    (u.holder 10 = mine → ∃ t, exec (.skset a) s = .next t ∧ t.th.r = s.th.r.next ∧ t.mem = s.mem ∧
      (t.core s.coreNo).u = { u with skMask := s.rdS a, skPos := 0 }) ∧
    (s.TrapsAlone → k = 1 → 3 ≤ n.toNat → Traps (.oclaim d k n) s tIllegal (s.word.setWidth 64) 0)

/-- R231, R287: OFILL and ODRAIN put one relaxed entry into the sequencer and go on; ODRAIN takes the slot's contents as it issues, and OFILL
holds back its thread's instructions that name the slot until it is performed. When its turn in the sequencer comes, OFILL loads the first rows of
the slot and its scale table, 0x7F where no scale is read, and ODRAIN's bytes are stored; no other byte of any memory changes. That a slot which is
not held traps OPERAND_SLOT whatever the checks of the pointer would give is the model's choice (log 42): R231 fixes no order of the two. -/
def Sys2Proof.Claim.OperandMoves : Prop :=
  ∀ (s : State) (n : BitVec 3) (a : BitVec 5) (r : BitVec 6) (l : FillLoc),
    let rows := r.toNat + 1
    let c := s.coreNo
    let key := lsKey c (segBase l.el.seg + l.el.eo)
    let sk := lsKey c (segBase l.scale.seg + l.scale.eo)
    let op := fun (j : Nat) => opKey c n.toNat j
    let sc := fun (row e : Nat) => scaleKey c n.toNat row e
    let p := l.perRow
    let enters := fun (i : Instr) (m : Micro) => ∃ t q, exec i s = .next t ∧ s.Retired { t with cores := s.cores } s.th.r.next ∧
      (∀ x, t.core x = if x = c then { s.core c with seq := [q], reqNo := q.no } else s.core x) ∧ q.op = m ∧ q.who = s.cur ∧
      q.task = s.groupTask s.cur ∧ q.strong = false ∧ q.ptr = l.el.ptr ∧ q.pc = s.th.reportPc ∧ q.lseg = false ∧ q.dst = none ∧ q.cvt = none
    let performs := fun (q : RelReq) (b : List RelReq) (bytes : State → Prop) => (s.core c).seq = q :: b → isLs q.op.key = true → coreOf q.who = c →
      q.lseg = false → q.dst = none → q.cvt = none → q.strong = false → s.poison = [] → s.upsets = [] →
      ∃ t, exec (.lsAccessPerform c) s = .next t ∧ bytes t ∧ t.full = s.full ∧ t.core c = { s.core c with seq := b } ∧
        (∀ x, x ≠ c → t.core x = s.core x) ∧ t.regions = s.regions ∧ ∀ k, (t.getT k).r = (s.getT k).r ∧ (t.getT k).st = (s.getT k).st
    (s.Calm → s.holds s.cur n.toNat = true → isLs key = true →
      ((checkFill (s.rdS a) rows rR).run s = (.ok l, s) → enters (.ofill n a r) (.fill n.toNat p [(key, 128 * rows)] [(sk, p * rows)])) ∧
      ((checkFill (s.rdS a) rows rW).run s = (.ok l, s) → c < 8192 → ∃ cells, enters (.odrain n a r) (.drain cells) ∧ let t := s.setCells cells
        (∀ j < 128 * rows, (key + j < sk ∨ sk + p * rows ≤ key + j) → t.byte (key + j) = s.byte (op j)) ∧
        (∀ row < rows, ∀ e < p, t.byte (sk + p * row + e) = s.byte (sc row e)) ∧
        ∀ b, (b < key ∨ key + 128 * rows ≤ b) → (b < sk ∨ sk + p * rows ≤ b) → t.byte b = s.byte b)) ∧
    (∀ q b, p ≤ 8 → c < 8192 → q.op = .fill n.toNat p [(key, 128 * rows)] [(sk, p * rows)] → performs q b (fun t =>
      (∀ j < 128 * rows, t.byte (op j) = s.byte (key + j)) ∧
      (∀ row < rows, ∀ e < 8, t.byte (sc row e) = if e < p then s.byte (sk + p * row + e) else 0x7F#8) ∧
      ∀ b, (b < op 0 ∨ op 0 + 128 * rows ≤ b) → (b < sc 0 0 ∨ sc 0 0 + 8 * rows ≤ b) → t.byte b = s.byte b)) ∧
    (∀ q b cells, q.op = .drain cells → performs q b (fun t => t.mem = (s.setCells cells).mem)) ∧
    (∀ q ∈ s.relReqs s.cur, q.task = s.groupTask s.cur → (∃ p data scales, q.op = .fill n.toNat p data scales) →
      ∀ x y e g ty z acc, ∀ i ∈ [Instr.ofill n a r, .odrain n a r, .orelease 0 n, .mma e g ty z acc x n, .mma e g ty z acc n y, .mmas e g ty z acc x n,
        .mmas e g ty z acc n y, .mmaJ e g ty z acc n y, .mmasJ e g ty z acc n y], s.nextOk s.cur i = false) ∧
    (s.TrapsAlone → s.holds s.cur n.toNat = false →
      Traps (.ofill n a r) s tOperandSlot (BitVec.ofNat 64 n.toNat) 0 ∧ Traps (.odrain n a r) s tOperandSlot (BitVec.ofNat 64 n.toNat) 0)

/-- R229 to R240, R251: claims of the matrix units, OFILL and ODRAIN. -/
def Obligations.ClaimsAndOperandMoves : Prop := Claim.MatrixClaims ∧ Claim.OperandMoves

/-- R235 to R238, R249: a multiply replaces every cell of its accumulator by the product of the two operand slots over the kept blocks, added
to the old cell or to zero, ORs the flags, and takes its place in the intake; MMAS walks sk. Of a joint form every member issues the word: all but
the last only take their place, and with the last every member's accumulator receives its product, with the leader's A. When a member fails its
checks, every member that fails traps and no accumulator changes. An INT8 cell is the exact sum modulo 2^32. -/
def Obligations.MatrixMultiplies : Prop :=
  ∀ (s : State) (e g : BitVec 5) (ty : BitVec 4) (z c : BitVec 1) (b a : BitVec 3) (f : MmaFmt),
    let k := s.coreNo
    let lead := coreOf s.th.en.leader
    let cell := fun (s t : State) (m ca : Nat) (keep : List Bool) => ∀ i < 64, ∀ j < 64,
      t.accCell (coreOf m) c.toNat i j =
        ((s.product f keep (decide (z = 1)) ca a.toNat (coreOf m) b.toNat c.toNat).1.getD (64 * i + j) 0)
    let frame := fun (t : State) (ms : List Nat) => ∀ x, (∀ m ∈ ms, x < accKey (coreOf m) c.toNat 0 0 ∨ accKey (coreOf m) c.toNat 0 0 + 16384 ≤ x) →
      t.byte x = s.byte x
    let all := List.replicate f.nb true
    let kept := fun (x : Nat) => (List.range f.nb).map (fun n => (s.core x).u.skMask.getLsbD (((s.core x).u.skPos + n) % 64))
    let walked := fun (x : Nat) => s.setCore x { s.core x with u.skPos := ((s.core x).u.skPos + f.nb) % 64 }
    let ms := gangMembers s.cur s.th.en.gangN
    let fails := fun (sparse : Bool) (m : Nat) => s.mmaFails m f sparse (if coreOf m = lead then [8 + c.toNat, a.toNat, b.toNat] else [8 + c.toNat, b.toNat])
    let issued := fun (m : Nat) => (s.core (coreOf m)).u.intake.any (fun q => q.who = m && !q.ready) = true
    let joint := fun (sparse : Bool) => if sparse then Instr.mmasJ e g ty z c b a else .mmaJ e g ty z c b a
    s.th.sp.role = .none → mmaFmt ty e g = some f →
    (s.mmaFails s.cur f false [8 + c.toNat, a.toNat, b.toNat] = none →
      ∃ t, exec (.mma e g ty z c b a) s = .next t ∧ cell s t s.cur k all ∧ frame t [s.cur] ∧
        (s.pushIntake s.cur { acc := c.toNat, slots := [a.toNat, b.toNat] }).Retired { t with mem := s.mem }
          { s.th.r.next with fp := s.th.r.fp ||| (s.product f all (decide (z = 1)) k a.toNat k b.toNat c.toNat).2 }) ∧
    (s.mmaFails s.cur f true [8 + c.toNat, a.toNat, b.toNat] = none →
      ∃ t, exec (.mmas e g ty z c b a) s = .next t ∧ cell s t s.cur k (kept k) ∧ frame t [s.cur] ∧
        ((walked k).pushIntake s.cur { acc := c.toNat, slots := [a.toNat, b.toNat], sk := true }).Retired { t with mem := s.mem }
          { s.th.r.next with fp := s.th.r.fp ||| (s.product f (kept k) (decide (z = 1)) k a.toNat k b.toNat c.toNat).2 }) ∧
    (s.th.en.gangN ≠ 0 → s.cur ∈ ms → s.th.en.leader ∈ ms → s.cur < 2 ^ 16 → ∀ sparse, (∀ m ∈ ms, fails sparse m = none) →
      let q : MxCmd := { acc := c.toNat, slots := if k = lead then [a.toNat, b.toNat] else [b.toNat], sk := sparse && k = lead,
                         joint := ms.map coreOf, ready := false }
      ((∃ m ∈ ms, m ≠ s.cur ∧ ¬issued m) →
        ∃ t, exec (joint sparse) s = .next t ∧ (s.pushIntake s.cur q).Retired t s.th.r.next) ∧
      ((∀ m ∈ ms, m ≠ s.cur → issued m) →
        let keep := if sparse then kept lead else all
        ∃ t, exec (joint sparse) s = .next t ∧ (∀ m ∈ ms, cell s t m lead keep) ∧ frame t ms ∧ t.th.r.pc = s.th.r.next.pc ∧
          (∀ m ∈ ms, (t.getT m).r.fp = (s.getT m).r.fp ||| (s.product f keep (decide (z = 1)) lead a.toNat (coreOf m) b.toNat c.toNat).2 ∧
            ∀ q ∈ (t.core (coreOf m)).u.intake, q.who = m → q.ready = true) ∧
          (t.core lead).u.skPos = if sparse then ((s.core lead).u.skPos + f.nb) % 64 else (s.core lead).u.skPos)) ∧
    (s.th.en.gangN ≠ 0 → ∀ sparse, (∃ m ∈ ms, fails sparse m ≠ none) → (∀ m ∈ ms, (s.getT m).st = .ready ∧ (s.getT m).sp.role = .none) →
      ∃ t, exec (joint sparse) s = .next t ∧ t.mem = s.mem ∧
        ∀ m ∈ ms, ∀ x, fails sparse m = some x → (t.getT m).st = .frozen ∧ t.lastCode m = x.1) ∧
    (∀ sg, f = .int sg → ∀ i < 64, ∀ j < 64,
      let num := fun (x : Byte) => if sg then x.toInt else (x.toNat : Int)
      (s.product f all (decide (z = 1)) k a.toNat k b.toNat c.toNat).1.getD (64 * i + j) 0 =
        BitVec.ofInt 32 ((if z = 1 then 0 else (s.accCell k c.toNat i j).toInt) +
          ((List.range 128).map (fun n => num (s.byte (opKey k a.toNat (128 * i + n))) * num (s.byte (opKey k b.toNat (128 * j + n))))).sum))

/-- R239 to R241, R233: ACCZ clears an accumulator, ACCLD loads its 16384 bytes, and both take their place in the intake; ACCRD reads half a row
into a vector register. ACCLD reads local store in its own step; in bank memory it queues a request for each block and goes on with what they
gave. -/
def Sys2Proof.Claim.AccumulatorMoves : Prop :=
  ∀ (s u : State) (d a : BitVec 5) (r : BitVec 6) (h c : BitVec 1) (key : Nat) (w : Got),
    let acc := accKey s.coreNo c.toNat 0 0
    let becomes := fun (i : Instr) (b : Nat → Byte) => ∃ t, exec i s = .next t ∧
      (s.pushIntake s.cur { acc := c.toNat }).Retired { t with mem := s.mem } s.th.r.next ∧
      ∀ k, t.byte k = if acc ≤ k ∧ k < acc + 16384 then b (k - acc) else s.byte k
    s.holds s.cur (8 + c.toNat) = true →
    (s.Calm → becomes (.accz c) (fun _ => 0)) ∧
    (s.Calm → s.Reaches (s.rdS a) 0 16384 32 rR only012 false key s →
      (isLs key = true → becomes (.accld a c) (fun j => s.byte (key + j))) ∧
      (isBank key = true → key % 2 ^ 23 + 16384 ≤ 2 ^ 23 → Awaits (.accld a c) s s ((splitPieces [(key, 16384)]).map Micro.read))) ∧
    ((∃ l, (check (s.rdS a) 0 16384 32 rR only012).run s = (.ok l, s)) → s.WentOn [{ pieces := [(key, 16384)] }, w] → w.bytes.length = 16384 →
      becomes (.accld a c) (fun j => w.bytes.getD j 0)) ∧
    (s.Calm → ∃ t, exec (.accrd d r h c) s = .next t ∧ s.Retired t { s.th.r.next with v := t.th.r.v } ∧ (∀ n, n ≠ d → t.rdV n = s.rdV n) ∧
      ∀ e < 32, lane (t.rdV d) e = s.accCell s.coreNo c.toNat r.toNat (32 * h.toNat + e)) ∧
    (u.TrapsAlone → u.holds u.cur (8 + c.toNat) = false →
      ∀ i ∈ [Instr.accz c, .accld a c, .accrd d r h c], Traps i u tOperandSlot (BitVec.ofNat 64 (8 + c.toNat)) 0)

/-- R242 to R246: ACCST waits in the intake for its start, with its thread parked. It then stores every cell of the accumulator, converted in
row-major order, at the place its layout gives: FP32, INT32 and byte formats are copied, narrower integers clamp, and floating formats round
under rm with the generator stepping through the cells. With BL = 3 each block of 32 cells is scaled by its code, and a row's scale bytes follow
the row. One request is queued for each 128-byte piece of local store, or each block of bank memory, in row order, and the instruction goes on once
they are performed; together they lay down the bytes of the layout. -/
def Sys2Proof.Claim.AccumulatorStore : Prop :=
  ∀ (s : State) (d a : BitVec 5) (z : BitVec 1) (r l : BitVec 3) (c : BitVec 1) (w y : Got),
    let i := Instr.accst d a z r l c
    let p := s.rdS a
    let f := stFmt p
    let g := s.th.r.rdG (ptrSeg p)
    let nib := f.nibbles
    let pitch := if l = 3 ∨ s.rdS d = 0 then 32 * nib else (s.rdS d).toNat
    let n := if l = 3 then 2048 * nib else 63 * pitch + 32 * nib
    let keyAt := fun (b : Nat) => if segSpace g = 0 then lsKey s.coreNo b else if segSpace g = 1 then bankKey s.clusterNo b
      else bankKey (4 * s.regionNo + segCluster g) b
    let key := keyAt (segBase g + ptrOff p)
    let found : List Got := [{ pieces := [(key, n)] }, { pieces := [(keyAt (segBase g), 1)] }]
    let mode := (if r = 7 then s.th.r.rmode else r).toNat
    let cell := fun (i j : Nat) => s.accCell s.coreNo c.toNat i j
    let scaled := f = .flt .e2m1 ∨ ∃ sg ext w, f = .flt (.b8 sg ext w)
    let code := fun (b : Nat × Nat) => match f with
      | .flt q => blockScale q ((blockCells l.toNat b).map (fun x => f32 (cell x.1 x.2)))
      | _ => 127
    let scaleOf := fun (b : Nat × Nat) => scaleOffset 1 (decide (nib = 1)) 3 g (ptrOff p + cellAt l.toNat pitch nib b.1 b.2 / 2)
    let step := fun (i j : Nat) (seed : Word) => match f with
      | .flt q => if ptrBl p = 3 then scaledElem q mode (decide (z = 1)) seed (code (blockFirst l.toNat i j)) (f32 (cell i j))
          else convertStep q mode (decide (z = 1)) seed (f32 (cell i j))
      | .int q => (((max q.lo (min q.hi (cell i j).toInt) % 2 ^ 32).toNat, (0 : Flags)), seed)
      | _ => (((cell i j).toNat, (0 : Flags)), seed)
    let q := stepCells step allCells s.th.r.seed
    let rows := (List.range 64).map (fun i => (offCells key (rowBytes l.toNat pitch nib i q.1),
      if ptrBl p = 3 then (rowBlocks l.toNat i).map (fun b => (keyAt (segBase g) + scaleOf b, BitVec.ofNat 8 (code b))) else []))
    let after : Regs := { s.th.r.next with seed := q.2.2, fp := s.th.r.fp ||| q.2.1 }
    let started := { s with th.w.acc := {} }.Calm ∧ s.WentOn (found ++ [w])
    s.holds s.cur (8 + c.toNat) = true → l.toNat < 4 → r ≠ 5 → r ≠ 6 → (l = 3 → d = 0) → f ≠ .bad →
    ((f = .copy ∨ ∃ x, f = .int x) → r = 0 ∧ z = 0) →
    segRights g &&& rW = rW → only012 (segSpace g) = true → s.limitOk s.clusterNo g (ptrOff p) n = true → ptrOff p % 32 = 0 → pitch % 32 = 0 →
    32 * nib ≤ pitch →
    (ptrBl p = 0 ∨ (ptrBl p = 3 ∧ (l = 0 ∨ l = 2) ∧ scaled ∧ ∀ b ∈ allBlocks l.toNat, s.limitOk s.clusterNo g (scaleOf b) 1 = true)) →
    (s.Calm → ∃ t, exec i s = .next t ∧ t.th.w.acc.jrn = found ∧
      ((s.pushIntake s.cur { acc := c.toNat, store := true }).updCore s.coreNo (fun x => { x with reqNo := x.reqNo + 1 })).Parked t .access) ∧
    (started → (isLs key = true ∧ segSpace g = 0 ∧ lsKey s.coreNo (segBase g + segLimit g) ≤ 2 ^ 31) ∨ (isBank key = true ∧ segSpace g ≠ 0) →
      Awaits i s s (rows.flatMap (fun x => (cellPieces x.1 ++ cellPieces x.2).map Micro.write))) ∧
    (ptrBl p = 0 → ∀ b, (s.setCells (rows.flatMap (fun x => x.1))).byte b =
      (s.setCells (offCells key (storedBytes l.toNat pitch nib q.1))).byte b) ∧
    (s.WentOn (found ++ [w, y]) → ∃ t, exec i s = .next t ∧ s.Retired t after)

/-- R241 to R246: accumulator moves and ACCST. -/
def Obligations.Accumulators : Prop := Claim.AccumulatorMoves ∧ Claim.AccumulatorStore

/-! Messages (11). -/

/-- R255 to R264: a posted operation puts one flit on the network, under the header of Table 11-1, and retires, and the seventeenth parks; RLD, and
RAMO with a destination, park until the reply, which writes sd. A RAMO's flit carries its operation, sb and sd. -/
def Obligations.RemoteOperations : Prop :=
  ∀ (s : State) (d a b : BitVec 5) (h z1 : BitVec 1) (z : BitVec 2) (tag o : BitVec 8) (op : BitVec 4) (l : Loc),
    let p := s.rdS a
    let n : Nat := 2 ^ z.toNat
    let m := if z1 = 1 then 8 else 4
    let half := leBytes 64 ((s.rdV d).toNat / 2 ^ (512 * h.toNat))
    let target := 256 * (((s.regEntry (taskVf s.th.id.task) (segLregion l.seg)).map (fun p => p.1)).getD 0) + segCore l.seg
    let aimed := fun (f : Flit) (kind tag size : Nat) (payload : List Byte) =>
      f.kind = kind ∧ f.src = s.cur ∧ f.task = s.groupTask s.cur ∧ f.dst = target ∧ f.addr = segBase l.seg + l.eo ∧ f.eo = l.eo ∧ f.size = size ∧
      f.payload = payload ∧ f.header.toNat = (if (s.core s.coreNo).colour then 2 ^ 63 else 0) + kind * 2 ^ 60 + s.slotNo * 2 ^ 56 + tag * 2 ^ 48 +
        2 ^ 47 + s.th.id.lregion.toNat * 2 ^ 32 + s.coreNo % 256
    let any := fun (_ : Flit) => True
    let amo := fun (f : Flit) => f.op = op.toNat ∧ f.b = s.rdS b ∧ f.cmp = s.rdS d
    let posts := fun (i : Instr) (kind tag size : Nat) (payload : List Byte) (ops : Flit → Prop) =>
      (s.th.w.posted < 16 → ∃ t f, exec i s = .next t ∧ aimed f kind tag size payload ∧ ops f ∧ f.strong = false ∧ t.net = s.net ++ [f] ∧
        t.th.r = s.th.r.next ∧ t.th.w.posted = s.th.w.posted + 1 ∧ t.mem = s.mem ∧ t.threads = s.threads) ∧
      (16 ≤ s.th.w.posted → ∃ t, exec i s = .next t ∧ s.Parked t .posted)
    let waits := fun (i : Instr) (kind size : Nat) (ops : Flit → Prop) => ∃ t f, exec i s = .next t ∧ aimed f kind 0 size [] ∧ ops f ∧
      f.strong = true ∧ f.d = d.toNat ∧ t.net = s.net ++ [f] ∧ t.th.st = .parked ∧ t.th.w.park = .reply ∧ t.th.r = s.th.r ∧ t.mem = s.mem
    let at0 := fun (off : Int) (n align rights : Nat) => (check p off n align rights only5).run s = (.ok l, s)
    s.Calm →
    (s.slotNo ≠ 15 → at0 0 1 1 rW → posts (.send d a h tag) 0 tag.toNat 0 half any ∧ posts (.amsg d a h tag) 4 tag.toNat 0 half any) ∧
    (at0 (o.toInt * n) n n rW → posts (.rst d a z o) 1 0 n (leBytes n (s.rdS d).toNat) any) ∧
    (at0 (o.toInt * 64) 64 64 rW → posts (.rstV d a h o) 1 0 64 half any) ∧
    (at0 (o.toInt * n) n n rR → waits (.rld d a z o) 2 n any) ∧
    (op.toNat < 11 → ¬(op = 10 ∧ z1 = 1) → at0 0 m m rA →
      (d = 0 → posts (.ramo d a z1 op b) 3 0 m [] amo) ∧ (d ≠ 0 → s.slotNo ≠ 15 → waits (.ramo d a z1 op b) 3 m amo)) ∧
    (s.TrapsAlone → 11 ≤ op.toNat ∨ (op = 10 ∧ z1 = 1) → Traps (.ramo d a z1 op b) s tIllegal (s.word.setWidth 64) 0)

/-- R263: RECV and RECVP take the oldest entry of the thread's launch; with none, RECV parks and RECVP gives 0. -/
def Sys2Proof.Claim.Receives : Prop :=
  ∀ (s : State) (d v : BitVec 5) (x y : List RxEntry) (e : RxEntry), let n := taskKey s.th.id.task
    let q := (s.core s.coreNo).u.rxq
    s.slotNo ≠ 15 → s.Calm →
    (q = x ++ e :: y → e.launch = n → (∀ u ∈ x, u.launch ≠ n) →
      ∀ i ∈ [Instr.recv d v, .recvp d v], ∃ t, exec i s = .next t ∧ t.mem = s.mem ∧ t.threads = s.threads ∧
        (t.core s.coreNo).u.rxq = x ++ y ∧ (∀ m, t.rdS m = if m = d ∧ m ≠ 0 then e.header else s.rdS m) ∧
        (∀ m, t.rdV m = if m = v then BitVec.ofNat 1024 (leNat e.payload) else s.rdV m) ∧ t.th.r.pc = s.th.r.next.pc) ∧
    ((∀ u ∈ q, u.launch ≠ n) →
      GivesS (.recvp d v) s d 0 ∧
      ∃ t, exec (.recv d v) s = .next t ∧ s.Parked t (.recv d.toNat v.toNat))

/-- R257 to R266: an accepted SEND joins the receive queue and is acknowledged, a full queue returns the flit to its sender's retry buffer, from
where it is sent again once its back-off is over, not before; a built-in handler performs its access as one step and answers; an acknowledgement lowers the count of posted
operations and a reply writes sd. -/
def Obligations.MessageEvents : Prop :=
  ∀ (s : State) (i c : Nat) (f : Flit) (r : List Flit) (q : Reply),
    let g := s.region (regionOf f.dst)
    let open0 := g.own.phase = 0 ∧ g.own.gate = true ∧ g.own.assigned = true ∧ g.own.vf = taskVf f.task ∧ g.cut.going = false
    let noRecv := ∀ k ∈ s.threadKeys, ∀ d v, (s.getT k).w.park ≠ .recv d v
    (s.net[i]? = some f → open0 → f.kind = 0 → s.holdsTask f.task f.dst = true → noRecv → (s.core f.dst).u.rxq.length < 32 →
      ∃ t a, exec (.messageArrival i) s = .next t ∧ t.net = s.net.eraseIdx i ∧ t.mem = s.mem ∧ t.th = s.th ∧
        (t.core f.dst).u.rxq = (s.core f.dst).u.rxq ++ [{ header := f.header, payload := f.payload, launch := taskKey f.task }] ∧
        (if f.strong then t.reps = s.reps ++ [a] else t.acks = s.acks ++ [a]) ∧ a.dst = f.src ∧ a.code = 0) ∧
    (s.net[i]? = some f → open0 → f.kind = 0 → s.holdsTask f.task f.dst = true → 32 ≤ (s.core f.dst).u.rxq.length →
      ∃ t, exec (.messageArrival i) s = .next t ∧ t.net = s.net.eraseIdx i ∧ t.th = s.th ∧
        (t.core (coreOf f.src)).u.retry = (s.core (coreOf f.src)).u.retry ++ [{ f with backoff := min 1024 (2 * f.backoff), due := (s.region (regionOf (coreOf f.src))).clock + f.backoff }]) ∧
    ((s.region (regionOf c)).cut.going = false → (∀ x ∈ (s.core c).u.retry, (s.region (regionOf c)).clock < x.due) →
      exec (.messageRetry c) s = .next s) ∧
    ((s.core c).u.retry = f :: r → (s.region (regionOf c)).cut.going = false → f.due ≤ (s.region (regionOf c)).clock →
      ∃ t, exec (.messageRetry c) s = .next t ∧ t.net = s.net ++ [f] ∧ (t.core c).u.retry = r ∧ t.th = s.th ∧ t.mem = s.mem) ∧
    ((s.core c).u.hq = f :: r → (s.getT (16 * c + 15)).st = .empty → f.dst = c → (s.core c).seq = [] → s.poison = [] → s.upsets = [] →
      (∀ n, (s.log n).mode = 0) →
      let key := lsKey c f.addr
      (f.kind = 1 → f.strong = false → ∃ t a, exec (.handlerStart c) s = .next t ∧ (t.core c).u.hq = r ∧ t.th = s.th ∧ s.BytesAt t key f.payload ∧
        t.acks = s.acks ++ [a] ∧ a.dst = f.src ∧ a.code = 0) ∧
      (f.kind = 2 → f.strong = true → ∃ t a, exec (.handlerStart c) s = .next t ∧ (t.core c).u.hq = r ∧ t.th = s.th ∧ t.mem = s.mem ∧
        t.reps = s.reps ++ [a] ∧ a.dst = f.src ∧ a.d = f.d ∧ a.value = BitVec.ofNat 64 (s.readLE key f.size) ∧ a.code = 0) ∧
      (f.kind = 3 → f.size = 4 ∨ f.size = 8 →
        let v := amoNew f.op (decide (f.size = 8)) (s.readLE key f.size) (f.b.toNat % 256 ^ f.size) (f.cmp.toNat % 256 ^ f.size)
        ∃ t a, exec (.handlerStart c) s = .next t ∧ (t.core c).u.hq = r ∧ t.th = s.th ∧ s.BytesAt t key (leBytes f.size v.1) ∧
          (if f.strong then t.reps = s.reps ++ [a] else t.acks = s.acks ++ [a]) ∧ a.dst = f.src ∧ a.flags = v.2 ∧ a.value = amoResult f.op (decide (f.size = 8)) (s.readLE key f.size))) ∧
    (s.acks[i]? = some q → s.answers q = true → (s.getT q.dst).st ≠ .parked →
      ∃ t, exec (.ackArrival i) s = .next t ∧ t.acks = s.acks.eraseIdx i ∧ t.mem = s.mem ∧
        (t.getT q.dst).w.posted = (s.getT q.dst).w.posted - 1 ∧ (t.getT q.dst).r = { (s.getT q.dst).r with fp := (s.getT q.dst).r.fp ||| q.flags } ∧
        ((t.getT q.dst).is.deferred = (s.getT q.dst).is.deferred ++ if q.code = 0 then [] else
          [{ code := q.code, pc := q.pc, ptr := q.ptr, report := q.report }]) ∧ ∀ k, k ≠ q.dst → t.getT k = s.getT k) ∧
    (s.reps[i]? = some q → s.answers q = true → (s.getT q.dst).st = .parked → (s.getT q.dst).w.park = .reply → q.code = 0 →
      ∃ t, exec (.replyArrival i) s = .next t ∧ t.reps = s.reps.eraseIdx i ∧ t.mem = s.mem ∧ (t.getT q.dst).st = .ready ∧
        (t.getT q.dst).r = { ((s.getT q.dst).r.wrS q.d q.value).next with fp := (s.getT q.dst).r.fp ||| q.flags } ∧
        ∀ k, k ≠ q.dst → t.getT k = s.getT k)

/-- R266: the user handler starts in slot 15 with the header, the offset and the payload; HRET leaves the slot IDLE with its registers kept
and traps ILLEGAL in any other slot. That slot 15 then has the sender's task identifier and its launch's privilege is the model's choice (log 25):
R266's list gives no identity. -/
def Sys2Proof.Claim.UserHandlers : Prop :=
  ∀ (s : State) (c : Nat) (f : Flit) (r : List Flit), let k := 16 * c + 15
    let l := s.launch (taskKey f.task)
    ((s.core c).u.hq = f :: r → f.kind = 4 → (s.getT k).st = .empty →
      ∃ t, exec (.userHandlerStart c) s = .next t ∧ (t.core c).u.hq = r ∧ t.mem = s.mem ∧ (t.getT k).st = .ready ∧
        (t.getT k).r.rdS 1 = f.header ∧ (t.getT k).r.rdS 2 = BitVec.ofNat 64 f.eo ∧
        (t.getT k).r.rdV 1 = BitVec.ofNat 1024 (leNat f.payload) ∧ (t.getT k).r.pc = BitVec.ofNat 64 (4 * l.kernel.handler) ∧
        (∀ n, 1 ≤ n → (t.getT k).r.rdG n = 0) ∧ (t.getT k).id.task = f.task ∧ (t.getT k).id.priv = l.priv ∧
        ∀ j, j ≠ k → t.getT j = s.getT j) ∧
    (s.slotNo = 15 → ∃ t, exec .hret s = .next t ∧ t.th.st = .empty ∧ t.th.r = s.th.r.next ∧ t.mem = s.mem ∧ t.threads = s.threads ∧
      t.cores = s.cores) ∧
    (s.slotNo ≠ 15 → s.TrapsAlone → Traps .hret s tIllegal (s.word.setWidth 64) 0)

/-- R263, R266: receives and user handlers. -/
def Obligations.ReceivesAndHandlers : Prop := Claim.Receives ∧ Claim.UserHandlers

/-! Engines (11). -/

/-- R268 to R273: EPUSH collects beats, sa in the low half: the first waits until the thread's earlier accesses are complete, and the fourth moves a checked command into the input FIFO and reserves a result
element, parking while there is no room; EPOP takes the oldest element of the slot's task and parks without one; EPOLL reads the counts; ECFG
writes QUIET. -/
def Obligations.EnginePorts : Prop :=
  ∀ (s : State) (a b d : BitVec 5) (e : BitVec 2) (c : Cmd) (x y : List Result) (q : Result), let port := e.toNat
    let u := (s.core s.coreNo).u
    let asm := SMap.get [] s.th.en.asm port
    let beat : BitVec 128 := s.rdS b ++ s.rdS a
    let fifo := SMap.get [] u.fifoIn port
    let out := SMap.get [] u.fifoOut port
    let task := s.groupTask s.cur
    s.slotNo ≠ 15 → s.Calm →
    (port ≠ 2 ∨ s.pkg.partC = false →
      (asm.length < 3 → (asm = [] → s.workDone s.cur .beat = true) → ∃ t, exec (.epush b a e) s = .next t ∧ t.th.r = s.th.r.next ∧ t.mem = s.mem ∧ t.threads = s.threads ∧
        SMap.get [] t.th.en.asm port = asm ++ [beat] ∧ SMap.get [] (t.core s.coreNo).u.fifoIn port = fifo) ∧
      (asm = [] → s.workDone s.cur .beat = false → ∃ t, exec (.epush b a e) s = .next t ∧ s.Parked t (.work .beat)) ∧
      (3 ≤ asm.length → s.makeCmd s.cur port (asm ++ [beat]) = .ok c → fifo.length < 4 → SMap.get 0 u.rsv port < 16 →
        ∃ t, exec (.epush b a e) s = .next t ∧ t.th.r = s.th.r.next ∧ t.mem = s.mem ∧ t.threads = s.threads ∧
          SMap.get [] t.th.en.asm port = [] ∧ SMap.get [] (t.core s.coreNo).u.fifoIn port = fifo ++ [c] ∧
          SMap.get 0 (t.core s.coreNo).u.rsv port = SMap.get 0 u.rsv port + 1) ∧
      (3 ≤ asm.length → s.makeCmd s.cur port (asm ++ [beat]) = .ok c → 4 ≤ fifo.length ∨ 16 ≤ SMap.get 0 u.rsv port →
        ∃ t, exec (.epush b a e) s = .next t ∧ s.Parked t (.epush port))) ∧
    (out = x ++ q :: y → q.slot = s.slotNo → q.task = task → (∀ z ∈ x, ¬(z.slot = s.slotNo ∧ z.task = task)) →
      ∃ t, exec (.epop d e) s = .next t ∧ t.th.r = (s.th.r.wrS d.toNat q.element).next ∧ t.mem = s.mem ∧ t.threads = s.threads ∧
        SMap.get [] (t.core s.coreNo).u.fifoOut port = x ++ y ∧ SMap.get 0 (t.core s.coreNo).u.rsv port = SMap.get 0 u.rsv port - 1) ∧
    ((∀ z ∈ out, ¬(z.slot = s.slotNo ∧ z.task = task)) →
      ∃ t, exec (.epop d e) s = .next t ∧ s.Parked t (.epop port)) ∧
    GivesS (.epoll d e) s d (BitVec.ofNat 64 (SMap.get 0 u.rsv port * 2 ^ 24 + asm.length * 2 ^ 16 + (16 - 4 * fifo.length) * 2 ^ 8 +
      (out.filter (fun z => z.slot = s.slotNo && z.task = task)).length)) ∧
    ((s.rdS a).toNat < 2 → ∃ t, exec (.ecfg a e) s = .next t ∧ s.Retired { t with th.en := s.th.en } s.th.r.next ∧
      ∀ p, SMap.get false t.th.en.quiet p = if p = port then (s.rdS a).getLsbD 0 else SMap.get false s.th.en.quiet p) ∧
    (s.TrapsAlone → 2 ≤ (s.rdS a).toNat → Traps (.ecfg a e) s tIllegal (s.word.setWidth 64) 0)

/-- R268, R277, R278, R282, R294: an engine takes the head of a FIFO, the collective engine in its turn between VFs; the command in turn starts a
chunk, which plans its reads, reads and then writes one 32-byte block in each step, and is counted on the command at its end; a command that
is over returns one result element. A command on port 3 goes to the supervisor (R283). That a chunk takes one step for each block, and is planned
before its first, is the model's reading (log 26). -/
def Sys2Proof.Claim.EngineCommands : Prop :=
  ∀ (s s' : State) (core port z i b : Nat) (c : Cmd) (r : List Cmd) (ch : Chunk) (m : List (Nat × Nat)),
    let e := z % 2 ^ 16
    let j := z / 2 ^ 16
    let act := s.engine e
    let fifo := SMap.get [] (s.core core).u.fifoIn port
    let after := fun (t : State) (x : List Cmd) => ∀ j, t.engine j = if j = e then x else s.engine j
    let goes := fun (i : Instr) (x : Cmd) (n : Nat) => ∃ t, exec i s = .next t ∧ t.mem = s.mem ∧ t.th = s.th ∧ after t (act.set n x)
    let started : Chunk := { no := c.next, phase := 1, bytes := c.chunkBytes c.next }
    let c1 := { c with last := true, started := some started, next := c.next + 1 }
    let s1 := (s.markLast e i).setCmd e i c1
    let plain := (∀ k, (s.core k).seq = []) ∧ s.poison = [] ∧ s.upsets = [] ∧ isLs b = true ∧ ch.blocks[j]? = some b
    (fifo = c :: r → port < 3 → e = engineOf core port → (act.filter (fun c => c.parent.isNone)).length < 8 →
      (if port = 2 then s.share (e - 160) 1 (s.a2aWaiting (e - 160)) c.vf else some s) = some s' →
      ∃ t, exec (.engineCommandTake core port) s = .next t ∧ after t (act ++ [c]) ∧ SMap.get [] (t.core core).u.fifoIn port = r ∧
        t.mem = s.mem ∧ t.th = s.th) ∧
    (fifo = c :: r → e = engineOf core 2 → port = 2 → s.share (e - 160) 1 (s.a2aWaiting (e - 160)) c.vf = none →
      exec (.engineCommandTake core port) s = .next s) ∧
    (SMap.get [] (s.core core).u.fifoIn 3 = c :: r →
      ∃ t, exec (.mailboxCommand core) s = .next t ∧ SMap.get [] (t.core core).u.fifoIn 3 = r ∧ t.mem = s.mem ∧ t.th = s.th ∧
        (t.region (regionOf core)).port3 = (s.region (regionOf core)).port3 ++ [c]) ∧
    (act[i]? = some c → c.kind = 1 → c.started = none → c.sending = none → s.starter e = some i → s.oslOk c = true → c.named = false →
      loggedSeg (c.seg (c.lowPtr 1)) = false → State.planReads c1 (c.lowPtr 1) (c.sources (c.positions c.next)) s1 = (s', .ok m) → blockKeys m ≠ [] →
      exec (.chunkStart z i) s =
        .next (s'.setCmd e i { c1 with started := some { started with phase := 2, want := m, left := blockKeys m } })) ∧
    (act[i]? = some c → c.kind = 1 → c.started = some ch → c.sending = none → c.named = false → ch.phase = 2 → ch.logR = [] → plain →
      ch.left.erase b ≠ [] →
      goes (.chunkStart z i) { c with started := some { ch with left := ch.left.erase b, got := ch.got ++ [(b, s.bytes b 32)] } } i) ∧
    (act[i]? = some c → c.kind ≠ 3 → c.started = some ch → s.oslOk c = true → c.named = false → ch.phase = 3 → ch.logW = [] → plain →
      let mine := ch.cells.filter (fun x => x.1 / 32 = b / 32)
      ∃ t, exec (.chunkComplete z i) s = .next t ∧ t.mem = (s.setCells mine).mem ∧ t.th = s.th ∧
        after t (act.set i { c with started := some { ch with begun := true, cells := ch.cells.filter (fun x => x.1 / 32 ≠ b / 32) } })) ∧
    (act[i]? = some c → c.kind ≠ 3 → c.started = some ch → s.oslOk c = true → c.named = false → ch.phase = 3 → ch.cells = [] → ch.bad = false →
      goes (.chunkComplete z i) (if c.kind = 4 then
        let n := SMap.get 0 c.arrived ch.no + ch.bytes
        { c with started := none, bytes := c.bytes + ch.bytes, arrived := SMap.set 0 c.arrived ch.no n,
                 done := if n = c.blockBytes then c.done + 1 else c.done }
        else { c with started := none, done := ch.no + 1, bytes := c.bytes + ch.bytes }) i) ∧
    (act[i]? = some c → c.ended = true → c.status = none → c.parent = none → c.row = none → c.rsv = true → c.last = false → s.sendsOut e c = false →
      (c.quiet = false → ∃ t, exec (.commandEnd e i) s = .next t ∧ after t (act.eraseIdx i) ∧ t.mem = s.mem ∧
        SMap.get [] (t.core c.core).u.fifoOut c.port = SMap.get [] (s.core c.core).u.fifoOut c.port ++
          [{ slot := slotOf c.thread, task := c.task, element := c.element }]) ∧
      (c.quiet = true → ∃ t, exec (.commandEnd e i) s = .next t ∧ after t (act.eraseIdx i) ∧ t.mem = s.mem ∧
        SMap.get 0 (t.core c.core).u.rsv c.port = SMap.get 0 (s.core c.core).u.rsv c.port - 1))

/-- R279 to R281: a gather reads one index and starts its block's copy, with FILL for an index out of range; an index that the cache does not hold
reads the table. An append waits for the earlier ones to its block, lays its row and summary together, and is counted. That a table, a row and a
block are read and written block by block, each in a step of its own, is the model's reading (log 26). -/
def Sys2Proof.Claim.GathersAndAppends : Prop :=
  ∀ (s s1 s2 : State) (z i p b0 : Nat) (c : Cmd) (ch : Chunk) (b : List Byte) (m : List (Nat × Nat)) (cells more : List Host.Cell),
    let rg := z % 2 ^ 16
    let j := z / 2 ^ 16
    let e := 128 + rg
    let k := engineOf c.core 0
    let index := sext32i (leNat b)
    let here := (s.engine e)[i]? = some c ∧ c.status = none
    let goes := fun (i : Instr) (u : State) (e n : Nat) (x : Cmd) => exec i s = .next (u.setCmd e n x)
    (here → c.kind = 2 → c.busy = false → c.started = none → c.index < c.nidx → s.mayStart c = true →
      s.gatherBlocked ((s.engine e).take i) c = false → c.inv = false → s.engineGet c (c.lowPtr 1) (4 * c.index) 4 = .ok s1 b →
      let issued := fun (u : State) (src : Option Word) => ∃ t, exec (.gatherIndex rg i) s = .next t ∧ t.mem = u.mem ∧
        t.engine k = (if k = e then (u.engine e).set i { c with busy := true } else u.engine k) ++ [c.subCopy src c.index]
      (index < 0 ∨ (c.nblk : Int) ≤ index → issued s1 none) ∧
      (0 ≤ index → index < c.nblk → s1.btcGet c (c.highPtr 1) index.toNat = some (s2, p) →
        s2.limitOk (clusterOf c.core) (c.seg (c.lowPtr 3)) (ptrOff (c.lowPtr 3) + p * c.bb) c.bb = true →
        issued s2 (some (ptrMove (c.lowPtr 3) (p * c.bb)))) ∧
      (0 ≤ index → index < c.nblk → s1.btcGet c (c.highPtr 1) index.toNat = none → loggedSeg (c.seg (c.highPtr 1)) = false →
        State.planReads c (c.highPtr 1) [(4 * index.toNat, 4)] s1 = (s2, .ok m) →
        goes (.gatherIndex rg i) s2 e i { c with started := some { no := index.toNat, phase := 0, want := m, left := blockKeys m } })) ∧
    (here → c.kind = 2 → (s.engine e).length ≤ i + 1 → c.busy = false → c.started = some ch → ch.left = [b0] → ch.logR = [] → isLs b0 = true →
      (∀ k, (s.core k).seq = []) → s.poison = [] → s.upsets = [] →
      let p := leNat (Chunk.bytesRead { ch with got := ch.got ++ [(b0, s.bytes b0 32)] })
      s.limitOk (clusterOf c.core) (c.seg (c.lowPtr 3)) (ptrOff (c.lowPtr 3) + p * c.bb) c.bb = true → k ≠ e →
      ∃ t, exec (.gatherIndex rg i) s = .next t ∧ t.mem = s.mem ∧ t.th = s.th ∧
        t.engine k = s.engine k ++ [{ c with started := none }.subCopy (some (ptrMove (c.lowPtr 3) (p * c.bb))) c.index]) ∧
    (here → c.kind = 3 → c.done = 0 →
      (c.started = none → c.nblk ≤ c.tpos / 16 → goes (.appendPerform z i) s e i { c with status := some 5 }) ∧
      (c.started = none → c.tpos / 16 < c.nblk → s.btcGet c (c.highPtr 1) (c.tpos / 16) = some (s1, p) →
        goes (.appendPerform z i) s1 e i { c with started := some { no := p, phase := 1, bytes := c.rowBytes } }) ∧
      (c.started = some ch → ch.phase = 1 → (∃ o ∈ (s.engine e).take i, o.kind = 3 ∧ o.status = none ∧ o.done = 0 ∧
        (o.started = none ∨ ∃ x, o.started = some x ∧ (x.phase = 0 ∨ x.no = ch.no))) → exec (.appendPerform z i) s = .next s) ∧
      (c.started = some ch → ch.phase = 2 → c.named = false → ch.left = [b0] → j = 0 → ch.logR = [] → isLs b0 = true → (∀ k, (s.core k).seq = []) →
        s.poison = [] → s.upsets = [] → let read := { ch with left := [], got := ch.got ++ [(b0, s.bytes b0 32)] }
        loggedSeg (c.seg (c.lowPtr 3)) = false → loggedSeg (c.seg (c.highPtr 0)) = false →
        s.layAppend c read = (s1, .ok (cells, more)) →
        goes (.appendPerform z i) s1 e i { c with started := some { read with phase := 3, want := [], got := [], cells := cells ++ more, logW := [] } }) ∧
      (c.started = some ch → ch.phase = 3 → c.named = false → c.osl = false → ch.cells = [] → ch.bad = false →
        goes (.appendPerform z i) s e i { c with started := none, done := 1, bytes := c.bytes + ch.bytes }))

/-- R258, R282, R419, R422, R428, R429: bytes of a collective land at the command of their rank once it has no other chunk under way and nothing
earlier is still to fill that place; with no such command they are refused and come again after a back-off. Those for another package leave by a
port of their route that is up, and RETRIES counts the link's retries; with no port up they are refused, and the command that sent them ends GONE. A
fault of a collective engine ends its commands GONE. The bytes written as a chunk, a flit of weight 0 that leaves at once, and which commands a
refused flit ends are the model's reading (log 26). -/
def Sys2Proof.Claim.CollectiveFlits : Prop :=
  ∀ (s s1 : State) (i n die : Nat) (c : Cmd) (cells : List Host.Cell) (f : A2AFlit),
    (s.a2a[i]? = some f →
      let now := (s.region f.src).clock
      let without : State := { s with a2a := s.a2a.eraseIdx i }
      let here := 160 + f.die
      let away := f.pkg ≠ s.pkg.pkgid.toNat
      let mine := fun (o : Cmd) => o.kind = 4 ∧ o.vf = f.vf ∧ o.cid = f.cid ∧ o.rank = f.dstRank ∧ o.status = none
      let sent := fun (o : Cmd) => o.kind = 4 ∧ o.vf = f.vf ∧ o.cid = f.cid ∧ o.rank = f.srcRank ∧ o.status = none
      let retries := fun (w : Word) => w.toNat / 2 ^ 32 % 2 ^ 16
      (now < f.due → exec (.a2aArrival i) s = .next s) ∧
      (f.due ≤ now → away → s.portFor f.pkg = none →
        ∃ t, exec (.a2aArrival i) s = .next t ∧ t = { without with engines := t.engines } ∧
          ∀ k, t.engine k = if k = 160 + f.src / 4 then (s.engine k).map (fun o => if sent o then o.cancel 6 else o) else s.engine k) ∧
      (f.due ≤ now → away → s.portFor f.pkg = some n → SMap.get 0 s.pkg.linkwt f.vf = 0 →
        ∃ t, exec (.a2aArrival i) s = .next t ∧
          t = { without with pkg := { s.pkg with linkst := t.pkg.linkst, linkFlits := t.pkg.linkFlits } } ∧
          (∀ q, q ≠ n → SMap.get 0 t.pkg.linkst q = SMap.get 0 s.pkg.linkst q) ∧
          let w := SMap.get 0 s.pkg.linkst n
          let u := SMap.get 0 t.pkg.linkst n
          u &&& 0xFFFF0000FFFFFFFF#64 = w &&& 0xFFFF0000FFFFFFFF#64 ∧ ∃ m, retries u = min 0xFFFF (retries w + m)) ∧
      (f.due ≤ now → ¬away → (∀ o ∈ s.engine here, ¬mine o) → exec (.a2aArrival i) s =
        .next { s with a2a := s.a2a.set i { f with due := now + f.backoff, backoff := min 1024 (2 * f.backoff) } }) ∧
      ∀ x y, f.due ≤ now → ¬away → s.engine here = x ++ c :: y → mine c → (∀ o ∈ x, ¬mine o) →
        (c.started ≠ none ∨ s.a2aBlocked x c f.srcRank f.offset = true → exec (.a2aArrival i) s = .next s) ∧
        (c.started = none → s.a2aBlocked x c f.srcRank f.offset = false →
          s.engineCells c (c.highPtr 1) (f.srcRank * c.dstStride + f.offset) f.payload = (s1, .ok cells) → loggedSeg (c.seg (c.highPtr 1)) = false →
          exec (.a2aArrival i) s = .next (State.setCmd { s1 with a2a := s1.a2a.eraseIdx i } here x.length
            { c with started := some { no := f.srcRank, phase := 3, bytes := f.payload.length, cells := cells } }))) ∧
    (let hit := (s.engine (160 + die)).map (fun c => (c.vf, c.cid))
     ∃ t, exec (.collectiveEngineFault die) s = .next t ∧ t.mem = s.mem ∧ t.th = s.th ∧ t.regions = s.regions ∧
       ∀ d < Config.dies s.pkg.partC, t.engine (160 + d) = (s.engine (160 + d)).map
         (fun c => if c.status = none ∧ (c.vf, c.cid) ∈ hit then c.cancel 6 else c))

/-- R268, R277, R278, R282, R294: what engines do with commands. -/
def Obligations.EngineEvents : Prop := Claim.EngineCommands

/-! Speculation (15). -/

/-- R313, R317, R319, R327 to R331: the forms of major 0x2C. SPECB waits for the thread's earlier work, opens a group on the lowest empty slots that no eviction keeps for another task (R376), and its
owner waits, or the group closes at once with no iteration; SPECE ends a group that is done; SPCMP waits for commit; SPABORT of the oldest iteration closes the group at its SPECE word;
SPAPPEND outside a group takes its row at once; SPSTAT reads. -/
def Obligations.SpeculationForms : Prop :=
  ∀ (s : State) (a d t n : BitVec 5) (k m g : BitVec 2) (e sel : BitVec 8) (j : Nat) (l : Loc),
    let w := 2 ^ (k.toNat + 1)
    let count := (s.rdS n).toNat
    let free := (((List.range 15).map (fun i => 16 * s.coreNo + i)).filter (fun k => (s.getT k).st = .empty)).filter (fun k => (s.keptFor k).isNone)
    let tol := f32 ((s.rdS t).setWidth 32)
    let p := s.th.sp
    let own := p.owner
    let o := s.getT own
    s.slotNo ≠ 15 →
    (k ≠ 3 → m ≠ 3 → 2 ≤ e.toNat → p.role = .none → s.th.en.gangN = 0 → p.act = false → count < 2 ^ 24 →
      ((s.launchOf s.cur).kernel.guess.drop g.toNat).headD 0xFFFFFFFF ≠ 0xFFFFFFFF → (m = 0 → t = 0) →
      (m = 2 → ∃ neg c x, tol = .fin neg c x ∧ (neg = true → c = 0)) → w ≤ free.length → s.th.st = .ready →
      (s.workDone s.cur .all = false → ∃ u, exec (.specb t n k m g e) s = .next u ∧ s.Parked u (.work .all)) ∧
      (s.workDone s.cur .all = true → ∃ u, exec (.specb t n k m g e) s = .next u ∧ u.mem = s.mem ∧ u.th.sp.act = true ∧ u.th.sp.n = count ∧ u.th.sp.width = w ∧
        u.th.sp.c = 0 ∧ u.th.sp.slots = free.take w ∧ u.th.sp.specbPc = s.th.r.pc ∧
        (∀ x ∈ free.take w, (u.getT x).st = .parked ∧ (u.getT x).sp.role = .slot ∧ (u.getT x).sp.owner = s.cur) ∧
        (count ≠ 0 → u.th.st = .parked ∧ u.th.w.park = .specIdle ∧ u.th.r = s.th.r) ∧
        (count = 0 → u.th.st = .ready ∧ u.th.r = { s.th.r with pc := s.th.r.pc + BitVec.ofNat 64 (4 * (s.word.toNat % 256)) }))) ∧
    (p.role = .none → p.act = true → p.abort = true ∨ p.n ≤ p.c → s.cur ∉ p.slots →
      ∃ u, exec .spece s = .next u ∧ u.mem = s.mem ∧ u.th.sp.act = false ∧ u.th.sp.slots = [] ∧ (∀ x ∈ p.slots, u.getT x = {}) ∧
        (∀ x, x ∉ p.slots → x ≠ s.cur → u.getT x = s.getT x) ∧
        u.th.r = { s.th.r.next with seed := if p.c = 0 then s.th.r.seed else p.lastSeed }) ∧
    (p.role = .iter j → s.th.st ≠ .saving → s.th.r.pc + 4 = o.sp.specbPc + 4 * (o.sp.specb &&& 0xFF#64) →
      ∃ u, exec .spcmp s = .next u ∧ s.Parked u .specDone) ∧
    (p.role = .iter j → own ≠ s.cur → j = o.sp.winW + o.sp.winA → s.cur ∈ o.sp.slots → own ∉ o.sp.slots →
      ∃ u, exec .spabort s = .next u ∧ u.mem = s.mem ∧ (∀ x ∈ o.sp.slots, u.getT x = {}) ∧ (u.getT own).st = .ready ∧
        (u.getT own).sp.abort = true ∧ (u.getT own).sp.slots = [] ∧
        (u.getT own).r = { o.r with pc := o.sp.specbPc + 4 * (o.sp.specb &&& 0xFF#64) }) ∧
    (s.TrapsAlone → Traps .spcmp s tSpec 0 0 ∧ Traps .spabort s tSpec 0 0) ∧
    (s.Calm → (check (s.rdS a) 0 64 64 (rR + rW) only0).run s = (.ok l, s) →
      let key := lsKey s.coreNo (segBase l.seg + l.eo)
      let x := s.readLE key 64
      let rows := x / 2 ^ 320 % 2 ^ 16
      let f := formatOf (BitVec.ofNat 6 (x / 2 ^ 336 % 64))
      let tpos := x / 2 ^ 256 % 2 ^ 32
      let eng := 128 + s.regionNo
      (f = .flt .f32 ∨ f = .flt .f16 ∨ f = .flt .bf16 ∨ ∃ sg ext w, f = .flt (.b8 sg ext w)) → x / 2 ^ 342 % 4 = 0 →
      rows % 32 = 0 → 0 < rows → rows ≤ 128 → x / 2 ^ 348 % 8 = 0 → x / 2 ^ 352 = 0 → tpos < 16 * (x / 2 ^ 288 % 2 ^ 32) →
      s.appendCheck s.cur key = none → isLs key = true → key % 64 = 0 →
      ∃ u c, exec (.spappend d a) s = .next u ∧ u.th.r = s.th.r.next ∧ u.engine eng = s.engine eng ++ [c] ∧ c.kind = 3 ∧ c.row = some (s.rdV d) ∧
        c.tpos = tpos ∧ s.BytesAt u (key + 32) (leBytes 4 (tpos + 1))) ∧
    (p.role = .none → sel.toNat < 5 → GivesS (.spstat d sel) s d (if sel = 0 then BitVec.ofNat 64 p.tol.toNat else if sel = 1 then p.windows
      else if sel = 2 then p.commits else if sel = 3 then p.squashes
      else BitVec.ofNat 64 (((s.cur :: p.slots).map (fun k => (s.getT k).sp.entries)).foldl (· + ·) 0)))

/-- R314, R318 to R320: a window starts its oldest iteration in the first slot and a guess routine in each other; the end of a routine starts its
iteration with the guessed carry; a commit first performs the buffered stores, in order and one request at a time (R451), then gives the owner the
iteration's registers, and then the next iteration is decided; a decided window ends in an event of its own. That a commit waits while the next
guess routine runs (R338) is the model's reading (log 16). -/
def Obligations.SpeculationEvents : Prop :=
  ∀ (s : State) (own k m j : Nat), let o := s.getT own
    let kern := (s.launchOf own).kernel
    let golden := 0x9E3779B97F4A7C15#64
    let body := o.sp.specbPc + 4
    let endPc := o.sp.specbPc + 4 * (o.sp.specb &&& 0xFF#64)
    (o.sp.act = true → o.sp.winOpen = false → o.st = .parked → o.w.park = .specIdle →
      (o.sp.n ≤ o.sp.c → ∃ t, exec (.windowStart own) s = .next t ∧ t.mem = s.mem ∧ (t.getT own).st = .ready ∧
        (t.getT own).r = { o.r with pc := endPc } ∧ ∀ x, x ≠ own → t.getT x = s.getT x) ∧
      (o.sp.c < o.sp.n → o.sp.slots ≠ [] → o.sp.slots.Nodup → own ∉ o.sp.slots → o.sp.inOwner = false → o.sp.width ≤ o.sp.slots.length →
        1 ≤ o.sp.width →
        ∃ t, exec (.windowStart own) s = .next t ∧ t.mem = s.mem ∧ (t.getT own).sp.winOpen = true ∧ (t.getT own).sp.winW = o.sp.c ∧
          (t.getT own).sp.winA = 0 ∧ (t.getT own).r = o.r ∧
          ∀ i < min o.sp.width (o.sp.n - o.sp.c), let u := t.getT (o.sp.slots.getD i 0)
            u.st = .ready ∧ u.sp.role = (if i = 0 then .iter o.sp.c else .guess i) ∧ u.sp.owner = own ∧ u.r.fp = 0 ∧
            u.r.seed = (o.r.seed ^^^ BitVec.ofNat 64 (o.sp.c + i) * golden) ∧
            u.r.pc = (if i = 0 then body else BitVec.ofNat 64 (4 * (kern.guess.drop (o.sp.specb.toNat / 2 ^ 8 % 4)).headD 0)) ∧
            u.r.rdS 1 = BitVec.ofNat 64 (if i = 0 then o.sp.c else i) ∧ (i ≠ 0 → u.r.rdS 31 = body) ∧ u.r.v = o.r.v ∧ u.r.k = o.r.k ∧
            ∀ x, x ≠ 1 → (i ≠ 0 → x ≠ 31) → u.r.rdS x = o.r.rdS x)) ∧
    ((s.getT k).sp.role = .guess m → (s.getT k).sp.owner = own → k ≠ own → (s.getT k).st = .ready → (s.getT k).r.pc = body → m ≠ o.sp.winA →
      let old := (s.getT k).r
      let base := o.sp.base.getD o.r
      let j := o.sp.winW + m
      ∃ t, exec (.guessEnd k) s = .next t ∧ t.mem = s.mem ∧ (∀ x, x ≠ k → t.getT x = s.getT x) ∧ let u := t.getT k
        u.st = .ready ∧ u.sp.role = .iter j ∧ u.sp.guess = some old ∧ u.r.pc = body ∧ u.r.rdS 1 = BitVec.ofNat 64 j ∧
        u.r.seed = (base.seed ^^^ BitVec.ofNat 64 j * golden) ∧
        (∀ x < 32, x ≠ 1 → u.r.rdS x = if kern.carryS.getLsbD x then old.rdS x else base.rdS x) ∧
        ∀ x < 32, u.r.rdV x = if kern.carryV.getLsbD x then old.rdV x else base.rdV x) ∧
    (let x := o.sp.posKey own o.sp.winA
     o.sp.act = true → o.sp.winOpen = true → o.sp.winA < min (max o.sp.width 1) (o.sp.n - o.sp.winW) → (s.getT x).sp.role = .iter j →
      (s.getT x).st = .parked → (s.getT x).w.park = .specDone → x ≠ own → (s.getT x).sp.owner = own →
      (s.guessRuns own = true → exec (.specCommit own) s = .next s) ∧
      (s.guessRuns own = false → ∀ e rest, (s.getT x).sp.buf = e :: rest →
        ((s.getT x).sp.flush = 0 → ∃ t, exec (.specCommit own) s = .next t ∧ t.mem = s.mem ∧ (t.getT own).r = o.r ∧ (t.getT own).sp = o.sp ∧
          (t.getT x).sp.buf = e :: rest ∧ (t.getT x).sp.role = .iter j ∧
          ∃ q ∈ t.relReqs x, q.op = .entry e.cells e.ptr e.key ∧ q.strong = true ∧ q.no = (t.getT x).sp.flush) ∧
        ((s.getT x).sp.flush ≠ 0 → (∃ q ∈ s.relReqs x, q.no = (s.getT x).sp.flush) → exec (.specCommit own) s = .next s)) ∧
      (s.guessRuns own = false → (s.getT x).sp.buf = [] → (s.getT x).sp.app = [] →
      ∃ u : State, exec (.specCommit own) s = .next (u.judge own) ∧ u.mem = s.mem ∧ (u.getT own).sp.c = o.sp.c + 1 ∧
        (u.getT own).sp.winA = o.sp.winA + 1 ∧ (u.getT own).sp.lastSeed = (s.getT x).r.seed ∧ (u.getT x).sp.role = .slot ∧
        (u.getT own).r = { (s.getT x).r with pc := o.sp.specbPc, seed := o.r.seed, fp := o.r.fp ||| (s.getT x).r.fp, rep := {} })) ∧
    (o.sp.act = true → o.sp.winOpen = true → (s.log (regionOf (coreOf own))).mode = 0 →
      min (max o.sp.width 1) (o.sp.n - o.sp.winW) ≤ o.sp.winA ∨ (s.getT (o.sp.posKey own o.sp.winA)).sp.role = .slot →
      ∃ t, exec (.specCommit own) s = .next t ∧ t.mem = s.mem ∧ (t.getT own).st = .parked ∧ (t.getT own).w.park = .specIdle ∧
        (t.getT own).r = o.r ∧ (t.getT own).sp = { o.sp with winOpen := false, base := none, windows := o.sp.windows + 1 } ∧
        ∀ x, x ≠ own → t.getT x = s.getT x)

/-! The order log (16). -/

/-- R339 to R348, R351, R353, R354: LOGMARK appends one record in record mode; LOGCTL reads and sets the region's log registers, answering 0, 1 for a
bad value and 2 in the wrong mode; the driver's writes; and the replay stall: with the whole window presented and nothing that goes on, the stream of
the record at TAIL stops, DIV is set, and its task is frozen with REPLAY_DIVERGE, or its saved context when it has no slot. The model's reading
(log 31), not the spec's words: FROZEN set in the saved context, the packet then sent, and status 1 for a MODE above 2 before status 2 is looked at. -/
def Obligations.OrderLog : Prop :=
  ∀ (s s1 : State) (d a : BitVec 5) (tag : BitVec 8) (q pa : Nat) (value : BitVec 64), let r := s.regionNo
    let l := s.log r
    let v := s.rdS a
    let idle := ∀ k ∈ s.threadKeys, (s.getT k).st ≠ .parked
    let did := fun (i : Instr) (P : Log → Prop) => ∃ t, exec i s = .next t ∧ t.th.r = (s.th.r.wrS d.toNat 0).next ∧ t.mem = s.mem ∧ P (t.log r)
    (s.th.sp.role = .none →
      (l.mode = 0 → ∃ t, exec (.logmark a tag) s = .next t ∧ s.Retired t s.th.r.next) ∧
      (l.mode = 1 → 64 ≤ l.free → s.translate r (l.recDva l.head) true = (s1, .ok pa) →
        ∃ t e, exec (.logmark a tag) s = .next t ∧ t.th.r = s.th.r.next ∧ (t.log r).head = l.head + 1 ∧ (t.log r).tail = (s1.log r).tail ∧
          s1.BytesAt t (hbmKey pa) (Ev.bytes e l.head) ∧ e.kind = 10 ∧ e.task = s.th.id.task ∧ e.digest = v.setWidth 32 ∧ e.aux = tag.setWidth 32)) ∧
    (s.th.id.priv = true →
      GivesS (.logctlRead d a) s d (if v = 0 then l.ring else if v = 1 then l.ptrWord else if v = 2 then l.modeWord else 1) ∧
      (l.mode ≠ 0 → GivesS (.logctlRing d a) s d 2) ∧
      (l.mode = 0 → ringOk v = false → GivesS (.logctlRing d a) s d 1) ∧
      (l.mode = 0 → ringOk v = true → did (.logctlRing d a) (fun x => x = { l with ring := v, head := 0, tail := 0 })) ∧
      ((v = 1 ∧ l.mode = 2) ∨ (v = 2 ∧ l.mode = 1) → GivesS (.logctlMode d a) s d 2) ∧
      (2 < v.toNat → GivesS (.logctlMode d a) s d 1) ∧
      (v.toNat ≤ 2 → ¬((v = 1 ∧ l.mode = 2) ∨ (v = 2 ∧ l.mode = 1)) → idle →
        did (.logctlMode d a) (fun x => x.mode = v.toNat ∧ x.div = false ∧ x.ring = l.ring ∧ x.head = l.head ∧ (v ≠ 2 → x.tail = l.tail))) ∧
      (l.mode ≠ 1 → GivesS (.logctlTail d a) s d 2) ∧
      (l.mode = 1 → ¬(v.toNat < 2 ^ 32 ∧ l.tailOk (v.setWidth 32) = true) → GivesS (.logctlTail d a) s d 1) ∧
      (l.mode = 1 → v.toNat < 2 ^ 32 → l.tailOk (v.setWidth 32) = true →
        did (.logctlTail d a) (fun x => x.tail = v.setWidth 32 ∧ x.head = l.head ∧ x.ring = l.ring ∧ x.mode = 1)) ∧
      (l.mode ≠ 2 → GivesS (.logctlHead d a) s d 2) ∧
      (l.mode = 2 → ¬(v.toNat < 2 ^ 32 ∧ l.headOk (v.setWidth 32) = true) → GivesS (.logctlHead d a) s d 1) ∧
      (l.mode = 2 → v.toNat < 2 ^ 32 → l.headOk (v.setWidth 32) = true →
        did (.logctlHead d a) (fun x => x.head = v.setWidth 32 ∧ x.ring = l.ring ∧ x.mode = 2 ∧ x.div = l.div ∧ x.stopped = l.stopped ∧
          (x.tail - l.tail).toNat ≤ (v.setWidth 32 - l.tail : Word32).toNat))) ∧
    (let x := s.log q
     let m := value.toNat % 4
     (m = 3 ∨ (m = 1 ∧ x.mode = 2) ∨ (m = 2 ∧ x.mode = 1) → exec (.logmodeWrite q value) s = .next s) ∧
     (idle → m ≠ 3 → ¬((m = 1 ∧ x.mode = 2) ∨ (m = 2 ∧ x.mode = 1)) → ∃ t, exec (.logmodeWrite q value) s = .next t ∧ t.th = s.th ∧
       t.mem = s.mem ∧ (t.log q).mode = m ∧ (t.log q).head = x.head ∧ (m ≠ 2 → (t.log q).tail = x.tail)) ∧
     (x.mode = 1 → x.tailOk ((value >>> 32).setWidth 32) = true → ∃ t, exec (.logptrTailWrite q value) s = .next t ∧ t.mem = s.mem ∧
       (t.log q).tail = (value >>> 32).setWidth 32 ∧ (t.log q).head = x.head) ∧
     (x.mode = 2 → x.window.length = min 4096 x.cap →
       let b := s.readRecord q x.tail
       let stream := (streamClass (recKind b), if streamClass (recKind b) = 1 then recObject b else recTask b)
       x.stopped.contains stream = false →
       let live := s.threadKeys.find? (fun k => (s.getT k).st ≠ .empty && (s.getT k).st ≠ .frozen && (s.getT k).id.task = recTask b)
       ∃ t, exec (.replayStall q) s = .next t ∧
         (live = none → (s.region q).mailbox.length < 256 → (s.core (256 * q)).held = [] → t.mem = s.mem ∧ t.th = s.th ∧
           t.log q = { x with div := true, stopped := x.stopped ++ [stream] } ∧
           ∃ p : Packet, (t.region q).mailbox = (s.region q).mailbox ++ [p] ∧ p.code = tDiverge ∧ p.task = recTask b ∧ p.addr = recObject b ∧
             ∀ c ∈ (t.region q).contexts, c.task = recTask b → c.frozen = true) ∧
         ∀ k, live = some k → (s.getT k).st = .ready → (s.getT k).sp.role = .none → (s.getT k).sp.act = false → (s.getT k).en.gangN = 0 →
           s.pkg.trigsel = [] → t.mem = s.mem ∧ (t.log q).div = true ∧ (t.log q).stopped = x.stopped ++ [stream] ∧
             (t.getT k).st = .frozen ∧ t.lastCode k = tDiverge))

/-! Launches (18). -/

/-- R370 to R372: a doorbell moves TAIL, QCTL's writes keep the other party's fields and reset the counts when EN rises, and a fetched record is
accepted under the next launch number or fetched again after a longer back-off, not before it has passed. R366: the checks accept or reject with a
status. That a QCTL write with L2N above 12 keeps the old L2N is the model's choice (log 30): R370 gives only the range 0 to 12. -/
def Sys2Proof.Claim.QueueEvents : Prop :=
  ∀ (s s1 : State) (q vf number : Nat) (pf : Bool) (value : BitVec 64) (l : Launch) (i : Nat), let x := s.queue q
    let tail : Word32 := value.setWidth 32
    let now := (s.region (s.region0 x.vf)).clock
    (s.vfSubmits x.vf = true → (tail - x.head).toNat ≤ 2 ^ x.l2n → exec (.queueNotify q value) s = .next (s.setQueue q { x with tail := tail })) ∧
    exec (.qerrClear q value) s = .next (s.setQueue q { x with qerr := x.qerr &&& ~~~(value &&& 0xC000000000000000#64) }) ∧
    (∃ y, exec (.qctlWrite q pf value) s = .next (s.setQueue q y) ∧ y.qbase = x.qbase ∧ y.qerr = x.qerr ∧
      (y.qctl.getLsbD 63 = if pf then value.getLsbD 63 else x.qctl.getLsbD 63) ∧ (y.qctl.getLsbD 62 = if pf then value.getLsbD 62 else x.qctl.getLsbD 62) ∧
      y.qctl.getLsbD 61 = value.getLsbD 61 ∧ (∀ k < 12, y.qctl.getLsbD k = value.getLsbD k) ∧
      (value.toNat / 2 ^ 16 % 16 ≤ 12 → y.l2n = value.toNat / 2 ^ 16 % 16) ∧ (12 < value.toNat / 2 ^ 16 % 16 → y.l2n = x.l2n) ∧
      (x.en = false → y.en = true → y.head = 0 ∧ y.tail = 0) ∧ (x.en = true → y.en = false → y.tail = y.head ∧ y.head = x.head)) ∧
    (x.backoff ≠ 0 → now < x.due → exec (.recordRefetch q) s = .next s) ∧
    (∀ j ∈ [Instr.recordFetch q, .recordRefetch q], (j = .recordFetch q ↔ x.backoff = 0) → x.backoff = 0 ∨ x.due ≤ now → s.fetchable? q = true →
      x.qbase.getLsbD 63 = true →
      let b := s.bytes (hostKey (x.slotAddr x.head.toNat)) 640
      let good := s.pkg.refuses (x.slotAddr x.head.toNat) 640 = false ∧ fieldAt b 0 1 = x.phaseOf x.head.toNat ∧ recCheckOk b = true ∧
        s.numberFree x.vf = true
      let n := if x.backoff = 0 then 256 else min 16384 (2 * x.backoff)
      (good → ∃ t, exec j s = .next t ∧ t.mem = s.mem ∧ t.th = s.th ∧ t.queue q = { x with head := x.head + 1, backoff := 0, due := 0 } ∧
        (t.vf x.vf).nextLaunch = ((s.vf x.vf).nextLaunch + 1) % 2 ^ 24 ∧
        t.launch (launchKey x.vf (s.vf x.vf).nextLaunch) = { phase := 1, record := b, queue := q, recNo := x.head, prio := x.prio }) ∧
      (¬good → exec j s = .next (s.setQueue q { x with backoff := n, due := now + n }))) ∧
    (let k := launchKey vf number
     (s.launch k).phase = 1 →
      ((checkLaunch vf k).run s = (.ok l, s1) → l.phase = 2 ∧ exec (.submissionCheck vf number) s = .next (s1.setLaunch k l)) ∧
      ((checkLaunch vf k).run s = (.error i, s1) → i ≠ 0 →
        exec (.submissionCheck vf number) s = .next (s1.setLaunch k { s1.launch k with phase := 3, status := i })) ∧
      ((checkLaunch vf k).run s = (.error 0, s1) → exec (.submissionCheck vf number) s = .next s1))

/-- R381: LAUNCH waits for the thread's earlier accesses, answers 1 for a queue that does not exist, 2 for one it may not use, 3 for a full ring and
4 where no segment covers the kernel, and otherwise writes the record with its PHASE into the next slot, advances TAIL and answers 0. -/
def Sys2Proof.Claim.DeviceLaunch : Prop :=
  ∀ (s s1 s2 : State) (d a : BitVec 5) (l : Loc) (ring : Nat) (b : List Byte),
    let q := (s.rdS d).toNat
    let x := s.queue q
    let answers := fun (n : Nat) => ∃ t, exec (.launch d a) s = .next t ∧ s.WroteS t d (BitVec.ofNat 64 n)
    let denied := x.vf ≠ taskVf s.th.id.task ∨ x.en = false ∨ x.qctl.getLsbD 61 = false ∨ (x.qctl.getLsbD 62 = true ∧ s.th.id.priv = false)
    let full := 2 ^ x.l2n ≤ (x.tail - x.head).toNat
    let covered := fun (s : State) => ((List.range 8).foldlM
      (fun (ok : Bool) (i : Nat) => if ok then (pure true : M Bool) else kernelCovered (fieldAt b 0x08 8) (s.th.r.rdG i) i) false).run s
    s.slotNo ≠ 15 → s.th.sp.role = .none →
    (s.workDone s.cur .accesses = false → s.th.st ≠ .saving → ∃ t, exec (.launch d a) s = .next t ∧ s.Parked t (.work .accesses)) ∧
    (s.workDone s.cur .accesses = true → (check (s.rdS a) 0 640 64 rR anySpace).run s = (.ok l, s) →
      (2 ^ 14 ≤ q → answers 1) ∧ (q < 2 ^ 14 → denied → answers 2) ∧ (q < 2 ^ 14 → ¬denied → full → answers 3) ∧
      (q < 2 ^ 14 → ¬denied → ¬full → (readM l 640).run s = (.ok (some b), s1) → b.length = 640 →
        (covered s1 = (.ok false, s2) → ∃ t, exec (.launch d a) s = .next t ∧ s2.WroteS t d 4) ∧
        (covered s1 = (.ok true, s2) → x.qbase.getLsbD 63 = true → ring = hostKey (x.slotAddr x.tail.toNat) →
          ∃ t, exec (.launch d a) s = .next t ∧ (t.queue q).tail = x.tail + 1 ∧ (t.queue q).head = x.head ∧
            (∀ m, t.rdS m = if m = d ∧ m ≠ 0 then 0 else s2.rdS m) ∧
            t.byte ring = BitVec.ofNat 8 (x.phaseOf x.tail.toNat) ∧
            (∀ j, 1 ≤ j → j < 640 → (j < 0xFC ∨ 0x100 ≤ j) → t.byte (ring + j) = b.getD j 0) ∧
            ∀ k, (k < ring ∨ ring + 640 ≤ k) → t.byte k = s2.byte k)))

/-- R366, R370 to R372, R381: queues, records and LAUNCH. -/
def Obligations.Submission : Prop := Claim.QueueEvents ∧ Claim.DeviceLaunch

/-! Contexts and waking (19). -/

/-- R73, R389, R390, R397, R402: WAKE acts on the first thread of the region with the task and in the state it needs, and answers 0, or 1 where
there is none: RESUME makes a FROZEN slot READY at its PC, in a single step when STEP is set, once its returned commands are pushed again, and an owner whose
windows go on (R336) waits for them;
FAULT makes a slot parked on a page fault go on, and the members of its gang with it;
ABANDON empties the slot, or its whole group, and counts the task as abandoned. COLOUR flips the core's colour and answers the old one. -/
def Sys2Proof.Claim.WakeAndColour : Prop :=
  ∀ (s : State) (d a : BitVec 5) (k : Nat), let u := s.getT k
    let first := fun (ok : Thread → Bool) => (s.taskThreads (s.rdS a)).find? (fun k => ok (s.getT k))
    let frozen := fun (t : Thread) => decide (t.st = .frozen)
    let windows := u.sp.act = true ∧ u.sp.abort = false ∧ (u.sp.c < u.sp.n ∨ u.sp.bound = true) ∧ u.sp.role = .none
    let faulted := fun (t : Thread) => t.st = .parked && (match t.w.park with
      | .pageFault _ _ => true
      | _ => false)
    let own := if u.sp.role = .none then k else u.sp.owner
    let o := s.getT own
    let n := taskKey o.id.task
    let x := s.core s.coreNo
    let woke := fun (i : Instr) (v : Thread) => ∃ t, exec i s = .next t ∧ t.mem = s.mem ∧ t.th.r = (s.th.r.wrS d.toNat 0).next ∧
      t.getT k = v ∧ ∀ j, j ≠ k → j ≠ s.cur → t.getT j = s.getT j
    s.th.id.priv = true →
    (k ≠ s.cur → first frozen = some k → woke (.wakeResume d a)
      { u with
        st := if u.en.repush = [] ∧ ¬windows then .ready else .parked
        w := { u.w with park := if u.en.repush ≠ [] then .epush (descPort (u.en.repush.headD [])) else if windows then .specIdle else .none }
        is := { u.is with woken := true, ibuf := [], frame := [], stepping := s.stepBit k, stepped := false } }) ∧
    (k ≠ s.cur → first faulted = some k → u.en.gangN = 0 → woke (.wakeFault d a)
      (if u.w.acc.held then { u with w := { u.w with park := .relaxed } } else { u with st := .ready, w := { u.w with park := .none } })) ∧
    (k ≠ s.cur → first faulted = some k → ∃ t, exec (.wakeFault d a) s = .next t ∧ t.mem = s.mem ∧ ∀ m ∈ gangMembers k u.en.gangN,
      m ≠ k → (s.getT m).en.gangN = u.en.gangN → u.en.gangN ≠ 0 → (s.getT m).st = .parked → (s.getT m).w.park = u.w.park → m ≠ s.cur →
      t.getT m = { s.getT m with st := .ready, w := { (s.getT m).w with park := .none } }) ∧
    (first frozen = some k → k ≠ s.cur → k % 16 = 15 → woke (.wakeAbandon d a) {}) ∧
    (first frozen = some k → k % 16 ≠ 15 → own ≠ s.cur → s.cur ∉ o.sp.slots → own ∉ o.sp.slots → o.en.gangN = 0 →
      ∃ t, exec (.wakeAbandon d a) s = .next t ∧ t.mem = s.mem ∧ t.th.r = (s.th.r.wrS d.toNat 0).next ∧ t.getT own = {} ∧
        (∀ j ∈ o.sp.slots, t.getT j = {}) ∧ (∀ j, j ≠ own → j ≠ s.cur → j ∉ o.sp.slots → t.getT j = s.getT j) ∧
        (t.launch n).abandoned = (s.launch n).abandoned + 1 ∧ (t.launch n).ended = (s.launch n).ended) ∧
    (first frozen = none → GivesS (.wakeResume d a) s d 1 ∧ GivesS (.wakeAbandon d a) s d 1) ∧
    (first faulted = none → GivesS (.wakeFault d a) s d 1) ∧
    (∃ t, exec (.colour d) s = .next t ∧ t.mem = s.mem ∧ t.threads = s.threads ∧
      t.th.r = (s.th.r.wrS d.toNat (if x.colour then 1 else 0)).next ∧ t.core s.coreNo = { x with colour := !x.colour } ∧
      ∀ c, c ≠ s.coreNo → t.core c = s.core c)

/-- R56, step 4: a thread without privilege traps PRIVILEGED at the forms of the supervisor, with nothing done. -/
def Obligations.PrivilegedForms : Prop :=
  ∀ (s : State) (d a : BitVec 5) (sl : BitVec 4) (n : BitVec 3) (c : BitVec 2) (b : BitVec 6) (i : Instr),
    s.th.id.priv = false → s.TrapsAlone →
    i ∈ [Instr.ctxsave d a sl, .ctxload d a, .colour d, .wakeResume d a, .wakeFault d a, .wakeAbandon d a, .segset n a, .wheelset a,
      .bankret d c b, .logctlRead d a, .logctlRing d a, .logctlMode d a, .logctlTail d a, .logctlHead d a] →
    Traps i s tPrivileged (s.word.setWidth 64) 0

/-- R81, R365, R393 to R400: CTXSAVE answers 1 for a slot it may not save, 3 for a slot of a group and 2 for an empty pool; otherwise the slot is
SAVING and the issuing thread waits. The save writes the area, empties the slot and gives the waiting thread the area's DVA. CTXLOAD answers
18, 16 or 17, waits for a result that has not arrived, or loads the context into the lowest EMPTY slot that is not kept for another task (R376) and
answers its number; the scheduler's resumption loads it too. An area that a context's bytes were copied to holds it (R424; how a device knows is log 24).
A context loaded has the registers, the task and the privilege of its area. Three clauses are the model's choice (log 29), not the spec's words:
that a launch's bound on its tasks counts as no EMPTY slot, that CTXLOAD answers 16 too where the launch's window does not fit, and that CTXSAVE of a
slot already SAVING answers 1. -/
def Sys2Proof.Claim.ContextForms : Prop :=
  ∀ (s s1 s2 : State) (d a : BitVec 5) (sl : BitVec 4) (x n r : Nat) (c : Saved) (b : List Byte) (l : List (Nat × Nat)) (w : Nat),
    let answers := fun (i : Instr) (base : State) (v : Nat) => ∃ t, exec i s = .next t ∧ base.WroteS t d (BitVec.ofNat 64 v)
    let saves := fun (base s2 : State) (k : Nat) => let u := base.getT k
      u.en.gangN = 0 → u.sp.act = false → s2.th.st ≠ .saving → ∃ t, exec (.ctxsave d a sl) s = .next t ∧ t.mem = s2.mem ∧
        (t.getT k).st = .saving ∧ (t.getT k).r = (if u.w.park = .access then u.r else { u.r with pc := u.reportPc }) ∧
        (∀ j, j ≠ k → j ≠ s2.cur → t.getT j = s2.getT j) ∧
        t.th = { s2.th with st := .parked, w := { s2.th.w with park := .ctxsave d.toNat sl.toNat x, since := t.th.w.since, acc := t.th.w.acc } }
    let k := 16 * s1.coreNo + sl.toNat
    let u := s1.getT k
    let turned := k = s1.cur ∨ sl = 15 ∨ u.st = .empty ∨ u.st = .saving
    let v1 := if (s1.contextAt s1.regionNo x).isSome then s1 else s1.adoptCopy s1.regionNo x
    let spare := v1.openSlots v1.coreNo
    (s.th.id.priv = true → s.slotNo ≠ 15 → (s.rdS a = 0 ∧ s1 = s) ∨ (s.rdS a ≠ 0 ∧ (areaOperand (s.rdS a)).run s = (.ok x, s1)) →
      (turned → answers (.ctxsave d a sl) s1 1) ∧
      (¬turned → u.sp.role ≠ .none → u.sp.owner ≠ k → answers (.ctxsave d a sl) s1 3) ∧
      (¬turned → u.sp.role = .none ∨ u.sp.owner = k →
        (s.rdS a ≠ 0 → saves s1 s1 k) ∧ (s.rdS a = 0 → s.poolArea s.regionNo = none → answers (.ctxsave d a sl) s 2) ∧
        (s.rdS a = 0 → s.poolArea s.regionNo = some x →
          (translatePieces s.regionNo true 1 0 (pagePieces x 5120)).run s = (.ok l, s2) → s2.getT k = u → saves s2 s2 k))) ∧
    (s.th.id.priv = true → s.slotNo ≠ 15 → (areaOperand (s.rdS a)).run s = (.ok x, s1) →
      let room := (v1.launch (taskKey c.task)).kernel.slots ≤ v1.residentOn (taskKey c.task) v1.coreNo
      let window := v1.needWindow (taskKey c.task) v1.coreNo
      (v1.contextAt v1.regionNo x = none → answers (.ctxload d a) s1 18) ∧
      (v1.contextAt v1.regionNo x = some (r, c) →
        (spare = [] → answers (.ctxload d a) s1 16) ∧
        (spare ≠ [] → v1.ctxAdmits r c v1.coreNo = false → answers (.ctxload d a) s1 17) ∧
        (spare ≠ [] → v1.ctxAdmits r c v1.coreNo = true → room ∨ window = none → answers (.ctxload d a) s1 16) ∧
        (spare.head? = some n → v1.ctxAdmits r c v1.coreNo = true → ¬room → window ≠ none →
          (v1.loadContext r c n = .done s2 → answers (.ctxload d a) s2 (slotOf n)) ∧
          (v1.loadContext r c n = .wait s2 → s2.th.st ≠ .saving → ∃ t, exec (.ctxload d a) s = .next t ∧ s2.Parked t .ctxload)))) ∧
    (let core := coreOf n
     (List.range 32).findSome? (fun r => ((s.region r).contexts.find? (fun c => c.area = x && s.resumable r c &&
        s.regionUp (taskVf c.task) (regionOf core) && s.ctxAdmits r c core &&
        (!c.unrec || (s.log (regionOf c.home)).mode ≠ 2 || core = c.home))).map (fun c => (r, c))) = some (r, c) →
      (s.getT n).st = .empty → slotOf n ≠ 15 → s.keptFor n = none → s.residentOn (taskKey c.task) core < (s.launch (taskKey c.task)).kernel.slots →
      (s.loadContext r c n = .done s2 → exec (.contextResume n x) s = .next s2) ∧
      (s.loadContext r c n = .wait s2 → exec (.contextResume n x) s = .next s2)) ∧
    (let core := coreOf n
     let v := threadOfImage b
     let home := fieldAt b 0x120A 2 % 2 ^ 13
     s.flushContext (areaKey r c.area) = some s1 → s1.readDva r c.area 5120 = (s2, some b) → (s2.log (regionOf core)).mode = 0 →
      (s2.launch (taskKey v.id.task)).window core = some w → v.sp.act = false → v.en.repush = [] → bit (fieldAt b 0x120C 1) 1 = false →
      (fieldAt b 0x1204 4 ≠ 0 → s.loadContext r c n = .wait s) ∧
      (fieldAt b 0x1204 4 = 0 →
        ∃ t, s.loadContext r c n = .done t ∧ t.mem = s2.mem ∧ (t.getT n).st = .ready ∧ (t.getT n).id.task = v.id.task ∧
          (t.getT n).id.priv = v.id.priv ∧ (t.getT n).id.scope = c.scope ∧
          (t.getT n).r = (if core = home then v.r else v.r.rebase (((s2.launch (taskKey v.id.task)).window home).getD 0) w) ∧
          (t.region r).contexts = (s2.region r).contexts.filter (fun y => y.area ≠ c.area) ∧ ∀ j, j ≠ n → t.getT j = s2.getT j)) ∧
    (∀ j y z, (s.getT n).st = .saving → (s.getT n).en.save = some j → s.quiesced n = true → s.finishSave n j = some s1 →
      exec (.contextSave n) s = .next s1 ∧ s1.getT n = {} ∧
      (areaKey (regionOf (coreOf n)) j.area, (s.getT n).rewind.regPart (if j.frozen then s.lastCode n else 0)) ∈ (s1.core (coreOf n)).cache ∧
      (∃ e ∈ (s1.region (regionOf (coreOf n))).contexts, e.area = j.area ∧ e.task = (s.getT n).id.task ∧ e.home = coreOf n ∧ e.frozen = j.frozen) ∧
      (z ≠ n → coreOf z = coreOf n → (s.getT z).st = .parked → (s.getT z).w.park = .ctxsave y (slotOf n) x →
        (s1.getT z).st = .ready ∧ (s1.getT z).r = ((s.getT z).r.wrS y (BitVec.ofNat 64 j.area)).next))

/-- R389 to R402: waking, saving and loading contexts. -/
def Obligations.Contexts : Prop := Claim.WakeAndColour ∧ Claim.ContextForms

/-! Fetching, trapping and debugging as events (03, 19, 23). -/

/-- R51, R56, R57, R73, R74, R300, R384, R386, R445: a fetch fills the buffer from the PC to the end of its line, patched, each word as memory holds
it or as the core's fetch still sees it, or the frame store after a resumption, and traps SEG_LIMIT outside the code; an illegal word traps with the word as ADDR; a deferred trap is reported at its operation;
a breakpoint freezes the slot before its word; a held packet is sent. That the oldest packet of a full mailbox goes as the held one joins, the
supervisor having read it, is the model's choice (log 36): R386 says only that a packet is sent once there is room, and that none is lost. -/
def Obligations.FetchesAndStops : Prop :=
  ∀ (s s1 : State) (w : BitVec 32) (f : List (BitVec 32)) (q : Deferred) (l : List Deferred) (n c : Nat) (p : Packet) (r : List Packet),
    let pc := s.th.r.pc
    let m := s.launchOf s.cur
    let first := pc - BitVec.ofNat 64 (4 * s.th.r.rep.idx)
    (s.th.r.rep.needed ≤ s.th.is.frame.length → (fetchAt pc).run s = (.ok w, s1) →
      ∃ t, exec .codeFetch s = .next t ∧ t.issuing = true ∧ t.th.r = s.th.r ∧ t.threads = s.threads ∧
        t.th.is.ibuf.head? = some (pc.toNat, w) ∧ (m.kernel.host = true → t.mem = s.mem) ∧
        ∀ e ∈ t.th.is.ibuf, pc.toNat ≤ e.1 ∧ e.1 / 32 = pc.toNat / 32 ∧ e.1 < 4 * m.kernel.words ∧
          (m.kernel.host = true → ∃ x, e.2 = patchWord m.params m.kernel.patches (e.1 / 4) x ∧
            (x = BitVec.ofNat 32 (s.readLE (hostKey (m.kernel.code + e.1)) 4) ∨
              (SMap.get [] (s.core s.coreNo).code (taskKey s.th.id.task))[e.1 / 4]? = some (some x)))) ∧
    (s.th.is.frame.length < s.th.r.rep.needed → (fetchFrame first s.th.r.rep.needed).run s = (.ok f, s1) →
      exec .codeFetch s = .next { s1 with issuing := true, th := { s1.th with is := { s1.th.is with frame := f } } }) ∧
    (s.th.r.rep.needed ≤ s.th.is.frame.length → pc.toNat % 4 ≠ 0 ∨ 4 * m.kernel.words ≤ pc.toNat → s.TrapsAlone →
      Traps .codeFetch s tSegLimit pc 0) ∧
    (s.TrapsAlone → ∃ t, exec (.illegalWord w) s = .next t ∧
      State.Froze { s with word := w, issuing := false } t tIllegal (w.setWidth 64) 0 s.th.reportPc s.th.reportPc) ∧
    (s.TrapsAlone → s.th.is.deferred = q :: l →
      let g := s.region s.regionNo
      ∃ t, exec .deferredTrap s = .next t ∧ t.mem = s.mem ∧ t.threads = s.threads ∧ t.th.st = .frozen ∧
        t.th.r = { s.th.r with pc := s.th.reportPc } ∧ t.th.is.deferred = l ∧ t.lastCode s.cur = q.code ∧
        t.region s.regionNo = { g with mailbox := g.mailbox ++
          [{ s.packetOf q.code q.ptr 0 q.pc with deferred := true, report := q.report }] }) ∧
    (s.TrapsAlone → s.bpTested = true → s.bpHit = some n →
      let old := SMap.get 0 s.pkg.bp (2 * n + 1)
      ∃ t, exec .breakpointMatch s = .next t ∧
        State.Froze { s with issuing := false, pkg := { s.pkg with bp := t.pkg.bp } } t tBreakpoint 0 (BitVec.ofNat 64 (256 * (n + 1))) pc pc ∧
        (SMap.get 0 t.pkg.bp (2 * n + 1)).getLsbD 63 = (old.getLsbD 63 && !old.getLsbD 60) ∧
        ∀ j, j ≠ 2 * n + 1 → SMap.get 0 t.pkg.bp j = SMap.get 0 s.pkg.bp j) ∧
    ((s.core c).held = p :: r → let g := s.region (regionOf c)
      ∃ t, exec (.faultPacketSend c) s = .next t ∧ t.core c = { s.core c with held := r } ∧ t.th = s.th ∧ t.mem = s.mem ∧
        t.region (regionOf c) = { g with mailbox := (if g.mailbox.length < 256 then g.mailbox else g.mailbox.drop 1) ++ [p] })

/-- R440 to R444, R447: writes of breakpoints and PROFCTL; a pulse that is due freezes, stops or starts the counters of its region's cores, a
stop over a start; an input pin reaches the lines that select it. -/
def Obligations.DebugEvents : Prop :=
  ∀ (s : State) (n word c r line pin at0 : Nat) (value : BitVec 64) (w : Word),
    let mask := if word = 0 then 0xFFFFFFFFFFFFFFFF#64 else 0xF0000000FFFFFFFC#64
    let bad := word = 1 ∧ value.toNat / 2 ^ 61 % 4 = 3
    let g := s.region r
    let acts := fun (bitNo field : Nat) => bit g.proftrig.toNat bitNo && decide (g.proftrig.toNat / 2 ^ field % 64 = line)
    (n < 16 → word < 2 → bad → exec (.breakpointWrite n word value) s = .next s) ∧
    (n < 16 → word < 2 → ¬bad → ∃ t, exec (.breakpointWrite n word value) s = .next t ∧ t = { s with pkg := { s.pkg with bp := t.pkg.bp } } ∧
      ∀ j, SMap.get 0 t.pkg.bp j = if j = 2 * n + word then value &&& mask else SMap.get 0 s.pkg.bp j) ∧
    (∃ p, exec (.profctlWrite c value) s = .next (s.setCore c { s.core c with prof := p }) ∧ p.en = value.getLsbD 63 ∧ p.frz = value.getLsbD 62 ∧
      p.filt = value.getLsbD 60 ∧ (value.getLsbD 61 = true → p.count = [] ∧ p.hist = []) ∧
      (value.getLsbD 61 = false → p.count = (s.core c).prof.count ∧ p.hist = (s.core c).prof.hist)) ∧
    (g.pulses = [(line, at0)] → at0 ≤ g.clock → (∀ q, q ≠ r → q / 4 = r / 4 → (s.region q).pulses = []) →
      ∃ t, exec (.triggerPulse (r / 4) line) s = .next t ∧ t.th = s.th ∧ t.mem = s.mem ∧ t.region r = { g with pulses := [] } ∧
        ∀ i < 256, let p := (s.core (256 * r + i)).prof
          (t.core (256 * r + i)).prof = { p with
            frz := p.frz || acts 61 16
            en := if acts 62 8 then false else if acts 63 0 && !(p.frz || acts 61 16) then true else p.en }) ∧
    (s.pkg.trigsel = [(line, w)] → line < 56 → trigMatches w 6 pin 0 = true →
      ∃ t, exec (.trigin pin) s = .next t ∧ t.th = s.th ∧ t.mem = s.mem ∧ t.cores = s.cores ∧ ∀ q < 32, let g := s.region q
        t.region q = if q < 4 ∧ g.proftrig ≠ 0 then { g with pulses := g.pulses ++ [(line, g.clock + pulseDelay g.clk.fcur)] } else g)

/-! Paging (05). -/

/-- R116 to R124: a translation that the cache does not hold walks, and enters the leaf it finds; the write that sets D sets it in the leaf's entry;
the end of a page's walk takes it from what PROBE waits for; TCINV drops entries, and GO reads 1 until what was translated under them has been
performed, whatever is written meanwhile; PTROOT drops them all;
a fault that cannot be resolved freezes its thread with PAGE_FATAL, or ends its guess routine without a guess. -/
def Obligations.PagingEvents : Prop :=
  ∀ (s s1 : State) (r : Nat) (dva : BitVec 56) (value : BitVec 64) (shift page pte : Nat) (w d rem write : Bool) (q : FaultReq) (l : List FaultReq),
    let g := s.region r
    let root := g.ptroot.toNat / 2 ^ 13 % 2 ^ 27 * 2 ^ 13
    let pa := page + dva.toNat % 2 ^ shift
    (∃ t, exec (.translationWalkEnd r dva write) s = .next t ∧
      s.OnlyRegion t r { g with walks := g.walks.filter (fun x => decide (x.2 / 2 ^ 16 ≠ dva.toNat / 2 ^ 16)) }) ∧
    (g.ptroot.getLsbD 0 = false → s.translate r dva.toNat write = (s, .fatal)) ∧
    (g.ptroot.getLsbD 0 = true → (∀ e ∈ g.tcache, e.base ≠ dva.toNat / 2 ^ e.shift * 2 ^ e.shift) →
      s.walk r dva.toNat true walkLevels root = (s1, .leaf shift page w d rem pte) → (write = true → w = true) → pa / 2 ^ 35 % 32 = r →
      ∃ t e, s.translate r dva.toNat write = (t, .ok pa) ∧ (t.region r).tcache.getLast? = some e ∧ t.th = s.th ∧
        e = { base := dva.toNat / 2 ^ shift * 2 ^ shift, shift := shift, pa := page, w := w, d := d || write, rem := rem, pte := pte } ∧
        (write = false ∨ d = true → t.mem = s1.mem) ∧
        (write = true → d = false → g.dirtyctl.getLsbD 0 = false → t.mem = (s1.setByte pte (s1.byte pte ||| 16)).mem)) ∧
    (value.getLsbD 63 = true → ∃ t, exec (.tcinvGo r value) s = .next t ∧ s.OnlyRegion t r { g with
      tcinv := if s.translating r then value &&& 0xC0FFFFFFFFFF0000#64 else value &&& 0x40FFFFFFFFFF0000#64
      tcache := if value.getLsbD 62 then [] else
        g.tcache.filter (fun e => decide (e.base ≠ (value.toNat / 2 ^ 16 % 2 ^ 40 * 2 ^ 16) / 2 ^ e.shift * 2 ^ e.shift)) }) ∧
    (value.getLsbD 63 = false → ∃ t, exec (.tcinvGo r value) s = .next t ∧ s.OnlyRegion t r { g with
      tcinv := (value &&& 0x40FFFFFFFFFF0000#64) ||| (g.tcinv &&& 0x8000000000000000#64) }) ∧
    (∃ t, exec (.ptrootWrite r value) s = .next t ∧ s.OnlyRegion t r { g with ptroot := value &&& 0x000000FFFFFFE001#64, tcache := [] }) ∧
    (g.faults = q :: l → q.kind ≠ 4 →
      let k := 16 * q.core + q.slot
      let u := s.getT k
      let home := s.region (regionOf q.core)
      u.st = .parked → u.w.park = .pageFault r q.dva → u.id.task = q.task → q.slot < 16 → u.en.gangN = 0 →
      (u.sp.role = .none → s.pkg.trigsel = [] → home.mailbox.length < 256 → (s.core q.core).held = [] →
        ∃ t, exec (.unresolvedPageFault r) s = .next t ∧ t.mem = s.mem ∧ (t.region r).faults = l ∧ (t.getT k).st = .frozen ∧
          t.lastCode k = tPageFatal ∧ (t.getT k).r = { u.r with pc := u.reportPc } ∧ (∀ j, j ≠ k → t.getT j = s.getT j) ∧
          (t.region (regionOf q.core)).mailbox = home.mailbox ++
            [{ task := u.id.task, addr := BitVec.ofNat 64 q.dva, pc := u.reportPc.setWidth 32, core := q.core, slot := q.slot,
               frame := u.r.rep.act, code := tPageFatal }]) ∧
      (u.isGuess = true → ∃ t, exec (.unresolvedPageFault r) s = .next t ∧ t.mem = s.mem ∧ (t.getT k).sp.noGuess = true ∧
        (t.getT k).st = .parked ∧ (t.getT k).w.park = .specIdle ∧ ∀ x, (t.region x).mailbox = (s.region x).mailbox)) ∧
    (g.faults = q :: l → q.kind = 4 → ∃ t, exec (.unresolvedPageFault r) s = .next t ∧ (t.region r).faults = l ∧
      (t.launch (taskKey q.task)).noPage = true ∧ t.th = s.th ∧ t.mem = s.mem)

/-! The scheduler (18). -/

/-- R130, R367, R373, Table 18-4: a window is allotted with every word empty and the data image laid at its start, its words full; a dispatch gives
the slot the state of Table 18-4; a millisecond at the head of a queue ages a launch that has dispatched nothing. -/
def Obligations.Dispatching : Prop :=
  ∀ (s s1 s2 : State) (core k v num tile w : Nat), let n := launchKey v num
    let l := s.launch n
    (s.readyLaunch v num = true → s.regionUp v (regionOf core) = true → l.window core = none → s.lsFit n core = some w →
      (∃ i < l.tiles, l.dispatched.contains i = false ∧ (l.place (s.vfTable v) i core).isSome = true) →
      ∃ t, exec (.windowAllot core v num) s = .next t ∧ t.th = s.th ∧ t.threads = s.threads ∧ t.cores = s.cores ∧
        t.launch n = { l with lsWin := l.lsWin ++ [(core, w)] } ∧ s.BytesAt t (lsKey core w) l.kernel.data ∧
        ∀ i < l.windowSize / 8, t.isFull (lsKey core w + 8 * i) = decide (8 * i < l.kernel.data.length)) ∧
    (s.readyLaunch v num = true →
      (∀ m ∈ s.launchesOf v, ¬(m ≠ num ∧ s.procOf (launchKey v m) = s.procOf n ∧ s.readyLaunch v m = true ∧ s.goesBefore v m num = true ∧
        (s.nextTile v m).isSome = true)) →
      s.spend v (s.procOf n) (coGroup l.levels tile).2 = some s1 → s1.dispatch v num tile k = some s2 →
      exec (.taskDispatch k v num tile) s = .next (s2.dropCredit v) ∧ tile ∈ (s2.launch n).dispatched ∧
        let u := s2.getT k
        u.st = .ready ∧ u.r.pc = BitVec.ofNat 64 (4 * l.kernel.entry) ∧ (∀ i, u.r.rdS i = if i = 1 then BitVec.ofNat 64 tile else 0) ∧
        (∀ i, u.r.rdV i = 0) ∧ (∀ i, u.r.rdK i = 0xFFFFFFFF#32) ∧ u.id.task = BitVec.ofNat 64 (v * 2 ^ 56 + num * 2 ^ 32 + tile) ∧
        u.r.rmode = BitVec.ofNat 3 (fieldAt l.record 4 1) ∧ u.r.fp = 0 ∧
        u.r.seed = (BitVec.ofNat 64 (fieldAt l.record 0x20 8) ^^^ (BitVec.ofNat 64 tile * 0xD1B54A32D192ED03#64)) ∧
        u.en.logN = 0 ∧ u.r.rep = {} ∧ u.sp = {} ∧ u.id.priv = l.priv) ∧
    (s.readyLaunch v num = true → l.dispatched = [] → exec (.priorityAge v num) s = .next (s.setLaunch n { l with aged := l.aged + 1 }))

/-- R368, R369: a launch that is over completes: its completion word is written at DONEP in host memory, or QERR says that it cannot be, its
windows and receive-queue entries go, and its vector is raised. -/
def Obligations.Completion : Prop :=
  ∀ (s : State) (v num : Nat), let n := launchKey v num
    let l := s.launch n
    let a := recDonep l.record
    let status := if l.phase = 3 then l.status else if l.abandoned ≠ 0 ∨ l.lost = true then 10 else 0
    let word := ((l.record.drop 0x40).take 8) ++ leBytes 1 status ++ List.replicate 3 0#8 ++ leBytes 4 l.abandoned
    let finished := fun (t : State) => (t.launch n).phase = 4 ∧ (t.launch n).status = status ∧ (t.launch n).lsWin = [] ∧ t.th = s.th ∧
      (∀ c, ∀ e ∈ (t.core c).u.rxq, e.launch ≠ n) ∧
      (32 ≤ recMsix l.record → recMsix l.record ≤ 63 → SMap.get false t.pkg.msix (64 * v + recMsix l.record) = true)
    s.launchOver n = true → l.replicas = [] → status < 256 →
    (a % 16 = 0 → bit a 63 = true → s.pkg.refuses (a % 2 ^ 56) 16 = false →
      ∃ t, exec (.launchComplete v num) s = .next t ∧ finished t ∧ s.BytesAt t (hostKey (a % 2 ^ 56)) word) ∧
    (a % 16 ≠ 0 ∨ (bit a 63 = true ∧ s.pkg.refuses (a % 2 ^ 56) 16 = true) →
      ∃ t, exec (.launchComplete v num) s = .next t ∧ finished t ∧ t.mem = s.mem ∧ (t.queue l.queue).qerr.getLsbD 63 = true ∧
        ((t.queue l.queue).qerr.getLsbD 62 = true ↔ (s.queue l.queue).qerr.getLsbD 63 = true ∨ (s.queue l.queue).qerr.getLsbD 62 = true) ∧
        (t.queue l.queue).qerr.setWidth 32 = l.recNo)

/-- R350, R374, R376: a launch that cannot place a task takes the slot of a task of the lowest effective priority below its own; of each launch
that is stuck in a region the longest-parked task is evicted, a speculation group's oldest iteration waiting for it. The saves begin at once, and no
other slot changes. In replay a recorded save is carried out when its task comes to it. -/
def Obligations.Preemption : Prop :=
  ∀ (s s1 : State) (v num k r n : Nat) (before after : List Nat),
    let stuck := fun (s : State) (m : Nat) => s.stuck (m / 2 ^ 24) (m % 2 ^ 24) r
    let replay := decide ((s.log (regionOf (coreOf k))).mode = 2)
    let begun := fun (auto unrec : Bool) (kind : Nat) => (s1.getT k).st = .saving ∧
      ∃ j, (s1.getT k).en.save = some j ∧ j.kind = kind ∧ j.auto = auto ∧ j.unrec = unrec
    let alone := (s.getT k).sp.act = false ∧ (s.getT k).en.gangN = 0
    let own := s.threadKeys.filter (fun k => taskKey (s.getT k).id.task = launchKey v num)
    let here := s.threadKeys.filter (fun k => regionOf (coreOf k) = r)
    (s.directedTo 13 own = none → s.readyLaunch v num = true → s.nextTile v num = none → (∀ j ∈ s.threadKeys, (s.getT j).st ≠ .saving) →
      s.worst (s.victims v num) = some k → s.schedSave k 13 replay = some s1 →
      exec (.preempt v num) s = .next s1 ∧ begun true replay 13 ∧ (∀ j ∈ s.victims v num, s.taskEff k ≤ s.taskEff j) ∧
        s.taskEff k < (s.launch (launchKey v num)).eff ∧ taskVf (s.getT k).id.task = v ∧ (alone → ∀ j, j ≠ k → s1.getT j = s.getT j)) ∧
    (s.directedTo 13 own = some k → s.schedSave k 13 false = some s1 → exec (.preempt v num) s = .next s1 ∧ begun true false 13) ∧
    ((s.log r).mode ≠ 2 → s.launches.map (fun p => p.1) = before ++ n :: after → (∀ m ∈ before, stuck s m = false) → stuck s n = true →
      s.oldestParked (s.residents n r) = some k → s.schedSave k 8 false = some s1 →
      ((∀ m ∈ after, stuck s1 m = false) → exec (.evictionTest r) s = .next s1) ∧ begun true false 8 ∧
        (∀ j ∈ s.residents n r, (s.getT (s.waitsIn k)).w.since ≤ (s.getT (s.waitsIn j)).w.since) ∧
        (alone → ∀ j, j ≠ k → s1.getT j = s.getT j) ∧
        ∀ m k' s2, after = [m] → stuck s1 m = true → s1.oldestParked (s1.residents m r) = some k' → s1.schedSave k' 8 false = some s2 →
          exec (.evictionTest r) s = .next s2) ∧
    ((s.log r).mode = 2 → s.directedTo 8 here = some k → s.schedSave k 8 false = some s1 →
      exec (.evictionTest r) s = .next s1 ∧ begun true false 8)

/-- R377 to R380: the load table holds the READY threads of each core of a cluster, slot 15 with a message to handle among them (R76); the interval of an overloaded core moves its first migratable
task to the idlest core; MIGRATE answers 2, 4, 1 or 3, or sends the thread away with 0 in sd; the task arrives READY in the lowest
EMPTY slot with its registers kept. That its space-0 segments move to the window it finds there, as those of a resumed context do (R406), is the
model's reading (log 29): R379 has the registers travel as they are. -/
def Obligations.Migration : Prop :=
  ∀ (s s1 s2 : State) (c i k w : Nat) (d a : BitVec 5) (m : MigrMsg) (h : Nat) (rest : List Nat),
    let ready := fun (x : Nat) => ((List.range 16).filter (fun j => (s.getT (16 * x + j)).st = .ready ||
      (j = 15 && (s.getT (16 * x + j)).st = .empty && (s.core x).u.hq ≠ []))).length
    let x := s.core c
    let g := s.cluster (clusterOf c)
    let total := (g.load.map (fun p => p.2)).foldl (· + ·) 0
    let idle := 64 * clusterOf c + idlePort g.load 64
    let v := (s.rdS a).toNat
    let dest := if v = 2 ^ 64 - 1 then 64 * s.clusterNo + idlePort (s.cluster s.clusterNo).load 64 else v
    let near := dest / 64 = s.clusterNo
    let may := s.migratable s.cur = true ∧ s.migrationRecorded s.cur dest = true
    let fits := s.takesTask (taskKey s.th.id.task) dest = true
    (∃ t, exec (.loadTableRefresh c) s = .next t ∧ t.th = s.th ∧ t.threads = s.threads ∧ t.mem = s.mem ∧
      (∀ j < 64, SMap.get 0 (t.cluster c).load j = ready (64 * c + j) ∧ (t.core (64 * c + j)).own = ready (64 * c + j)) ∧
      ∀ j, clusterOf j ≠ c → t.core j = s.core j) ∧
    (g.migEn = true → total / 64 < x.own → x.loadSince + g.migInt.toNat ≤ s.clockAt c → (s.log (regionOf c)).mode ≠ 2 →
      ((List.range 15).map (fun j => 16 * c + j)).find? (fun k => s.migratable k && !(s.getT k).id.nomig) = some k →
      SMap.get 0 g.load (idlePort g.load 64) + 1 < x.own → s.takesTask (taskKey (s.getT k).id.task) idle = true →
      ∃ t e, exec (.migrationInterval c) s = .next t ∧ t.migr = s.migr ++ [e] ∧ e.dst = idle ∧ e.thread.r = (s.getT k).r ∧
        e.thread.id = (s.getT k).id ∧ t.getT k = {} ∧ (∀ j, j ≠ k → t.getT j = s.getT j) ∧ t.mem = s.mem ∧
        (t.core c).loadSince = s.clockAt c) ∧
    (s.slotNo ≠ 15 → s.th.sp.role = .none →
      (¬near → GivesS (.migrate d a) s d 2) ∧ (near → dest = s.coreNo → GivesS (.migrate d a) s d 4) ∧
      (near → dest ≠ s.coreNo → ¬may → GivesS (.migrate d a) s d 1) ∧ (near → dest ≠ s.coreNo → may → ¬fits → GivesS (.migrate d a) s d 3) ∧
      (near → dest ≠ s.coreNo → may → fits → ∃ t e, exec (.migrate d a) s = .next t ∧ t.migr = s.migr ++ [e] ∧ e.dst = dest ∧
        e.thread.r = (s.th.r.wrS d.toNat 0).next ∧ e.thread.id = s.th.id ∧ t.th.st = .empty ∧ t.threads = s.threads ∧ t.mem = s.mem)) ∧
    (s.migr[i]? = some m → s.openSlots m.dst = h :: rest →
      s.residentOn (taskKey m.thread.id.task) m.dst < (s.launch (taskKey m.thread.id.task)).kernel.slots → s.placement m.thread.id.task m.thread.en.logN 7 m.dst false = some s1 →
      s1.needWindow (taskKey m.thread.id.task) m.dst = some (s2, w) →
      ∃ t, exec (.migrationArrive i) s = .next t ∧ t.migr = s2.migr.eraseIdx i ∧ t.mem = s2.mem ∧ (∀ j, j ≠ h → t.getT j = s2.getT j) ∧
        let u := t.getT h
        let o := m.thread
        u.st = .ready ∧ u.id = o.id ∧ u.en = o.en ∧ u.is.gap = 8 ∧ u.is.lastIss = none ∧ u.is.woken = false ∧
        u.r = { o.r with g := u.r.g } ∧ ∀ j < 8, let f := o.r.rdG j
          u.r.rdG j = if segSpace f = 0 ∧ segLimit f ≠ 0 then
            segMake (segBase f + w - o.w.since) (segLimit f) 0 (segRights f) (segScale f) 0 0 0 0 else f)

/-! Regions, windows and cuts (21, 19). -/

/-- R16, R413, R417 to R419, R436: a reset of a region closes its gate, loses its windows, its threads, the contexts whose areas lie in it and its
on-chip memory, and waits for its firmware in step 6 with its cause; a good image opens it and counts the reset, a refused one leaves it closed with
CAUSE 6. The model's reading, not the spec's words: that a fault restarts a reset in any phase, that steps 1 to 5 are one step, that RESETDONE is
ignored while CAUSE is 6 and what a package reset keeps (log 32), and that a refused region image sets FWST.FAIL (log 33). -/
def Obligations.Resets : Prop :=
  ∀ (s : State) (r k : Nat) (pf : Bool) (value : BitVec 64) (im : FirmwareImage),
    let o := (s.region r).own
    let down := fun (t : State) (r cause : Nat) =>
      (t.region r).own.phase = 6 ∧ (t.region r).own.gate = false ∧ (t.region r).own.cause = cause ∧
      (∀ n < 4, (SMap.get {} (t.region r).win n).w0.getLsbD 62 = true ∧ (SMap.get {} (t.region r).win n).w0.getLsbD 63 = false) ∧
      (∀ c, regionOf c = r → t.core c = {}) ∧ (∀ k, regionOf (coreOf k) = r → t.getT k = {}) ∧
      (t.region r).tcache = [] ∧ (t.region r).log = {} ∧
      ∀ k, inSram r k = true → t.byte k = 0
    let owner := fun (t : State) (a : Bool) (v : Nat) => (t.region r).own.assigned = a ∧ (t.region r).own.vf = v
    let lost := fun (t : State) (r : Nat) => ∀ k, isHbm k = true → keyRegion k 32 = r → t.byte k = 0
    let accepted := imageFail im 2 = 0
    (value.getLsbD 63 = true → o.phase = 0 → pf = true ∨ (value.getLsbD 62 = false ∧ s.answersVf o.vf r = true) →
      ∃ t, exec (.regionReset r pf value) s = .next t ∧ down t r (if pf then 1 else 2) ∧
        ((∀ c ∈ s.cores, c.2.mem = []) → ∀ x, ∀ e ∈ (t.region x).contexts, e ∈ (s.region x).contexts ∧
          ∀ q ∈ pagePieces e.area 5120, ∀ pa w, s.pageOf x q.1 = some (pa, w) → pa / 2 ^ 35 ≠ r) ∧
        (value.getLsbD 62 = false → owner t o.assigned o.vf) ∧
        (value.getLsbD 62 = true → owner t (value.getLsbD 5) (value.toNat % 32)) ∧
        (value.getLsbD 62 = true → (value.getLsbD 5, value.toNat % 32) ≠ (o.assigned, o.vf) → lost t r)) ∧
    (value.getLsbD 63 = false ∨ o.phase ≠ 0 ∨ (pf = false ∧ (value.getLsbD 62 = true ∨ s.answersVf o.vf r = false)) →
      exec (.regionReset r pf value) s = .next s) ∧
    (∃ t, exec (.railFault r) s = .next t ∧ down t r 3 ∧ owner t o.assigned o.vf) ∧
    (∃ t, exec (.clockFault r) s = .next t ∧ down t r 4 ∧ owner t o.assigned o.vf) ∧
    (∃ t, exec (.hbmStackFault k) s = .next t ∧ ∀ q ∈ [2 * k, 2 * k + 1],
      (t.region q).own.phase = 6 ∧ (t.region q).own.gate = false ∧ (t.region q).own.cause = 5 ∧
      (s.engines = [] → (∀ c ∈ s.cores, c.2.mem = []) → down t q 5 ∧ lost t q)) ∧
    (o.phase = 6 → o.cause ≠ 6 → ∃ t, exec (.resetdone r im) s = .next t ∧ t.th = s.th ∧ t.mem = s.mem ∧
      (accepted → (t.region r).own = { o with gate := true, phase := 0, rstcnt := o.rstcnt + 1 } ∧ (t.region r).rgint.getLsbD 0 = true ∧
        t.pkg.measure (2 + r) = extendMeas 0 im.digest) ∧
      (¬accepted → (t.region r).own = { o with cause := 6 } ∧ (t.region r).rgint.getLsbD 1 = true ∧ t.pkg.fwFail = imageFail im 2)) ∧
    (o.phase ≠ 6 ∨ o.cause = 6 → exec (.resetdone r im) s = .next s) ∧
    (let f := imageFail im 1
     ∃ t, exec (.packageReset im) s = .next t ∧ t.th = {} ∧ t.threads = [] ∧ t.cores = [] ∧ t.launches = [] ∧ t.engines = [] ∧
      (∀ k, t.byte k = if isHbm k ∨ isHost k then s.byte k else 0) ∧ (∀ k, t.isFull k = State.reset.isFull k) ∧
      ((s.regions.map (fun p => p.1)).Nodup → ∀ q, t.region q = { box := (s.region q).box, bbcnt := (s.region q).bbcnt }) ∧
      t.pkg.fwFail = f ∧ (t.pkg.fwReady = true ↔ f = 0) ∧ (f = 0 → t.pkg.fwSvn = im.svn) ∧
      t.pkg.measure 0 = extendMeas 0 Config.bootRomDigest ∧ (f = 0 → t.pkg.measure 1 = extendMeas 0 im.digest))

/-- R403, R404, R414, R416, R423, R424: a window write, once nothing queued is still to use the old window; a clear of region causes; a cut
begins in every region of the partition, and clears CLOSED, OVF and DIFF there (the model's choice, log 24: R403 says that the sums are taken over the
partition); its sums are taken again until they are equal with every core flipped, and the captured flits arrive again. -/
def Obligations.WindowsAndCuts : Prop :=
  ∀ (s : State) (r n word v q : Nat) (value : BitVec 64) (f : Flit), let g := s.region r
    let win := SMap.get {} g.win n
    let idle := g.winPend = [] ∧ s.bufferedVia r = false ∧ (∀ c ∈ s.cores, c.2.mem = []) ∧ ∀ e ∈ s.engines, ∀ c ∈ e.2, s.overWindow r c = false
    let regs := s.vfRegions v
    let d := s.cutDiff regs g.cut.col
    let close := d = 0 ∧ ∀ c ∈ coresOf regs, (s.core c).colour ≠ g.cut.col
    (4 ≤ n ∨ 2 ≤ word → exec (.windowWrite r n word value) s = .next s) ∧
    (idle → n < 4 → word < 2 → ∃ t, exec (.windowWrite r n word value) s = .next t ∧ t.th = s.th ∧ t.mem = s.mem ∧ t.cores = s.cores ∧
      (∀ m, m ≠ n → SMap.get {} (t.region r).win m = SMap.get {} g.win m) ∧
      SMap.get {} (t.region r).win n =
        (if word = 0 then { win with w0 := value &&& 0xB8FFFFFFFFFF001F#64 } else { win with w1 := value &&& 0xFFFFFFFF#64 })) ∧
    (∃ t, exec (.rgintClear r value) s = .next t ∧ t.region r = { g with rgint := g.rgint &&& ~~~(value.setWidth 4) } ∧ t.th = s.th ∧
      (g.rgint &&& ~~~(value.setWidth 4) = 0 → SMap.get false t.pkg.msix (2080 + r) = false)) ∧
    (value.getLsbD 63 = false → exec (.cutStart r value) s = .next s) ∧
    (value.getLsbD 63 = true → ∃ t, exec (.cutStart r value) s = .next t ∧ t.th = s.th ∧ t.mem = s.mem ∧ t.cores = s.cores ∧
      ∀ x, t.region x = if x ∈ s.partition r then { s.region x with
          cut := { (s.region x).cut with col := value.getLsbD 0, going := true, closed := false, ovf := false, diff := 0, ringUsed := true } } else s.region x) ∧
    (regs.Nodup → r ∈ regs → g.cut.going = true → ∃ t, exec (.cutResum v) s = .next t ∧ t.th = s.th ∧ t.mem = s.mem ∧ t.cores = s.cores ∧
      (t.region r).cut.diff = d ∧ ((t.region r).cut.closed = true ↔ g.cut.closed = true ∨ close) ∧
      (close → g.cut.closed = false → (t.region r).rgint.getLsbD 3 = true)) ∧
    (q = f.dst → regionOf q = r → g.cut.ringUsed = true → g.cut.saved = [f] → f.kind = 0 → g.own.phase = 0 → g.own.gate = true → g.own.assigned = true →
      g.own.vf = taskVf f.task → s.holdsTask f.task q = true → (s.core q).u.rxq.length < 32 →
      (∀ k ∈ s.threadKeys, ∀ d v, (s.getT k).w.park ≠ .recv d v) →
      ∃ t, exec (.cutResend r) s = .next t ∧ (t.region r).cut.saved = [] ∧ t.mem = s.mem ∧ t.th = s.th ∧
        (t.core q).u.rxq = (s.core q).u.rxq ++ [{ header := f.header, payload := f.payload, launch := taskKey f.task }])

/-! The package's edges (22). -/

/-- R428 to R434: a clock request waits in line, is checked against range, floor and power, and takes effect at its end; a denied one
keeps the clock and counts. On the way down the frequency falls first, on the way up the voltage ramps first, so that the voltage never falls below
the floor of the frequency in force, and no turn passes in a retune gap (R432); ports train, fault and are taken down by the driver. That a GO during
a reset is counted in DENIED with status 4, that a ramp goes in steps of 1 mV, and that EN 0 on a port that is not present is refused as EN 1 is are the
model's (log 35). -/
def Sys2Proof.Claim.ClocksAndPorts : Prop :=
  ∀ (s : State) (r p v f : Nat) (value : BitVec 64) (peer : BitVec 16), let g := s.region r
    let c := g.clk
    let want := value.toNat / 2 ^ 16 % 2 ^ 10
    let code := value.toNat % 16
    let asked : Clk := { c with vreq := want, freq := code }
    let denied := fun (c : Clk) (n : Nat) => { c with status := n, denied := if c.denied = 0xFFFF#16 then c.denied else c.denied + 1 }
    let st := SMap.get 0 s.pkg.linkst p
    let present := (Config.cap2 s.pkg.partC).getLsbD p
    let port := fun (i : Instr) (w : Word) => ∃ t, exec i s = .next t ∧ t = { s with pkg := { s.pkg with
      linkst := t.pkg.linkst, linkctl := t.pkg.linkctl, msix := t.pkg.msix } } ∧ ∀ q, SMap.get 0 t.pkg.linkst q = if q = p then w else SMap.get 0 s.pkg.linkst q
    (value.getLsbD 63 = false → ∃ t, exec (.clockRequest r value) s = .next t ∧ s.OnlyRegion t r { g with clk := asked }) ∧
    (value.getLsbD 63 = true → g.own.phase = 0 → ∃ t, exec (.clockRequest r value) s = .next t ∧
      s.OnlyRegion t r { g with clk := { asked with pending := some (want, code) } }) ∧
    (value.getLsbD 63 = true → g.own.phase ≠ 0 → ∃ t, exec (.clockRequest r value) s = .next t ∧ t.th = s.th ∧ (t.region r).clk = denied asked 4) ∧
    (c.pending = some (v, f) → c.busy = false →
      (s.clockStatus r v f = 0 → ∃ t, exec (.clockStepBegin r) s = .next t ∧
        s.OnlyRegion t r { g with clk := { c with pending := none, busy := true, stepV := v, stepF := f } }) ∧
      (s.clockStatus r v f ≠ 0 → ∃ t, exec (.clockStepBegin r) s = .next t ∧ t.th = s.th ∧ (t.region r).clk = denied { c with pending := none } (s.clockStatus r v f) ∧
        SMap.get false t.pkg.msix 2050 = true) ∧
      (s.clockStatus r v f = 3 ↔ 14 < f ∨ v < 550 ∨ 750 < v) ∧
      (f ≤ 14 → 550 ≤ v → v ≤ 750 → (s.clockStatus r v f = 1 ↔ v < 550 + 5 * ((20 * f + 6) / 7)))) ∧
    (c.busy = true → ¬(c.fcur ≤ c.stepF ∧ c.vcur = c.stepV) → exec (.clockStepEnd r) s = .next s) ∧
    (c.busy = true → c.fcur ≤ c.stepF → c.vcur = c.stepV → ∃ t, exec (.clockStepEnd r) s = .next t ∧ t.th = s.th ∧
      (t.region r).clk = { c with busy := false, status := 0, vcur := c.stepV, fcur := c.stepF }) ∧
    (c.busy = true → ∃ y, s.OnlyRegion (s.clockRamp r) r { g with clk := y } ∧ y.stepV = c.stepV ∧ y.stepF = c.stepF ∧ y.busy = true ∧
      (c.stepF < c.fcur → y.fcur = c.stepF ∧ y.vcur = c.vcur) ∧
      (c.fcur ≤ c.stepF → y.fcur = c.fcur ∧ y.vcur = (if c.vcur < c.stepV then c.vcur + 1 else if c.stepV < c.vcur then c.vcur - 1 else c.vcur)) ∧
      (floorMv c.fcur ≤ c.vcur → floorMv c.stepF ≤ c.stepV → floorMv y.fcur ≤ y.vcur)) ∧
    (c.busy = true → c.stepF < c.fcur ∨ (c.fcur < c.stepF ∧ c.vcur = c.stepV) → ∀ n, regionOf n = r → exec (.issueTurn n) s = .next s) ∧
    (p < 16 → present = true → value.getLsbD 63 = true → port (.linkEnable p value) st ∧
      ∃ t, exec (.linkEnable p value) s = .next t ∧ SMap.get false t.pkg.linkctl p = true) ∧
    (p < 16 → present = true → value.getLsbD 63 = false → port (.linkEnable p value) (st &&& 0x3FFFFFFFFFFFFFFF#64) ∧
      ∃ t, exec (.linkEnable p value) s = .next t ∧ SMap.get false t.pkg.linkctl p = false) ∧
    (p < 16 → present = false → port (.linkEnable p value) (st ||| 0x4000000000000000#64)) ∧
    (SMap.get false s.pkg.linkctl p = true → st.getLsbD 62 = false →
      port (.linkUp p peer) ((st &&& 0xFFFFFFFFFFFF0000#64) ||| 0x8000000000000000#64 ||| peer.setWidth 64)) ∧
    (SMap.get false s.pkg.linkctl p = true → port (.laneFault p) ((st &&& 0x7FFFFFFFFFFFFFFF#64) ||| 0x4000000000000000#64) ∧
      ∃ t, exec (.laneFault p) s = .next t ∧ SMap.get false t.pkg.msix 2049 = true)

/-- R426, R438: a VF that is not enabled answers no request; one that arrives while a region of its function reloads waits, in order; every other
request is answered under its code, and an index that names nothing is answered with an error. The codes and what the spec leaves to the device key
are the model's (log 34), and so are the places of the flags and algorithms in their answers (log 35). -/
def Sys2Proof.Claim.Attestation : Prop :=
  ∀ (s : State) (fn i : Nat), let v := s.vf fn
    let answers := fun (j : Instr) (code : Nat) => ∃ b, exec j s = .next (s.setVf fn { v with spdm := (code, b) :: v.spdm })
    let waits := fun (j : Instr) (code index : Nat) => exec j s = .next (s.setVf fn { v with spdmWait := v.spdmWait ++ [(code, index)] })
    let busy := (s.fnRegions fn).any (fun r => (s.region r).own.phase ≠ 0)
    let there := fn = 32 ∨ s.vfEnabled fn = true
    let begins := fun (j : Instr) (code : Nat) (a : List Byte) => ∃ b, exec j s = .next (s.setVf fn { v with spdm := (code, a ++ b) :: v.spdm })
    (fn < 32 → s.vfEnabled fn = false → ∀ j ∈ [Instr.getVersion fn, .getCapabilities fn, .negotiateAlgorithms fn, .getDigests fn, .getCertificate fn,
      .challenge fn, .getMeasurements fn i], exec j s = .next s) ∧
    (there → busy = true → waits (.getVersion fn) 0x84 0 ∧ waits (.getCapabilities fn) 0xE1 0 ∧ waits (.negotiateAlgorithms fn) 0xE3 0 ∧
      waits (.getDigests fn) 0x81 0 ∧ waits (.getCertificate fn) 0x82 0 ∧ waits (.challenge fn) 0x83 0 ∧ waits (.getMeasurements fn i) 0xE0 i) ∧
    (there → busy = false → exec (.getVersion fn) s = .next (s.setVf fn { v with spdm := (0x84, [0x00#8, 0x13#8]) :: v.spdm }) ∧
      begins (.getCapabilities fn) 0xE1 [0x16#8, 0x00#8, 0x00#8, 0x00#8] ∧
      begins (.negotiateAlgorithms fn) 0xE3 [0x08#8, 0x00#8, 0x00#8, 0x00#8, 0x02#8, 0x00#8, 0x00#8, 0x00#8] ∧ answers (.getDigests fn) 0x81 ∧
      answers (.getCertificate fn) 0x82 ∧ answers (.challenge fn) 0x83) ∧
    (there → busy = false → s.measAt fn i = none → answers (.getMeasurements fn i) 0x7F) ∧
    (there → busy = false → ∀ m, s.measAt fn i = some m → ∃ b, (∀ j < 48, b.getD j 0 = (s.pkg.measure m >>> (376 - 8 * j)).setWidth 8) ∧
      exec (.getMeasurements fn i) s = .next (s.setVf fn { v with spdm := (0xE0, b) :: v.spdm }))

/-- R435 to R437: FWST.FAIL of an image at RESETDONE and at a package reset. The order of the checks, its form first, is the model's (log 33). -/
def Sys2Proof.Claim.FirmwareImages : Prop :=
  ∀ (s : State) (r : Nat) (im : FirmwareImage), let o := (s.region r).own
    let order := fun (kind : BitVec 8) (n : Nat) =>
      let formed := im.magic = 0x57464A4B#32 ∧ im.kind = kind ∧ im.reservedZero = true
      let rsa := Config.rsaVerifies im.rsaSig (imageHeader im) = true
      let slh := Config.slhVerifies im.slhSig (imageHeader im) = true
      (¬formed → n = 5) ∧ (formed → ¬rsa → n = 1) ∧ (formed → rsa → ¬slh → n = 2) ∧ (formed → rsa → slh → sha384 im.payload ≠ im.digest → n = 3) ∧
      (formed → rsa → slh → sha384 im.payload = im.digest → n = if im.svn.toNat < Config.minSvn then 4 else 0)
    (∃ t, exec (.packageReset im) s = .next t ∧ order 1 t.pkg.fwFail ∧ (t.pkg.fwReady = true ↔ t.pkg.fwFail = 0) ∧
      (t.pkg.fwFail ≠ 0 → SMap.get false t.pkg.msix 2048 = true ∧ ∀ v, t.vfEnabled v = false)) ∧
    (o.phase = 6 → o.cause ≠ 6 → ∃ t, exec (.resetdone r im) s = .next t ∧
      order 2 (if (t.region r).own.phase = 0 then 0 else t.pkg.fwFail) ∧ ((t.region r).own.phase = 0 ∨ (t.region r).own.cause = 6))

/-- R428 to R438: clocks, ports, attestation and firmware images. -/
def Obligations.Edges : Prop := Claim.ClocksAndPorts ∧ Claim.Attestation ∧ Claim.FirmwareImages

/-- R388, R390, R411, R426, R427, R441, R443: writes of control registers reach their fields and no reserved bit; a write of an offset that no table
maps changes nothing, nor does one of a VF through a queue that is not its own, or while it is not enabled; a context image is written only while its slot is FROZEN. -/
def Obligations.RegisterWrites : Prop :=
  ∀ (s : State) (r o : Nat) (v : BitVec 64), let g := s.region r
    let c := s.cluster r
    let k := 16 * r + o / 0x2000
    let sets := fun (b : RegBlock) (x : State) => exec (.registerWrite b r o v) s = .next x
    let mapped := [0x110, 0x200, 0x300, 0x308, 0x410, 0x810, 0x900, 0x908, 0x910]
    (o ∉ mapped ∨ o % 8 ≠ 0 → sets .region s) ∧
    (o = 0x110 → sets .region (s.setRegion r { g with dirtyctl := v &&& 0x000000FFFFFF0001#64 })) ∧
    (o = 0x300 → sets .region (s.setRegion r { g with poolBase := v &&& 0x00FFFFFFFFFFFC00#64 })) ∧
    (o = 0x308 → sets .region (s.setRegion r { g with poolCount := v.setWidth 16 })) ∧
    (o = 0x900 → sets .region (s.setRegion r { g with proftrig := v &&& 0xE0000000003F3F3F#64 })) ∧
    (o = 0x908 → sets .region (s.setRegion r { g with filtV := v })) ∧ (o = 0x910 → sets .region (s.setRegion r { g with filtM := v })) ∧
    (o = 0x40 → sets .cluster (s.setCluster r { c with migEn := v.getLsbD 63, migInt := v.setWidth 32 })) ∧
    (o ≠ 0x40 → o ≠ 0x48 → sets .cluster s) ∧
    (o % 8 = 0 → o % 0x2000 = 0x1200 → o < 0x20000 →
      sets .debug (s.setCore r { s.core r with steps := SMap.set false (s.core r).steps (o / 0x2000) (v.getLsbD 63) })) ∧
    (o % 8 = 0 → o % 0x2000 < 4608 → o < 0x20000 → (s.getT k).st ≠ .frozen → sets .debug s) ∧
    (o < 0x20000 → o % 0x2000 < 4608 → o % 8 = 0 → (s.getT k).st = .frozen →
      ∃ t, exec (.registerWrite .debug r o v) s = .next t ∧ (∀ j, j ≠ k → t.getT j = s.getT j) ∧ t.mem = s.mem ∧
        (t.getT k).st = .frozen ∧ (o % 0x2000 = 0 → (t.getT k).r.pc = v) ∧
        ∀ n, 1 ≤ n → n < 32 → o % 0x2000 = 8 * n → (t.getT k).r.rdS n = v) ∧
    (o = 0x500 → sets .pf { s with pkg := { s.pkg with pkgid := v.setWidth 16 } }) ∧
    (o = 0 → sets .queue (s.setQueue r { s.queue r with qbase := v &&& 0x80FFFFFFFFFFFC00#64 })) ∧
    (let q := r % Config.queues
     let x := s.queue q
     (x.vf = r / Config.queues → s.vfEnabled x.vf = true → o = 0 → sets .vfQueue (s.setQueue q { x with qbase := v &&& 0x80FFFFFFFFFFFC00#64 })) ∧
     (x.vf ≠ r / Config.queues ∨ s.vfEnabled (r / Config.queues) = false ∨ o ≠ 0 → sets .vfQueue s)) ∧
    (s.vfEnabled r = false ∨ o < 0x100 ∨ 0x200 ≤ o ∨ o % 8 ≠ 0 → sets .vf s) ∧ (32 ≤ o ∨ o % 8 ≠ 0 → sets .vfTable s) ∧
    (o % 2 ≠ 0 ∨ 0x20000 ≤ o → sets .route s)

/-! Issue (04). -/

/-- R77, R289, R439: the slot that a core issues is the first after LAST that is READY, at its distance from its last issue, and not held back; it is
granted the turn, which it takes when its word issues: LAST, LASTISS and GAP are set then. A turn in which no slot is eligible passes. An
instruction whose accesses have been performed goes on first, outside a turn, with what they gave. R272, R283: a result that the supervisor
writes to port 3 joins the output of its slot's core, unless its command was QUIET and ends DONE. -/
def Obligations.IssueTurns : Prop :=
  ∀ (s : State) (c slot n : Nat) (element : Word) (q : Cmd), let x := s.core c
    let r := regionOf c
    let now := (s.region r).clock
    let due := fun (k : Nat) => s.eligible k now = true
    let at0 := fun (j : Nat) => 16 * c + (x.last + 1 + j) % 16
    let plain := (∀ i < 16, (s.getT (16 * c + i)).st ≠ .parked ∧ (s.getT (16 * c + i)).st ≠ .saving) ∧ x.prof.en = false ∧ x.u.hq = []
    let calm := (s.region r).clk.held = false ∧ (s.log r).mode ≠ 2
    let waits := fun (t : Thread) => t.st ≠ .parked ∨ t.w.park = .access ∨ t.w.park = .relaxed ∨ (∃ w, t.w.park = .work w) ∨
      ∃ g dva, t.w.park = .probe g dva
    (calm → x.turn ≤ now → plain → ∀ j < 16, due (at0 j) → (∀ i < j, ¬due (at0 i)) →
      (s.getT (at0 j)).st = .ready ∧ (∀ m, (s.getT (at0 j)).is.lastIss = some m → m + (s.getT (at0 j)).is.gap ≤ now) ∧
      ∃ t, exec (.issueTurn c) s = .next t ∧ t.issuing = true ∧ t.cur = at0 j ∧ (∀ k, t.getT k = s.getT k) ∧ t.cores = s.cores ∧
        t.mem = s.mem ∧ t.regions = s.regions) ∧
    (x.turn ≤ now → x.prof.en = false → ∀ j < 16, let k := 16 * c + j
      let t := s.takeTurn k
      t.core c = { x with last := j, turn := now + 1 } ∧ t.mem = s.mem ∧ t.regions = s.regions ∧
        t.getT k = { s.getT k with is := { (s.getT k).is with lastIss := some now, gap := 8, settling := false } } ∧
        (∀ m, m ≠ k → t.getT m = s.getT m) ∧ ∀ m, m ≠ c → t.core m = s.core m) ∧
    (calm → x.turn ≤ now → plain → (∀ j < 16, ¬due (at0 j)) →
      ∃ t, exec (.issueTurn c) s = .next t ∧ t = { s with cores := t.cores, focus := t.focus } ∧ t.core c = { x with turn := now + 1 } ∧
        ∀ k, k ≠ c → t.core k = s.core k) ∧
    (calm → x.turn ≤ now → (∀ i < 16, waits (s.getT (16 * c + i))) → ∀ j < 16, (∀ i < j, s.due (16 * c + i) = false) → s.due (16 * c + j) = true →
      let u := s.getT (16 * c + j)
      ∃ t, exec (.issueTurn c) s = .next t ∧ t.issuing = true ∧ t.cur = 16 * c + j ∧ t.cores = s.cores ∧ t.mem = s.mem ∧ t.th.r = u.r ∧
        t.th.w.acc.redo = true ∧ (∀ k, k ≠ 16 * c + j → t.getT k = s.getT k) ∧ (u.st = .parked → t.th.st = .ready) ∧
        (u.w.park = .access → ∃ g, t.th.w.acc.jrn = u.w.acc.jrn ++ [g] ∧ g.value = u.w.acc.got.value ∧ g.poison = u.w.acc.got.poison)) ∧
    ((s.region r).port3[n]? = some q → q.thread = 16 * c + slot → (∀ y ∈ (s.region r).port3.take n, y.thread ≠ 16 * c + slot) →
      ∃ t, exec (.mailboxResult c slot element) s = .next t ∧ t.mem = s.mem ∧ (t.region r).port3 = (s.region r).port3.eraseIdx n ∧
        (∀ k, (t.getT k).r = (s.getT k).r) ∧
        if q.quiet = true ∧ element.toNat / 2 ^ 52 % 16 = 0 then
          SMap.get [] (t.core c).u.fifoOut 3 = SMap.get [] x.u.fifoOut 3 ∧ SMap.get 0 (t.core c).u.rsv 3 = SMap.get 0 x.u.rsv 3 - 1
        else SMap.get [] (t.core c).u.fifoOut 3 = SMap.get [] x.u.fifoOut 3 ++ [{ slot := slot, task := q.task, element := element }])

/-! The whole machine. -/

/-- 03: the encoding of every instruction word, both ways: each form is a word, decoding it gives the form back, and every word that decodes
is the encoding of what it decodes to. -/
def Obligations.DecodeAndEncodeAgree : Prop :=
  (∀ (i : Instr), i.unitsOk false = none → i.wellFormed false = true → ∃ w, encode i = some w ∧ decode w = .ok i) ∧
  ∀ (w : BitVec 32) (i : Instr), decode w = .ok i → encode i = some w

/-- Words written out from the encodings of 03 to 19, and words that decode to nothing. -/
def Obligations.DecodedWords : Prop :=
  decode 0x04853000#32 = .ok (.add 4 5 6) ∧ decode 0xC08531C2#32 = .ok (.ffma 4 5 6 7 0) ∧ decode 0xC1042604#32 = .ok (.fcvt 8 4 4 24 0) ∧
  decode 0x5803002A#32 = .ok (.trap 3 0x2A) ∧ decode 0x58000105#32 = .ok (.brk 5) ∧ decode 0x4C090001#32 = .ok (.blr 9) ∧
  decode 0x83004434#32 = .ok (.vfma 0 0 1 2 3 2 0) ∧ decode 0x90610002#32 = .ok (.kand 3 1 2) ∧
  decode 0xBCA91003#32 = .ok (.ctxsave 5 9 3) ∧
  ∀ w, (w.toNat / 2 ^ 26 = 0 ∨ w.toNat / 2 ^ 26 = 0x3F) → decode w = .error .reservedMajor

/-- 03, R51, R56, R68 to R70, R78, R248, R300: the word that a granted turn issues comes from the leader, the buffer, or the frame store; when it
decodes, no breakpoint stops it, its mark is allowed and next_ok holds, the thread takes the turn and the step is that instruction's effect; one
that may not issue yet leaves the turn. An instruction that has waited goes on without a turn. Otherwise a step takes the next event from outside,
one that names an absent unit being discarded (R5, R427), or an event that is due, or the next turn. -/
def Obligations.StepRunsTheDecodedWord : Prop :=
  ∀ (s u : State) (w : BitVec 32) (i e : Instr) (l : List Instr), let t := s.th
    let p := t.r.rep
    let m := s.launchOf s.cur
    let pc := t.r.pc.toNat
    let runs := fun (u : State) => (u.bpTested = false ∨ u.bpHit = none) → decode (renameWord u.th.r.rep w) = .ok i →
      (u.th.is.rlx = true → markable (renameWord u.th.r.rep w) = true ∧ rlxOk i = true) →
      (u.nextOk u.cur i = true → step s = exec i { (u.takeTurn u.cur).endTurn.deliverWord w with word := w }) ∧
      (u.nextOk u.cur i = false → step s = .next u.endTurn)
    (s.issuing = true → t.w.acc.redo = true → decode (renameWord p t.w.acc.word) = .ok i → step s = exec i { s.endTurn with word := t.w.acc.word }) ∧
    (s.issuing = true → t.w.acc.redo = false → t.st = .ready → t.is.deferred = [] →
      (t.is.delivered = some w → runs s) ∧
      (t.is.delivered = none → s.guessDone = false → t.mustFetch = false →
        (p.act = false → t.buffered = some w → runs s) ∧
        (p.act = true → p.pass ≠ 0 → t.is.frame[p.idx]? = some w → runs s) ∧
        (p.act = true → p.pass = 0 → t.buffered = some w → capturable w = true →
          runs { s with th := { t with is := { t.is with frame := t.is.frame.take p.idx ++ [w] } } })) ∧
      (t.is.delivered = none → s.guessDone = false → p.act = false → t.buffered = none → m.kernel.host = true → pc % 4 = 0 →
        pc < 4 * m.kernel.words →
        let x := BitVec.ofNat 32 (s.readLE (hostKey (m.kernel.code + pc)) 4)
        w = patchWord m.params m.kernel.patches (pc / 4) x →
        (∀ y, (SMap.get [] (s.core s.coreNo).code (taskKey t.id.task))[pc / 4]? = some (some y) → y = x) →
        exec .codeFetch s.endTurn = .next u → u.mem = s.mem ∧ u.th.r = t.r ∧ runs u)) ∧
    (s.issuing = false → s.inputs = e :: l →
      step s = if e.canHappen s.pkg.partC = true then exec e { s with inputs := l } else .next { s with inputs := l }) ∧
    (s.issuing = false → s.inputs = [] → (s.agenda = some u → step s = .next u) ∧ (s.agenda = none → step s = exec (.issueTurn s.focus) s))

/-- No instruction and no event ends a run: every meaning answers a next state, and every step goes on. -/
def Obligations.NothingStops : Prop := (∀ (i : Instr) (s : State), ∃ t, exec i s = .next t) ∧ ∀ s : State, s.GoesOn

/-- Every step keeps every memory in its one canonical form. -/
def Obligations.MemoryStaysCanonical : Prop := ∀ s t : State, s.Inv → step s = .next t → t.Inv

/-- 01, R16, R77, R84, R191: right after reset the memories are canonical and read zero, every word is empty and nothing is poisoned, every slot is
EMPTY and slot 15 IDLE, LAST is 15, the scalar registers are zero and the masks all ones, and nothing is under way. The values that the spec
does not give are the model's choice (log 2). -/
def Obligations.ResetState : Prop :=
  State.reset.Inv ∧ (∀ k, State.reset.byte k = 0) ∧ (∀ k, State.reset.isFull k = false) ∧ State.reset.poison = [] ∧ State.reset.upsets = [] ∧
  (∀ k, slotState k (State.reset.getT k) = if k % 16 = 15 then .idle else .empty) ∧ (∀ c, (State.reset.core c).last = 15) ∧
  (∀ k n, (State.reset.getT k).r.rdS n = 0 ∧ (State.reset.getT k).r.rdV n = 0 ∧ (State.reset.getT k).r.rdK n = 0xFFFFFFFF#32) ∧
  (∀ r, (State.reset.region r).ptroot = 0 ∧ (State.reset.region r).own.phase = 0 ∧ (State.reset.region r).log.mode = 0) ∧
  State.reset.net = [] ∧ State.reset.launches = [] ∧ State.reset.engines = [] ∧ State.reset.inputs = []

/-- R106, R107: an access that fails traps with nothing changed, under the first check that fails: rights and space, limit, alignment; ADDR is the
pointer with the effective offset in it. -/
def Obligations.AccessChecks : Prop :=
  ∀ (s : State) (d a : BitVec 5) (o : BitVec 12) (n rights : Nat) (i : Instr),
    let p := s.rdS a
    let g := s.th.r.rdG (ptrSeg p)
    let eo : Int := ptrOff p + o.toInt * n
    let addr := ptrWith p eo
    let allowed := segRights g &&& rights = rights ∧ anySpace (segSpace g) = true ∧ s.lregionOk (taskVf s.th.id.task) g = true
    let inside := s.limitOk s.clusterNo g eo n = true
    (n, rights, i) ∈ [(1, rR, Instr.ldB d a o), (2, rR, .ldH d a o), (4, rR, .ldW d a o), (8, rR, .ldD d a o), (1, rR, .ldBs d a o),
      (2, rR, .ldHs d a o), (4, rR, .ldWs d a o), (1, rW, .stB d a o), (2, rW, .stH d a o), (4, rW, .stW d a o), (8, rW, .stD d a o)] →
    s.TrapsAlone →
    (¬allowed → Traps i s tSegRights addr 0) ∧ (allowed → ¬inside → Traps i s tSegLimit addr 0) ∧
    (allowed → inside → eo % n ≠ 0 → Traps i s tMisalign addr 0)

/-- R279 to R281: the gather engine's two commands. -/
def Obligations.GathersAndAppends : Prop := Claim.GathersAndAppends

/-- R258, R282, R419, R422, R428, R429: collectives. -/
def Obligations.CollectiveFlits : Prop := Claim.CollectiveFlits
end

