-- ==== Sys2Proof/Laws/Monad.lean ====
section
/-! SUPPORT. What the steps of a computation do, one equation each, so that no proof unfolds the monad; and that a computation's outcome is
always a next state. -/

namespace Sys2Proof.Machine

variable {α β : Type}

@[simp] theorem M.run_pure (a : α) (s : State) : (pure a : M α).run s = (.ok a, s) := rfl

/-- One step after another: the second runs on what the first leaves, unless the first stops. -/
theorem M.run_bind (m : M α) (f : α → M β) (s : State) :
    (m >>= f).run s = match m.run s with
      | (.ok a, s') => (f a).run s'
      | (.error e, s') => (.error e, s') := by
  show ExceptT.run (ExceptT.bind m f) s = _
  simp only [ExceptT.run, ExceptT.bind, ExceptT.mk, bind, StateT.bind, ExceptT.bindCont]
  rcases h : m s with ⟨a | a, s'⟩ <;> rfl

/-- A step that succeeds. -/
theorem M.run_bind_ok {m : M α} {f : α → M β} {s s' : State} {a : α} (h : m.run s = (.ok a, s')) :
    (m >>= f).run s = (f a).run s' := by rw [M.run_bind, h]

/-- A step that stops. -/
theorem M.run_bind_error {m : M α} {f : α → M β} {s s' : State} {e : Stop} (h : m.run s = (.error e, s')) :
    (m >>= f).run s = (.error e, s') := by rw [M.run_bind, h]

@[simp] theorem M.run_get (s : State) : (get : M State).run s = (.ok s, s) := rfl
@[simp] theorem M.run_set (t s : State) : (set t : M Unit).run s = (.ok (), t) := rfl
@[simp] theorem M.run_modify (f : State → State) (s : State) : (modify f : M Unit).run s = (.ok (), f s) := rfl
@[simp] theorem M.run_throw (e : Stop) (s : State) : (throw e : M α).run s = (.error e, s) := rfl
@[simp] theorem M.run_trap (c : BitVec 8) (a : Word) (s : State) : (trap c a : M α).run s = (.error (.trap c a 0), s) := rfl
@[simp] theorem M.run_parkM (p : Park) (s : State) : (parkM p : M α).run s = (.error (.park p), s) := rfl
@[simp] theorem M.run_illegal (s : State) : (illegal : M α).run s = (.error (.trap tIllegal (s.word.setWidth 64) 0), s) := rfl
@[simp] theorem M.run_privileged (s : State) : (privileged : M α).run s = (.error (.trap tPrivileged (s.word.setWidth 64) 0), s) := rfl
@[simp] theorem M.run_formatTrap (p : Word) (c : BitVec 6) (s : State) :
    (formatTrap p c : M α).run s = (.error (.trap tFormat p (c.setWidth 64)), s) := rfl
@[simp] theorem M.run_retireM (s : State) : retireM.run s = (.ok (), s.retire) := rfl
@[simp] theorem M.run_getS (n : BitVec 5) (s : State) : (getS n).run s = (.ok (s.rdS n), s) := rfl
@[simp] theorem M.run_setS (n : BitVec 5) (v : Word) (s : State) : (setS n v).run s = (.ok (), s.wrS n v) := rfl
@[simp] theorem M.run_getV (n : BitVec 5) (s : State) : (getV n).run s = (.ok (s.rdV n), s) := rfl
@[simp] theorem M.run_setV (n : BitVec 5) (v : VReg) (s : State) : (setV n v).run s = (.ok (), s.wrV n v) := rfl
@[simp] theorem M.run_orFlagsM (f : BitVec 4) (s : State) : (orFlagsM f).run s = (.ok (), s.orFlags f) := rfl

theorem M.run_need (c : Bool) (s : State) :
    (need c).run s = if c then (.ok (), s) else (.error (.trap tIllegal (s.word.setWidth 64) 0), s) := by
  cases c <;> rfl

@[simp] theorem M.run_need_true (s : State) : (need true).run s = (.ok (), s) := rfl

theorem M.run_needPriv (s : State) :
    needPriv.run s = if s.th.id.priv then (.ok (), s) else (.error (.trap tPrivileged (s.word.setWidth 64) 0), s) := by
  unfold needPriv
  rw [M.run_bind_ok (M.run_get s)]
  split <;> rfl

theorem M.run_notHandler (s : State) :
    notHandler.run s = if s.slotNo = 15 then (.error (.trap tIllegal (s.word.setWidth 64) 0), s) else (.ok (), s) := by
  unfold notHandler
  rw [M.run_bind_ok (M.run_get s)]
  split <;> rfl

/-! Outcomes. -/

theorem finish_ok {m : M Unit} {s t : State} (h : m.run s = (.ok (), t)) : finish m s = .next t := by
  unfold finish; rw [h]

/-- A stop that is no replay wait and no strong access under way. -/
theorem finish_error {m : M Unit} {s t : State} {e : Stop} (h : m.run s = (.error e, t)) (hr : ∀ r, e ≠ .park (.replay r))
    (ha : e ≠ .park .access) : finish m s = .next (t.takeStop e) := by
  unfold finish; rw [h]
  split
  · simp_all
  · rename_i r _ heq; simp only [Prod.mk.injEq, Except.error.injEq] at heq; exact absurd heq.1 (hr r)
  · rename_i heq; simp only [Prod.mk.injEq, Except.error.injEq] at heq; exact absurd heq.1 ha
  · rename_i heq _ _; simp_all

theorem finish_trap {m : M Unit} {s t : State} {c : BitVec 8} {a i : Word} (h : m.run s = (.error (.trap c a i), t)) :
    finish m s = .next (t.takeTrap c a i) := finish_error h (fun _ => by simp) (by simp)

/-- A computation that stops on a strong access: its requests stay queued, and the registers are as before it (R289). -/
theorem finish_access {m : M Unit} {s t : State} (h : m.run s = (.error (.park .access), t)) :
    finish m s = .next ({ t with th.r := s.th.r }.parkAt .access) := by
  unfold finish; rw [h]

/-- Whatever a computation does, its outcome is a next state. -/
theorem finish_goes_on (m : M Unit) (s : State) : ∃ t, finish m s = .next t := by
  unfold finish
  split <;> exact ⟨_, rfl⟩

end Sys2Proof.Machine
end

