-- ==== Sys2Proof/Laws/SMap.lean ====
section
/-! SUPPORT. The laws of sparse maps: reading after writing, and that every operation keeps the canonical form. -/

namespace Sys2Proof.Machine

variable {α : Type}

@[simp] theorem SMap.get_nil (d : α) (k : Nat) : SMap.get d [] k = d := rfl

theorem SMap.get_cons (d v : α) (j : Nat) (r : SMap α) (k : Nat) :
    SMap.get d ((j, v) :: r) k = if j = k then v else SMap.get d r k := rfl

theorem SMap.get_erase (d : α) (m : SMap α) (k k' : Nat) :
    SMap.get d (SMap.erase m k) k' = if k' = k then d else SMap.get d m k' := by
  unfold SMap.erase
  induction m with
  | nil => simp
  | cons p r ih =>
    obtain ⟨j, v⟩ := p
    by_cases hj : j = k
    · subst hj
      simp only [ne_eq, not_true_eq_false, decide_false, Bool.false_eq_true, not_false_eq_true, List.filter_cons_of_neg, ih, SMap.get_cons]
      split
      · rfl
      · rw [if_neg (fun h => by omega)]
    · simp only [ne_eq, hj, not_false_eq_true, decide_true, List.filter_cons_of_pos, SMap.get_cons, ih]
      split
      · rw [if_neg (by omega)]
      · rfl

theorem SMap.get_insert (d : α) (m : SMap α) (k : Nat) (x : α) (k' : Nat) :
    SMap.get d (SMap.insert m k x) k' = if k' = k then x else SMap.get d m k' := by
  induction m with
  | nil => simp [SMap.insert, SMap.get, eq_comm]
  | cons p r ih =>
    obtain ⟨j, v⟩ := p
    unfold SMap.insert
    split
    · subst_vars
      simp only [SMap.get_cons]
      split
      · simp_all
      · rw [if_neg (by omega)]
    · split
      · simp only [SMap.get_cons, eq_comm (a := k)]
      · simp only [SMap.get_cons, ih]
        split
        · rw [if_neg (by omega)]
        · rfl

/-- Reading a written map: the written key reads as written, every other key as before. -/
theorem SMap.get_set [DecidableEq α] (d : α) (m : SMap α) (k : Nat) (x : α) (k' : Nat) :
    SMap.get d (SMap.set d m k x) k' = if k' = k then x else SMap.get d m k' := by
  unfold SMap.set
  split
  · subst_vars; exact SMap.get_erase _ _ _ _
  · exact SMap.get_insert _ _ _ _ _

@[simp] theorem SMap.get_set_self [DecidableEq α] (d : α) (m : SMap α) (k : Nat) (x : α) :
    SMap.get d (SMap.set d m k x) k = x := by rw [SMap.get_set, if_pos rfl]

theorem SMap.get_set_ne [DecidableEq α] (d : α) (m : SMap α) {k k' : Nat} (x : α) (h : k' ≠ k) :
    SMap.get d (SMap.set d m k x) k' = SMap.get d m k' := by rw [SMap.get_set, if_neg h]

/-! The canonical form. -/

theorem SMap.above_weaken {lo lo' : Nat} (h : lo' ≤ lo) : ∀ {m : SMap α}, SMap.above lo m = true → SMap.above lo' m = true
  | [], _ => rfl
  | (_, _) :: _, hm => by simp only [SMap.above, Bool.and_eq_true, decide_eq_true_eq] at *; exact ⟨by omega, hm.2⟩

theorem SMap.above_filter (f : Nat × α → Bool) : ∀ {m : SMap α} {lo : Nat}, SMap.above lo m = true → SMap.above lo (m.filter f) = true
  | [], _, _ => rfl
  | (j, v) :: r, lo, hm => by
    simp only [SMap.above, Bool.and_eq_true, decide_eq_true_eq] at hm
    have ih := SMap.above_filter f hm.2
    by_cases hf : f (j, v) = true
    · simp [List.filter_cons_of_pos hf, SMap.above, hm.1, ih]
    · rw [List.filter_cons_of_neg hf]
      exact SMap.above_weaken (by omega) ih

theorem SMap.above_insert (k : Nat) (x : α) : ∀ {m : SMap α} {lo : Nat}, lo ≤ k → SMap.above lo m = true →
    SMap.above lo (SMap.insert m k x) = true
  | [], _, h, _ => by simp [SMap.insert, SMap.above, h]
  | (j, v) :: r, lo, h, hm => by
    simp only [SMap.above, Bool.and_eq_true, decide_eq_true_eq] at hm
    unfold SMap.insert
    split
    · subst_vars; simp [SMap.above, h, hm.2]
    · split
      · simp only [SMap.above, Bool.and_eq_true, decide_eq_true_eq]; exact ⟨h, by omega, hm.2⟩
      · simp only [SMap.above, Bool.and_eq_true, decide_eq_true_eq]
        exact ⟨hm.1, SMap.above_insert k x (by omega) hm.2⟩

theorem SMap.mem_insert {k : Nat} {x : α} {p : Nat × α} : ∀ {m : SMap α}, p ∈ SMap.insert m k x → p = (k, x) ∨ p ∈ m
  | [], h => by simpa [SMap.insert] using h
  | (j, v) :: r, h => by
    unfold SMap.insert at h
    split at h
    · simp only [List.mem_cons] at h ⊢; grind
    · split at h
      · simp only [List.mem_cons] at h ⊢; grind
      · simp only [List.mem_cons] at h ⊢
        rcases h with h | h
        · grind
        · rcases SMap.mem_insert h with h | h <;> grind

theorem SMap.wf_nil [DecidableEq α] (d : α) : SMap.wf d [] = true := rfl

theorem SMap.wf_filter [DecidableEq α] {d : α} {m : SMap α} (f : Nat × α → Bool) (h : SMap.wf d m = true) :
    SMap.wf d (m.filter f) = true := by
  simp only [SMap.wf, Bool.and_eq_true, List.all_eq_true] at *
  exact ⟨SMap.above_filter f h.1, fun p hp => h.2 p (List.mem_filter.mp hp).1⟩

/-- Writing keeps the canonical form. -/
theorem SMap.wf_set [DecidableEq α] {d : α} {m : SMap α} (k : Nat) (x : α) (h : SMap.wf d m = true) :
    SMap.wf d (SMap.set d m k x) = true := by
  unfold SMap.set
  split
  · exact SMap.wf_filter _ h
  · simp only [SMap.wf, Bool.and_eq_true, List.all_eq_true] at *
    refine ⟨SMap.above_insert k x (Nat.zero_le _) h.1, fun p hp => ?_⟩
    rcases SMap.mem_insert hp with rfl | hp
    · simpa
    · exact h.2 p hp

end Sys2Proof.Machine
end

