-- ==== Sys2Proof/Laws/State.lean ====
section
/-! SUPPORT. What each update of the state leaves in each field, so that no proof unfolds a record update; and what a register, a core, a
region or a byte reads as after one is written. -/

namespace Sys2Proof.Machine

variable (s : State)

/-! `State.wrS`. -/

@[simp] theorem State.wrS_inputs (n : BitVec 5) (v : Word) : (s.wrS n v).inputs = s.inputs := rfl
@[simp] theorem State.wrS_issuing (n : BitVec 5) (v : Word) : (s.wrS n v).issuing = s.issuing := rfl
@[simp] theorem State.wrS_focus (n : BitVec 5) (v : Word) : (s.wrS n v).focus = s.focus := rfl
@[simp] theorem State.wrS_cur (n : BitVec 5) (v : Word) : (s.wrS n v).cur = s.cur := rfl
@[simp] theorem State.wrS_th (n : BitVec 5) (v : Word) : (s.wrS n v).th = { s.th with r := s.th.r.wrS n.toNat v } := rfl
@[simp] theorem State.wrS_word (n : BitVec 5) (v : Word) : (s.wrS n v).word = s.word := rfl
@[simp] theorem State.wrS_threads (n : BitVec 5) (v : Word) : (s.wrS n v).threads = s.threads := rfl
@[simp] theorem State.wrS_cores (n : BitVec 5) (v : Word) : (s.wrS n v).cores = s.cores := rfl
@[simp] theorem State.wrS_clusters (n : BitVec 5) (v : Word) : (s.wrS n v).clusters = s.clusters := rfl
@[simp] theorem State.wrS_regions (n : BitVec 5) (v : Word) : (s.wrS n v).regions = s.regions := rfl
@[simp] theorem State.wrS_vfs (n : BitVec 5) (v : Word) : (s.wrS n v).vfs = s.vfs := rfl
@[simp] theorem State.wrS_queues (n : BitVec 5) (v : Word) : (s.wrS n v).queues = s.queues := rfl
@[simp] theorem State.wrS_launches (n : BitVec 5) (v : Word) : (s.wrS n v).launches = s.launches := rfl
@[simp] theorem State.wrS_engines (n : BitVec 5) (v : Word) : (s.wrS n v).engines = s.engines := rfl
@[simp] theorem State.wrS_net (n : BitVec 5) (v : Word) : (s.wrS n v).net = s.net := rfl
@[simp] theorem State.wrS_hal (n : BitVec 5) (v : Word) : (s.wrS n v).hal = s.hal := rfl
@[simp] theorem State.wrS_reps (n : BitVec 5) (v : Word) : (s.wrS n v).reps = s.reps := rfl
@[simp] theorem State.wrS_acks (n : BitVec 5) (v : Word) : (s.wrS n v).acks = s.acks := rfl
@[simp] theorem State.wrS_migr (n : BitVec 5) (v : Word) : (s.wrS n v).migr = s.migr := rfl
@[simp] theorem State.wrS_a2a (n : BitVec 5) (v : Word) : (s.wrS n v).a2a = s.a2a := rfl
@[simp] theorem State.wrS_mem (n : BitVec 5) (v : Word) : (s.wrS n v).mem = s.mem := rfl
@[simp] theorem State.wrS_full (n : BitVec 5) (v : Word) : (s.wrS n v).full = s.full := rfl
@[simp] theorem State.wrS_poison (n : BitVec 5) (v : Word) : (s.wrS n v).poison = s.poison := rfl
@[simp] theorem State.wrS_upsets (n : BitVec 5) (v : Word) : (s.wrS n v).upsets = s.upsets := rfl
@[simp] theorem State.wrS_pkg (n : BitVec 5) (v : Word) : (s.wrS n v).pkg = s.pkg := rfl

/-! `State.wrV`. -/

@[simp] theorem State.wrV_inputs (n : BitVec 5) (v : VReg) : (s.wrV n v).inputs = s.inputs := rfl
@[simp] theorem State.wrV_issuing (n : BitVec 5) (v : VReg) : (s.wrV n v).issuing = s.issuing := rfl
@[simp] theorem State.wrV_focus (n : BitVec 5) (v : VReg) : (s.wrV n v).focus = s.focus := rfl
@[simp] theorem State.wrV_cur (n : BitVec 5) (v : VReg) : (s.wrV n v).cur = s.cur := rfl
@[simp] theorem State.wrV_th (n : BitVec 5) (v : VReg) : (s.wrV n v).th = { s.th with r := s.th.r.wrV n.toNat v } := rfl
@[simp] theorem State.wrV_word (n : BitVec 5) (v : VReg) : (s.wrV n v).word = s.word := rfl
@[simp] theorem State.wrV_threads (n : BitVec 5) (v : VReg) : (s.wrV n v).threads = s.threads := rfl
@[simp] theorem State.wrV_cores (n : BitVec 5) (v : VReg) : (s.wrV n v).cores = s.cores := rfl
@[simp] theorem State.wrV_clusters (n : BitVec 5) (v : VReg) : (s.wrV n v).clusters = s.clusters := rfl
@[simp] theorem State.wrV_regions (n : BitVec 5) (v : VReg) : (s.wrV n v).regions = s.regions := rfl
@[simp] theorem State.wrV_vfs (n : BitVec 5) (v : VReg) : (s.wrV n v).vfs = s.vfs := rfl
@[simp] theorem State.wrV_queues (n : BitVec 5) (v : VReg) : (s.wrV n v).queues = s.queues := rfl
@[simp] theorem State.wrV_launches (n : BitVec 5) (v : VReg) : (s.wrV n v).launches = s.launches := rfl
@[simp] theorem State.wrV_engines (n : BitVec 5) (v : VReg) : (s.wrV n v).engines = s.engines := rfl
@[simp] theorem State.wrV_net (n : BitVec 5) (v : VReg) : (s.wrV n v).net = s.net := rfl
@[simp] theorem State.wrV_hal (n : BitVec 5) (v : VReg) : (s.wrV n v).hal = s.hal := rfl
@[simp] theorem State.wrV_reps (n : BitVec 5) (v : VReg) : (s.wrV n v).reps = s.reps := rfl
@[simp] theorem State.wrV_acks (n : BitVec 5) (v : VReg) : (s.wrV n v).acks = s.acks := rfl
@[simp] theorem State.wrV_migr (n : BitVec 5) (v : VReg) : (s.wrV n v).migr = s.migr := rfl
@[simp] theorem State.wrV_a2a (n : BitVec 5) (v : VReg) : (s.wrV n v).a2a = s.a2a := rfl
@[simp] theorem State.wrV_mem (n : BitVec 5) (v : VReg) : (s.wrV n v).mem = s.mem := rfl
@[simp] theorem State.wrV_full (n : BitVec 5) (v : VReg) : (s.wrV n v).full = s.full := rfl
@[simp] theorem State.wrV_poison (n : BitVec 5) (v : VReg) : (s.wrV n v).poison = s.poison := rfl
@[simp] theorem State.wrV_upsets (n : BitVec 5) (v : VReg) : (s.wrV n v).upsets = s.upsets := rfl
@[simp] theorem State.wrV_pkg (n : BitVec 5) (v : VReg) : (s.wrV n v).pkg = s.pkg := rfl

/-! `State.wrK`. -/

@[simp] theorem State.wrK_inputs (n : BitVec 3) (v : Word32) : (s.wrK n v).inputs = s.inputs := rfl
@[simp] theorem State.wrK_issuing (n : BitVec 3) (v : Word32) : (s.wrK n v).issuing = s.issuing := rfl
@[simp] theorem State.wrK_focus (n : BitVec 3) (v : Word32) : (s.wrK n v).focus = s.focus := rfl
@[simp] theorem State.wrK_cur (n : BitVec 3) (v : Word32) : (s.wrK n v).cur = s.cur := rfl
@[simp] theorem State.wrK_th (n : BitVec 3) (v : Word32) : (s.wrK n v).th = { s.th with r := s.th.r.wrK n.toNat v } := rfl
@[simp] theorem State.wrK_word (n : BitVec 3) (v : Word32) : (s.wrK n v).word = s.word := rfl
@[simp] theorem State.wrK_threads (n : BitVec 3) (v : Word32) : (s.wrK n v).threads = s.threads := rfl
@[simp] theorem State.wrK_cores (n : BitVec 3) (v : Word32) : (s.wrK n v).cores = s.cores := rfl
@[simp] theorem State.wrK_clusters (n : BitVec 3) (v : Word32) : (s.wrK n v).clusters = s.clusters := rfl
@[simp] theorem State.wrK_regions (n : BitVec 3) (v : Word32) : (s.wrK n v).regions = s.regions := rfl
@[simp] theorem State.wrK_vfs (n : BitVec 3) (v : Word32) : (s.wrK n v).vfs = s.vfs := rfl
@[simp] theorem State.wrK_queues (n : BitVec 3) (v : Word32) : (s.wrK n v).queues = s.queues := rfl
@[simp] theorem State.wrK_launches (n : BitVec 3) (v : Word32) : (s.wrK n v).launches = s.launches := rfl
@[simp] theorem State.wrK_engines (n : BitVec 3) (v : Word32) : (s.wrK n v).engines = s.engines := rfl
@[simp] theorem State.wrK_net (n : BitVec 3) (v : Word32) : (s.wrK n v).net = s.net := rfl
@[simp] theorem State.wrK_hal (n : BitVec 3) (v : Word32) : (s.wrK n v).hal = s.hal := rfl
@[simp] theorem State.wrK_reps (n : BitVec 3) (v : Word32) : (s.wrK n v).reps = s.reps := rfl
@[simp] theorem State.wrK_acks (n : BitVec 3) (v : Word32) : (s.wrK n v).acks = s.acks := rfl
@[simp] theorem State.wrK_migr (n : BitVec 3) (v : Word32) : (s.wrK n v).migr = s.migr := rfl
@[simp] theorem State.wrK_a2a (n : BitVec 3) (v : Word32) : (s.wrK n v).a2a = s.a2a := rfl
@[simp] theorem State.wrK_mem (n : BitVec 3) (v : Word32) : (s.wrK n v).mem = s.mem := rfl
@[simp] theorem State.wrK_full (n : BitVec 3) (v : Word32) : (s.wrK n v).full = s.full := rfl
@[simp] theorem State.wrK_poison (n : BitVec 3) (v : Word32) : (s.wrK n v).poison = s.poison := rfl
@[simp] theorem State.wrK_upsets (n : BitVec 3) (v : Word32) : (s.wrK n v).upsets = s.upsets := rfl
@[simp] theorem State.wrK_pkg (n : BitVec 3) (v : Word32) : (s.wrK n v).pkg = s.pkg := rfl

/-! `State.wrG`. -/

@[simp] theorem State.wrG_inputs (n : BitVec 3) (v : BitVec 256) : (s.wrG n v).inputs = s.inputs := rfl
@[simp] theorem State.wrG_issuing (n : BitVec 3) (v : BitVec 256) : (s.wrG n v).issuing = s.issuing := rfl
@[simp] theorem State.wrG_focus (n : BitVec 3) (v : BitVec 256) : (s.wrG n v).focus = s.focus := rfl
@[simp] theorem State.wrG_cur (n : BitVec 3) (v : BitVec 256) : (s.wrG n v).cur = s.cur := rfl
@[simp] theorem State.wrG_th (n : BitVec 3) (v : BitVec 256) : (s.wrG n v).th = { s.th with r := s.th.r.wrG n.toNat v } := rfl
@[simp] theorem State.wrG_word (n : BitVec 3) (v : BitVec 256) : (s.wrG n v).word = s.word := rfl
@[simp] theorem State.wrG_threads (n : BitVec 3) (v : BitVec 256) : (s.wrG n v).threads = s.threads := rfl
@[simp] theorem State.wrG_cores (n : BitVec 3) (v : BitVec 256) : (s.wrG n v).cores = s.cores := rfl
@[simp] theorem State.wrG_clusters (n : BitVec 3) (v : BitVec 256) : (s.wrG n v).clusters = s.clusters := rfl
@[simp] theorem State.wrG_regions (n : BitVec 3) (v : BitVec 256) : (s.wrG n v).regions = s.regions := rfl
@[simp] theorem State.wrG_vfs (n : BitVec 3) (v : BitVec 256) : (s.wrG n v).vfs = s.vfs := rfl
@[simp] theorem State.wrG_queues (n : BitVec 3) (v : BitVec 256) : (s.wrG n v).queues = s.queues := rfl
@[simp] theorem State.wrG_launches (n : BitVec 3) (v : BitVec 256) : (s.wrG n v).launches = s.launches := rfl
@[simp] theorem State.wrG_engines (n : BitVec 3) (v : BitVec 256) : (s.wrG n v).engines = s.engines := rfl
@[simp] theorem State.wrG_net (n : BitVec 3) (v : BitVec 256) : (s.wrG n v).net = s.net := rfl
@[simp] theorem State.wrG_hal (n : BitVec 3) (v : BitVec 256) : (s.wrG n v).hal = s.hal := rfl
@[simp] theorem State.wrG_reps (n : BitVec 3) (v : BitVec 256) : (s.wrG n v).reps = s.reps := rfl
@[simp] theorem State.wrG_acks (n : BitVec 3) (v : BitVec 256) : (s.wrG n v).acks = s.acks := rfl
@[simp] theorem State.wrG_migr (n : BitVec 3) (v : BitVec 256) : (s.wrG n v).migr = s.migr := rfl
@[simp] theorem State.wrG_a2a (n : BitVec 3) (v : BitVec 256) : (s.wrG n v).a2a = s.a2a := rfl
@[simp] theorem State.wrG_mem (n : BitVec 3) (v : BitVec 256) : (s.wrG n v).mem = s.mem := rfl
@[simp] theorem State.wrG_full (n : BitVec 3) (v : BitVec 256) : (s.wrG n v).full = s.full := rfl
@[simp] theorem State.wrG_poison (n : BitVec 3) (v : BitVec 256) : (s.wrG n v).poison = s.poison := rfl
@[simp] theorem State.wrG_upsets (n : BitVec 3) (v : BitVec 256) : (s.wrG n v).upsets = s.upsets := rfl
@[simp] theorem State.wrG_pkg (n : BitVec 3) (v : BitVec 256) : (s.wrG n v).pkg = s.pkg := rfl

/-! `State.orFlags`. -/

@[simp] theorem State.orFlags_inputs (f : BitVec 4) : (s.orFlags f).inputs = s.inputs := rfl
@[simp] theorem State.orFlags_issuing (f : BitVec 4) : (s.orFlags f).issuing = s.issuing := rfl
@[simp] theorem State.orFlags_focus (f : BitVec 4) : (s.orFlags f).focus = s.focus := rfl
@[simp] theorem State.orFlags_cur (f : BitVec 4) : (s.orFlags f).cur = s.cur := rfl
@[simp] theorem State.orFlags_th (f : BitVec 4) : (s.orFlags f).th = { s.th with r.fp := s.th.r.fp ||| f } := rfl
@[simp] theorem State.orFlags_word (f : BitVec 4) : (s.orFlags f).word = s.word := rfl
@[simp] theorem State.orFlags_threads (f : BitVec 4) : (s.orFlags f).threads = s.threads := rfl
@[simp] theorem State.orFlags_cores (f : BitVec 4) : (s.orFlags f).cores = s.cores := rfl
@[simp] theorem State.orFlags_clusters (f : BitVec 4) : (s.orFlags f).clusters = s.clusters := rfl
@[simp] theorem State.orFlags_regions (f : BitVec 4) : (s.orFlags f).regions = s.regions := rfl
@[simp] theorem State.orFlags_vfs (f : BitVec 4) : (s.orFlags f).vfs = s.vfs := rfl
@[simp] theorem State.orFlags_queues (f : BitVec 4) : (s.orFlags f).queues = s.queues := rfl
@[simp] theorem State.orFlags_launches (f : BitVec 4) : (s.orFlags f).launches = s.launches := rfl
@[simp] theorem State.orFlags_engines (f : BitVec 4) : (s.orFlags f).engines = s.engines := rfl
@[simp] theorem State.orFlags_net (f : BitVec 4) : (s.orFlags f).net = s.net := rfl
@[simp] theorem State.orFlags_hal (f : BitVec 4) : (s.orFlags f).hal = s.hal := rfl
@[simp] theorem State.orFlags_reps (f : BitVec 4) : (s.orFlags f).reps = s.reps := rfl
@[simp] theorem State.orFlags_acks (f : BitVec 4) : (s.orFlags f).acks = s.acks := rfl
@[simp] theorem State.orFlags_migr (f : BitVec 4) : (s.orFlags f).migr = s.migr := rfl
@[simp] theorem State.orFlags_a2a (f : BitVec 4) : (s.orFlags f).a2a = s.a2a := rfl
@[simp] theorem State.orFlags_mem (f : BitVec 4) : (s.orFlags f).mem = s.mem := rfl
@[simp] theorem State.orFlags_full (f : BitVec 4) : (s.orFlags f).full = s.full := rfl
@[simp] theorem State.orFlags_poison (f : BitVec 4) : (s.orFlags f).poison = s.poison := rfl
@[simp] theorem State.orFlags_upsets (f : BitVec 4) : (s.orFlags f).upsets = s.upsets := rfl
@[simp] theorem State.orFlags_pkg (f : BitVec 4) : (s.orFlags f).pkg = s.pkg := rfl

/-! `State.retire`. -/

@[simp] theorem State.retire_inputs : (s.retire).inputs = s.inputs := rfl
@[simp] theorem State.retire_issuing : (s.retire).issuing = s.issuing := rfl
@[simp] theorem State.retire_focus : (s.retire).focus = s.focus := rfl
@[simp] theorem State.retire_cur : (s.retire).cur = s.cur := rfl
@[simp] theorem State.retire_th : (s.retire).th = { s.th with r := s.th.r.next, is := s.th.is.done, w := s.th.w.over } := rfl
@[simp] theorem State.retire_word : (s.retire).word = s.word := rfl
@[simp] theorem State.retire_threads : (s.retire).threads = s.threads := rfl
@[simp] theorem State.retire_cores : (s.retire).cores = s.cores := rfl
@[simp] theorem State.retire_clusters : (s.retire).clusters = s.clusters := rfl
@[simp] theorem State.retire_regions : (s.retire).regions = s.regions := rfl
@[simp] theorem State.retire_vfs : (s.retire).vfs = s.vfs := rfl
@[simp] theorem State.retire_queues : (s.retire).queues = s.queues := rfl
@[simp] theorem State.retire_launches : (s.retire).launches = s.launches := rfl
@[simp] theorem State.retire_engines : (s.retire).engines = s.engines := rfl
@[simp] theorem State.retire_net : (s.retire).net = s.net := rfl
@[simp] theorem State.retire_hal : (s.retire).hal = s.hal := rfl
@[simp] theorem State.retire_reps : (s.retire).reps = s.reps := rfl
@[simp] theorem State.retire_acks : (s.retire).acks = s.acks := rfl
@[simp] theorem State.retire_migr : (s.retire).migr = s.migr := rfl
@[simp] theorem State.retire_a2a : (s.retire).a2a = s.a2a := rfl
@[simp] theorem State.retire_mem : (s.retire).mem = s.mem := rfl
@[simp] theorem State.retire_full : (s.retire).full = s.full := rfl
@[simp] theorem State.retire_poison : (s.retire).poison = s.poison := rfl
@[simp] theorem State.retire_upsets : (s.retire).upsets = s.upsets := rfl
@[simp] theorem State.retire_pkg : (s.retire).pkg = s.pkg := rfl

/-! `State.jump`. -/

@[simp] theorem State.jump_inputs (a : Word) : (s.jump a).inputs = s.inputs := rfl
@[simp] theorem State.jump_issuing (a : Word) : (s.jump a).issuing = s.issuing := rfl
@[simp] theorem State.jump_focus (a : Word) : (s.jump a).focus = s.focus := rfl
@[simp] theorem State.jump_cur (a : Word) : (s.jump a).cur = s.cur := rfl
@[simp] theorem State.jump_th (a : Word) : (s.jump a).th = { s.th with r.pc := a, is := { s.th.is.done with ibuf := [] }, w := s.th.w.over } := rfl
@[simp] theorem State.jump_word (a : Word) : (s.jump a).word = s.word := rfl
@[simp] theorem State.jump_threads (a : Word) : (s.jump a).threads = s.threads := rfl
@[simp] theorem State.jump_cores (a : Word) : (s.jump a).cores = s.cores := rfl
@[simp] theorem State.jump_clusters (a : Word) : (s.jump a).clusters = s.clusters := rfl
@[simp] theorem State.jump_regions (a : Word) : (s.jump a).regions = s.regions := rfl
@[simp] theorem State.jump_vfs (a : Word) : (s.jump a).vfs = s.vfs := rfl
@[simp] theorem State.jump_queues (a : Word) : (s.jump a).queues = s.queues := rfl
@[simp] theorem State.jump_launches (a : Word) : (s.jump a).launches = s.launches := rfl
@[simp] theorem State.jump_engines (a : Word) : (s.jump a).engines = s.engines := rfl
@[simp] theorem State.jump_net (a : Word) : (s.jump a).net = s.net := rfl
@[simp] theorem State.jump_hal (a : Word) : (s.jump a).hal = s.hal := rfl
@[simp] theorem State.jump_reps (a : Word) : (s.jump a).reps = s.reps := rfl
@[simp] theorem State.jump_acks (a : Word) : (s.jump a).acks = s.acks := rfl
@[simp] theorem State.jump_migr (a : Word) : (s.jump a).migr = s.migr := rfl
@[simp] theorem State.jump_a2a (a : Word) : (s.jump a).a2a = s.a2a := rfl
@[simp] theorem State.jump_mem (a : Word) : (s.jump a).mem = s.mem := rfl
@[simp] theorem State.jump_full (a : Word) : (s.jump a).full = s.full := rfl
@[simp] theorem State.jump_poison (a : Word) : (s.jump a).poison = s.poison := rfl
@[simp] theorem State.jump_upsets (a : Word) : (s.jump a).upsets = s.upsets := rfl
@[simp] theorem State.jump_pkg (a : Word) : (s.jump a).pkg = s.pkg := rfl

/-! `State.parkAt`. -/

@[simp] theorem State.parkAt_inputs (p : Park) : (s.parkAt p).inputs = s.inputs := rfl
@[simp] theorem State.parkAt_issuing (p : Park) : (s.parkAt p).issuing = s.issuing := rfl
@[simp] theorem State.parkAt_focus (p : Park) : (s.parkAt p).focus = s.focus := rfl
@[simp] theorem State.parkAt_cur (p : Park) : (s.parkAt p).cur = s.cur := rfl
@[simp] theorem State.parkAt_th (p : Park) : (s.parkAt p).th = { s.th with st := if s.th.st = .saving then .saving else .parked, w := { s.th.w with park := p, since := if s.th.w.park = p then s.th.w.since else s.clockAt s.coreNo, acc := if p.keepsAccess then { s.th.w.acc with word := s.word, pos := 0, redo := false } else { word := s.word, held := s.relaxed } } } := rfl
@[simp] theorem State.parkAt_word (p : Park) : (s.parkAt p).word = s.word := rfl
@[simp] theorem State.parkAt_threads (p : Park) : (s.parkAt p).threads = s.threads := rfl
@[simp] theorem State.parkAt_cores (p : Park) : (s.parkAt p).cores = s.cores := rfl
@[simp] theorem State.parkAt_clusters (p : Park) : (s.parkAt p).clusters = s.clusters := rfl
@[simp] theorem State.parkAt_regions (p : Park) : (s.parkAt p).regions = s.regions := rfl
@[simp] theorem State.parkAt_vfs (p : Park) : (s.parkAt p).vfs = s.vfs := rfl
@[simp] theorem State.parkAt_queues (p : Park) : (s.parkAt p).queues = s.queues := rfl
@[simp] theorem State.parkAt_launches (p : Park) : (s.parkAt p).launches = s.launches := rfl
@[simp] theorem State.parkAt_engines (p : Park) : (s.parkAt p).engines = s.engines := rfl
@[simp] theorem State.parkAt_net (p : Park) : (s.parkAt p).net = s.net := rfl
@[simp] theorem State.parkAt_hal (p : Park) : (s.parkAt p).hal = s.hal := rfl
@[simp] theorem State.parkAt_reps (p : Park) : (s.parkAt p).reps = s.reps := rfl
@[simp] theorem State.parkAt_acks (p : Park) : (s.parkAt p).acks = s.acks := rfl
@[simp] theorem State.parkAt_migr (p : Park) : (s.parkAt p).migr = s.migr := rfl
@[simp] theorem State.parkAt_a2a (p : Park) : (s.parkAt p).a2a = s.a2a := rfl
@[simp] theorem State.parkAt_mem (p : Park) : (s.parkAt p).mem = s.mem := rfl
@[simp] theorem State.parkAt_full (p : Park) : (s.parkAt p).full = s.full := rfl
@[simp] theorem State.parkAt_poison (p : Park) : (s.parkAt p).poison = s.poison := rfl
@[simp] theorem State.parkAt_upsets (p : Park) : (s.parkAt p).upsets = s.upsets := rfl
@[simp] theorem State.parkAt_pkg (p : Park) : (s.parkAt p).pkg = s.pkg := rfl

/-! `State.setCore`. -/

@[simp] theorem State.setCore_inputs (c : Nat) (x : Core) : (s.setCore c x).inputs = s.inputs := rfl
@[simp] theorem State.setCore_issuing (c : Nat) (x : Core) : (s.setCore c x).issuing = s.issuing := rfl
@[simp] theorem State.setCore_focus (c : Nat) (x : Core) : (s.setCore c x).focus = s.focus := rfl
@[simp] theorem State.setCore_cur (c : Nat) (x : Core) : (s.setCore c x).cur = s.cur := rfl
@[simp] theorem State.setCore_th (c : Nat) (x : Core) : (s.setCore c x).th = s.th := rfl
@[simp] theorem State.setCore_word (c : Nat) (x : Core) : (s.setCore c x).word = s.word := rfl
@[simp] theorem State.setCore_threads (c : Nat) (x : Core) : (s.setCore c x).threads = s.threads := rfl
@[simp] theorem State.setCore_cores (c : Nat) (x : Core) : (s.setCore c x).cores = SMap.set {} s.cores c x := rfl
@[simp] theorem State.setCore_clusters (c : Nat) (x : Core) : (s.setCore c x).clusters = s.clusters := rfl
@[simp] theorem State.setCore_regions (c : Nat) (x : Core) : (s.setCore c x).regions = s.regions := rfl
@[simp] theorem State.setCore_vfs (c : Nat) (x : Core) : (s.setCore c x).vfs = s.vfs := rfl
@[simp] theorem State.setCore_queues (c : Nat) (x : Core) : (s.setCore c x).queues = s.queues := rfl
@[simp] theorem State.setCore_launches (c : Nat) (x : Core) : (s.setCore c x).launches = s.launches := rfl
@[simp] theorem State.setCore_engines (c : Nat) (x : Core) : (s.setCore c x).engines = s.engines := rfl
@[simp] theorem State.setCore_net (c : Nat) (x : Core) : (s.setCore c x).net = s.net := rfl
@[simp] theorem State.setCore_hal (c : Nat) (x : Core) : (s.setCore c x).hal = s.hal := rfl
@[simp] theorem State.setCore_reps (c : Nat) (x : Core) : (s.setCore c x).reps = s.reps := rfl
@[simp] theorem State.setCore_acks (c : Nat) (x : Core) : (s.setCore c x).acks = s.acks := rfl
@[simp] theorem State.setCore_migr (c : Nat) (x : Core) : (s.setCore c x).migr = s.migr := rfl
@[simp] theorem State.setCore_a2a (c : Nat) (x : Core) : (s.setCore c x).a2a = s.a2a := rfl
@[simp] theorem State.setCore_mem (c : Nat) (x : Core) : (s.setCore c x).mem = s.mem := rfl
@[simp] theorem State.setCore_full (c : Nat) (x : Core) : (s.setCore c x).full = s.full := rfl
@[simp] theorem State.setCore_poison (c : Nat) (x : Core) : (s.setCore c x).poison = s.poison := rfl
@[simp] theorem State.setCore_upsets (c : Nat) (x : Core) : (s.setCore c x).upsets = s.upsets := rfl
@[simp] theorem State.setCore_pkg (c : Nat) (x : Core) : (s.setCore c x).pkg = s.pkg := rfl

/-! `State.setCluster`. -/

@[simp] theorem State.setCluster_inputs (c : Nat) (x : Cluster) : (s.setCluster c x).inputs = s.inputs := rfl
@[simp] theorem State.setCluster_issuing (c : Nat) (x : Cluster) : (s.setCluster c x).issuing = s.issuing := rfl
@[simp] theorem State.setCluster_focus (c : Nat) (x : Cluster) : (s.setCluster c x).focus = s.focus := rfl
@[simp] theorem State.setCluster_cur (c : Nat) (x : Cluster) : (s.setCluster c x).cur = s.cur := rfl
@[simp] theorem State.setCluster_th (c : Nat) (x : Cluster) : (s.setCluster c x).th = s.th := rfl
@[simp] theorem State.setCluster_word (c : Nat) (x : Cluster) : (s.setCluster c x).word = s.word := rfl
@[simp] theorem State.setCluster_threads (c : Nat) (x : Cluster) : (s.setCluster c x).threads = s.threads := rfl
@[simp] theorem State.setCluster_cores (c : Nat) (x : Cluster) : (s.setCluster c x).cores = s.cores := rfl
@[simp] theorem State.setCluster_clusters (c : Nat) (x : Cluster) : (s.setCluster c x).clusters = SMap.set {} s.clusters c x := rfl
@[simp] theorem State.setCluster_regions (c : Nat) (x : Cluster) : (s.setCluster c x).regions = s.regions := rfl
@[simp] theorem State.setCluster_vfs (c : Nat) (x : Cluster) : (s.setCluster c x).vfs = s.vfs := rfl
@[simp] theorem State.setCluster_queues (c : Nat) (x : Cluster) : (s.setCluster c x).queues = s.queues := rfl
@[simp] theorem State.setCluster_launches (c : Nat) (x : Cluster) : (s.setCluster c x).launches = s.launches := rfl
@[simp] theorem State.setCluster_engines (c : Nat) (x : Cluster) : (s.setCluster c x).engines = s.engines := rfl
@[simp] theorem State.setCluster_net (c : Nat) (x : Cluster) : (s.setCluster c x).net = s.net := rfl
@[simp] theorem State.setCluster_hal (c : Nat) (x : Cluster) : (s.setCluster c x).hal = s.hal := rfl
@[simp] theorem State.setCluster_reps (c : Nat) (x : Cluster) : (s.setCluster c x).reps = s.reps := rfl
@[simp] theorem State.setCluster_acks (c : Nat) (x : Cluster) : (s.setCluster c x).acks = s.acks := rfl
@[simp] theorem State.setCluster_migr (c : Nat) (x : Cluster) : (s.setCluster c x).migr = s.migr := rfl
@[simp] theorem State.setCluster_a2a (c : Nat) (x : Cluster) : (s.setCluster c x).a2a = s.a2a := rfl
@[simp] theorem State.setCluster_mem (c : Nat) (x : Cluster) : (s.setCluster c x).mem = s.mem := rfl
@[simp] theorem State.setCluster_full (c : Nat) (x : Cluster) : (s.setCluster c x).full = s.full := rfl
@[simp] theorem State.setCluster_poison (c : Nat) (x : Cluster) : (s.setCluster c x).poison = s.poison := rfl
@[simp] theorem State.setCluster_upsets (c : Nat) (x : Cluster) : (s.setCluster c x).upsets = s.upsets := rfl
@[simp] theorem State.setCluster_pkg (c : Nat) (x : Cluster) : (s.setCluster c x).pkg = s.pkg := rfl

/-! `State.setRegion`. -/

@[simp] theorem State.setRegion_inputs (c : Nat) (x : Region) : (s.setRegion c x).inputs = s.inputs := rfl
@[simp] theorem State.setRegion_issuing (c : Nat) (x : Region) : (s.setRegion c x).issuing = s.issuing := rfl
@[simp] theorem State.setRegion_focus (c : Nat) (x : Region) : (s.setRegion c x).focus = s.focus := rfl
@[simp] theorem State.setRegion_cur (c : Nat) (x : Region) : (s.setRegion c x).cur = s.cur := rfl
@[simp] theorem State.setRegion_th (c : Nat) (x : Region) : (s.setRegion c x).th = s.th := rfl
@[simp] theorem State.setRegion_word (c : Nat) (x : Region) : (s.setRegion c x).word = s.word := rfl
@[simp] theorem State.setRegion_threads (c : Nat) (x : Region) : (s.setRegion c x).threads = s.threads := rfl
@[simp] theorem State.setRegion_cores (c : Nat) (x : Region) : (s.setRegion c x).cores = s.cores := rfl
@[simp] theorem State.setRegion_clusters (c : Nat) (x : Region) : (s.setRegion c x).clusters = s.clusters := rfl
@[simp] theorem State.setRegion_regions (c : Nat) (x : Region) : (s.setRegion c x).regions = SMap.set {} s.regions c x := rfl
@[simp] theorem State.setRegion_vfs (c : Nat) (x : Region) : (s.setRegion c x).vfs = s.vfs := rfl
@[simp] theorem State.setRegion_queues (c : Nat) (x : Region) : (s.setRegion c x).queues = s.queues := rfl
@[simp] theorem State.setRegion_launches (c : Nat) (x : Region) : (s.setRegion c x).launches = s.launches := rfl
@[simp] theorem State.setRegion_engines (c : Nat) (x : Region) : (s.setRegion c x).engines = s.engines := rfl
@[simp] theorem State.setRegion_net (c : Nat) (x : Region) : (s.setRegion c x).net = s.net := rfl
@[simp] theorem State.setRegion_hal (c : Nat) (x : Region) : (s.setRegion c x).hal = s.hal := rfl
@[simp] theorem State.setRegion_reps (c : Nat) (x : Region) : (s.setRegion c x).reps = s.reps := rfl
@[simp] theorem State.setRegion_acks (c : Nat) (x : Region) : (s.setRegion c x).acks = s.acks := rfl
@[simp] theorem State.setRegion_migr (c : Nat) (x : Region) : (s.setRegion c x).migr = s.migr := rfl
@[simp] theorem State.setRegion_a2a (c : Nat) (x : Region) : (s.setRegion c x).a2a = s.a2a := rfl
@[simp] theorem State.setRegion_mem (c : Nat) (x : Region) : (s.setRegion c x).mem = s.mem := rfl
@[simp] theorem State.setRegion_full (c : Nat) (x : Region) : (s.setRegion c x).full = s.full := rfl
@[simp] theorem State.setRegion_poison (c : Nat) (x : Region) : (s.setRegion c x).poison = s.poison := rfl
@[simp] theorem State.setRegion_upsets (c : Nat) (x : Region) : (s.setRegion c x).upsets = s.upsets := rfl
@[simp] theorem State.setRegion_pkg (c : Nat) (x : Region) : (s.setRegion c x).pkg = s.pkg := rfl

/-! `State.setVf`. -/

@[simp] theorem State.setVf_inputs (c : Nat) (x : VF) : (s.setVf c x).inputs = s.inputs := rfl
@[simp] theorem State.setVf_issuing (c : Nat) (x : VF) : (s.setVf c x).issuing = s.issuing := rfl
@[simp] theorem State.setVf_focus (c : Nat) (x : VF) : (s.setVf c x).focus = s.focus := rfl
@[simp] theorem State.setVf_cur (c : Nat) (x : VF) : (s.setVf c x).cur = s.cur := rfl
@[simp] theorem State.setVf_th (c : Nat) (x : VF) : (s.setVf c x).th = s.th := rfl
@[simp] theorem State.setVf_word (c : Nat) (x : VF) : (s.setVf c x).word = s.word := rfl
@[simp] theorem State.setVf_threads (c : Nat) (x : VF) : (s.setVf c x).threads = s.threads := rfl
@[simp] theorem State.setVf_cores (c : Nat) (x : VF) : (s.setVf c x).cores = s.cores := rfl
@[simp] theorem State.setVf_clusters (c : Nat) (x : VF) : (s.setVf c x).clusters = s.clusters := rfl
@[simp] theorem State.setVf_regions (c : Nat) (x : VF) : (s.setVf c x).regions = s.regions := rfl
@[simp] theorem State.setVf_vfs (c : Nat) (x : VF) : (s.setVf c x).vfs = SMap.set {} s.vfs c x := rfl
@[simp] theorem State.setVf_queues (c : Nat) (x : VF) : (s.setVf c x).queues = s.queues := rfl
@[simp] theorem State.setVf_launches (c : Nat) (x : VF) : (s.setVf c x).launches = s.launches := rfl
@[simp] theorem State.setVf_engines (c : Nat) (x : VF) : (s.setVf c x).engines = s.engines := rfl
@[simp] theorem State.setVf_net (c : Nat) (x : VF) : (s.setVf c x).net = s.net := rfl
@[simp] theorem State.setVf_hal (c : Nat) (x : VF) : (s.setVf c x).hal = s.hal := rfl
@[simp] theorem State.setVf_reps (c : Nat) (x : VF) : (s.setVf c x).reps = s.reps := rfl
@[simp] theorem State.setVf_acks (c : Nat) (x : VF) : (s.setVf c x).acks = s.acks := rfl
@[simp] theorem State.setVf_migr (c : Nat) (x : VF) : (s.setVf c x).migr = s.migr := rfl
@[simp] theorem State.setVf_a2a (c : Nat) (x : VF) : (s.setVf c x).a2a = s.a2a := rfl
@[simp] theorem State.setVf_mem (c : Nat) (x : VF) : (s.setVf c x).mem = s.mem := rfl
@[simp] theorem State.setVf_full (c : Nat) (x : VF) : (s.setVf c x).full = s.full := rfl
@[simp] theorem State.setVf_poison (c : Nat) (x : VF) : (s.setVf c x).poison = s.poison := rfl
@[simp] theorem State.setVf_upsets (c : Nat) (x : VF) : (s.setVf c x).upsets = s.upsets := rfl
@[simp] theorem State.setVf_pkg (c : Nat) (x : VF) : (s.setVf c x).pkg = s.pkg := rfl

/-! `State.setQueue`. -/

@[simp] theorem State.setQueue_inputs (c : Nat) (x : Queue) : (s.setQueue c x).inputs = s.inputs := rfl
@[simp] theorem State.setQueue_issuing (c : Nat) (x : Queue) : (s.setQueue c x).issuing = s.issuing := rfl
@[simp] theorem State.setQueue_focus (c : Nat) (x : Queue) : (s.setQueue c x).focus = s.focus := rfl
@[simp] theorem State.setQueue_cur (c : Nat) (x : Queue) : (s.setQueue c x).cur = s.cur := rfl
@[simp] theorem State.setQueue_th (c : Nat) (x : Queue) : (s.setQueue c x).th = s.th := rfl
@[simp] theorem State.setQueue_word (c : Nat) (x : Queue) : (s.setQueue c x).word = s.word := rfl
@[simp] theorem State.setQueue_threads (c : Nat) (x : Queue) : (s.setQueue c x).threads = s.threads := rfl
@[simp] theorem State.setQueue_cores (c : Nat) (x : Queue) : (s.setQueue c x).cores = s.cores := rfl
@[simp] theorem State.setQueue_clusters (c : Nat) (x : Queue) : (s.setQueue c x).clusters = s.clusters := rfl
@[simp] theorem State.setQueue_regions (c : Nat) (x : Queue) : (s.setQueue c x).regions = s.regions := rfl
@[simp] theorem State.setQueue_vfs (c : Nat) (x : Queue) : (s.setQueue c x).vfs = s.vfs := rfl
@[simp] theorem State.setQueue_queues (c : Nat) (x : Queue) : (s.setQueue c x).queues = SMap.set {} s.queues c x := rfl
@[simp] theorem State.setQueue_launches (c : Nat) (x : Queue) : (s.setQueue c x).launches = s.launches := rfl
@[simp] theorem State.setQueue_engines (c : Nat) (x : Queue) : (s.setQueue c x).engines = s.engines := rfl
@[simp] theorem State.setQueue_net (c : Nat) (x : Queue) : (s.setQueue c x).net = s.net := rfl
@[simp] theorem State.setQueue_hal (c : Nat) (x : Queue) : (s.setQueue c x).hal = s.hal := rfl
@[simp] theorem State.setQueue_reps (c : Nat) (x : Queue) : (s.setQueue c x).reps = s.reps := rfl
@[simp] theorem State.setQueue_acks (c : Nat) (x : Queue) : (s.setQueue c x).acks = s.acks := rfl
@[simp] theorem State.setQueue_migr (c : Nat) (x : Queue) : (s.setQueue c x).migr = s.migr := rfl
@[simp] theorem State.setQueue_a2a (c : Nat) (x : Queue) : (s.setQueue c x).a2a = s.a2a := rfl
@[simp] theorem State.setQueue_mem (c : Nat) (x : Queue) : (s.setQueue c x).mem = s.mem := rfl
@[simp] theorem State.setQueue_full (c : Nat) (x : Queue) : (s.setQueue c x).full = s.full := rfl
@[simp] theorem State.setQueue_poison (c : Nat) (x : Queue) : (s.setQueue c x).poison = s.poison := rfl
@[simp] theorem State.setQueue_upsets (c : Nat) (x : Queue) : (s.setQueue c x).upsets = s.upsets := rfl
@[simp] theorem State.setQueue_pkg (c : Nat) (x : Queue) : (s.setQueue c x).pkg = s.pkg := rfl

/-! `State.setLaunch`. -/

@[simp] theorem State.setLaunch_inputs (c : Nat) (x : Launch) : (s.setLaunch c x).inputs = s.inputs := rfl
@[simp] theorem State.setLaunch_issuing (c : Nat) (x : Launch) : (s.setLaunch c x).issuing = s.issuing := rfl
@[simp] theorem State.setLaunch_focus (c : Nat) (x : Launch) : (s.setLaunch c x).focus = s.focus := rfl
@[simp] theorem State.setLaunch_cur (c : Nat) (x : Launch) : (s.setLaunch c x).cur = s.cur := rfl
@[simp] theorem State.setLaunch_th (c : Nat) (x : Launch) : (s.setLaunch c x).th = s.th := rfl
@[simp] theorem State.setLaunch_word (c : Nat) (x : Launch) : (s.setLaunch c x).word = s.word := rfl
@[simp] theorem State.setLaunch_threads (c : Nat) (x : Launch) : (s.setLaunch c x).threads = s.threads := rfl
@[simp] theorem State.setLaunch_cores (c : Nat) (x : Launch) : (s.setLaunch c x).cores = s.cores := rfl
@[simp] theorem State.setLaunch_clusters (c : Nat) (x : Launch) : (s.setLaunch c x).clusters = s.clusters := rfl
@[simp] theorem State.setLaunch_regions (c : Nat) (x : Launch) : (s.setLaunch c x).regions = s.regions := rfl
@[simp] theorem State.setLaunch_vfs (c : Nat) (x : Launch) : (s.setLaunch c x).vfs = s.vfs := rfl
@[simp] theorem State.setLaunch_queues (c : Nat) (x : Launch) : (s.setLaunch c x).queues = s.queues := rfl
@[simp] theorem State.setLaunch_launches (c : Nat) (x : Launch) : (s.setLaunch c x).launches = SMap.set {} s.launches c x := rfl
@[simp] theorem State.setLaunch_engines (c : Nat) (x : Launch) : (s.setLaunch c x).engines = s.engines := rfl
@[simp] theorem State.setLaunch_net (c : Nat) (x : Launch) : (s.setLaunch c x).net = s.net := rfl
@[simp] theorem State.setLaunch_hal (c : Nat) (x : Launch) : (s.setLaunch c x).hal = s.hal := rfl
@[simp] theorem State.setLaunch_reps (c : Nat) (x : Launch) : (s.setLaunch c x).reps = s.reps := rfl
@[simp] theorem State.setLaunch_acks (c : Nat) (x : Launch) : (s.setLaunch c x).acks = s.acks := rfl
@[simp] theorem State.setLaunch_migr (c : Nat) (x : Launch) : (s.setLaunch c x).migr = s.migr := rfl
@[simp] theorem State.setLaunch_a2a (c : Nat) (x : Launch) : (s.setLaunch c x).a2a = s.a2a := rfl
@[simp] theorem State.setLaunch_mem (c : Nat) (x : Launch) : (s.setLaunch c x).mem = s.mem := rfl
@[simp] theorem State.setLaunch_full (c : Nat) (x : Launch) : (s.setLaunch c x).full = s.full := rfl
@[simp] theorem State.setLaunch_poison (c : Nat) (x : Launch) : (s.setLaunch c x).poison = s.poison := rfl
@[simp] theorem State.setLaunch_upsets (c : Nat) (x : Launch) : (s.setLaunch c x).upsets = s.upsets := rfl
@[simp] theorem State.setLaunch_pkg (c : Nat) (x : Launch) : (s.setLaunch c x).pkg = s.pkg := rfl

/-! `State.setByte`. -/

@[simp] theorem State.setByte_inputs (k : Nat) (v : Byte) : (s.setByte k v).inputs = s.inputs := rfl
@[simp] theorem State.setByte_issuing (k : Nat) (v : Byte) : (s.setByte k v).issuing = s.issuing := rfl
@[simp] theorem State.setByte_focus (k : Nat) (v : Byte) : (s.setByte k v).focus = s.focus := rfl
@[simp] theorem State.setByte_cur (k : Nat) (v : Byte) : (s.setByte k v).cur = s.cur := rfl
@[simp] theorem State.setByte_th (k : Nat) (v : Byte) : (s.setByte k v).th = s.th := rfl
@[simp] theorem State.setByte_word (k : Nat) (v : Byte) : (s.setByte k v).word = s.word := rfl
@[simp] theorem State.setByte_threads (k : Nat) (v : Byte) : (s.setByte k v).threads = s.threads := rfl
@[simp] theorem State.setByte_cores (k : Nat) (v : Byte) : (s.setByte k v).cores = s.cores := rfl
@[simp] theorem State.setByte_clusters (k : Nat) (v : Byte) : (s.setByte k v).clusters = s.clusters := rfl
@[simp] theorem State.setByte_regions (k : Nat) (v : Byte) : (s.setByte k v).regions = s.regions := rfl
@[simp] theorem State.setByte_vfs (k : Nat) (v : Byte) : (s.setByte k v).vfs = s.vfs := rfl
@[simp] theorem State.setByte_queues (k : Nat) (v : Byte) : (s.setByte k v).queues = s.queues := rfl
@[simp] theorem State.setByte_launches (k : Nat) (v : Byte) : (s.setByte k v).launches = s.launches := rfl
@[simp] theorem State.setByte_engines (k : Nat) (v : Byte) : (s.setByte k v).engines = s.engines := rfl
@[simp] theorem State.setByte_net (k : Nat) (v : Byte) : (s.setByte k v).net = s.net := rfl
@[simp] theorem State.setByte_hal (k : Nat) (v : Byte) : (s.setByte k v).hal = s.hal := rfl
@[simp] theorem State.setByte_reps (k : Nat) (v : Byte) : (s.setByte k v).reps = s.reps := rfl
@[simp] theorem State.setByte_acks (k : Nat) (v : Byte) : (s.setByte k v).acks = s.acks := rfl
@[simp] theorem State.setByte_migr (k : Nat) (v : Byte) : (s.setByte k v).migr = s.migr := rfl
@[simp] theorem State.setByte_a2a (k : Nat) (v : Byte) : (s.setByte k v).a2a = s.a2a := rfl
@[simp] theorem State.setByte_mem (k : Nat) (v : Byte) : (s.setByte k v).mem = SMap.set memDefault s.mem k v := rfl
@[simp] theorem State.setByte_full (k : Nat) (v : Byte) : (s.setByte k v).full = s.full := rfl
@[simp] theorem State.setByte_poison (k : Nat) (v : Byte) : (s.setByte k v).poison = s.poison := rfl
@[simp] theorem State.setByte_upsets (k : Nat) (v : Byte) : (s.setByte k v).upsets = s.upsets := rfl
@[simp] theorem State.setByte_pkg (k : Nat) (v : Byte) : (s.setByte k v).pkg = s.pkg := rfl

/-! `State.setFull`. -/

@[simp] theorem State.setFull_inputs (k : Nat) (f : Bool) : (s.setFull k f).inputs = s.inputs := rfl
@[simp] theorem State.setFull_issuing (k : Nat) (f : Bool) : (s.setFull k f).issuing = s.issuing := rfl
@[simp] theorem State.setFull_focus (k : Nat) (f : Bool) : (s.setFull k f).focus = s.focus := rfl
@[simp] theorem State.setFull_cur (k : Nat) (f : Bool) : (s.setFull k f).cur = s.cur := rfl
@[simp] theorem State.setFull_th (k : Nat) (f : Bool) : (s.setFull k f).th = s.th := rfl
@[simp] theorem State.setFull_word (k : Nat) (f : Bool) : (s.setFull k f).word = s.word := rfl
@[simp] theorem State.setFull_threads (k : Nat) (f : Bool) : (s.setFull k f).threads = s.threads := rfl
@[simp] theorem State.setFull_cores (k : Nat) (f : Bool) : (s.setFull k f).cores = s.cores := rfl
@[simp] theorem State.setFull_clusters (k : Nat) (f : Bool) : (s.setFull k f).clusters = s.clusters := rfl
@[simp] theorem State.setFull_regions (k : Nat) (f : Bool) : (s.setFull k f).regions = s.regions := rfl
@[simp] theorem State.setFull_vfs (k : Nat) (f : Bool) : (s.setFull k f).vfs = s.vfs := rfl
@[simp] theorem State.setFull_queues (k : Nat) (f : Bool) : (s.setFull k f).queues = s.queues := rfl
@[simp] theorem State.setFull_launches (k : Nat) (f : Bool) : (s.setFull k f).launches = s.launches := rfl
@[simp] theorem State.setFull_engines (k : Nat) (f : Bool) : (s.setFull k f).engines = s.engines := rfl
@[simp] theorem State.setFull_net (k : Nat) (f : Bool) : (s.setFull k f).net = s.net := rfl
@[simp] theorem State.setFull_hal (k : Nat) (f : Bool) : (s.setFull k f).hal = s.hal := rfl
@[simp] theorem State.setFull_reps (k : Nat) (f : Bool) : (s.setFull k f).reps = s.reps := rfl
@[simp] theorem State.setFull_acks (k : Nat) (f : Bool) : (s.setFull k f).acks = s.acks := rfl
@[simp] theorem State.setFull_migr (k : Nat) (f : Bool) : (s.setFull k f).migr = s.migr := rfl
@[simp] theorem State.setFull_a2a (k : Nat) (f : Bool) : (s.setFull k f).a2a = s.a2a := rfl
@[simp] theorem State.setFull_mem (k : Nat) (f : Bool) : (s.setFull k f).mem = s.mem := rfl
@[simp] theorem State.setFull_full (k : Nat) (f : Bool) : (s.setFull k f).full = SMap.set false s.full (k / 8) f := rfl
@[simp] theorem State.setFull_poison (k : Nat) (f : Bool) : (s.setFull k f).poison = s.poison := rfl
@[simp] theorem State.setFull_upsets (k : Nat) (f : Bool) : (s.setFull k f).upsets = s.upsets := rfl
@[simp] theorem State.setFull_pkg (k : Nat) (f : Bool) : (s.setFull k f).pkg = s.pkg := rfl

/-! `State.setPoison`. -/

@[simp] theorem State.setPoison_inputs (k : Nat) (f : Bool) : (s.setPoison k f).inputs = s.inputs := rfl
@[simp] theorem State.setPoison_issuing (k : Nat) (f : Bool) : (s.setPoison k f).issuing = s.issuing := rfl
@[simp] theorem State.setPoison_focus (k : Nat) (f : Bool) : (s.setPoison k f).focus = s.focus := rfl
@[simp] theorem State.setPoison_cur (k : Nat) (f : Bool) : (s.setPoison k f).cur = s.cur := rfl
@[simp] theorem State.setPoison_th (k : Nat) (f : Bool) : (s.setPoison k f).th = s.th := rfl
@[simp] theorem State.setPoison_word (k : Nat) (f : Bool) : (s.setPoison k f).word = s.word := rfl
@[simp] theorem State.setPoison_threads (k : Nat) (f : Bool) : (s.setPoison k f).threads = s.threads := rfl
@[simp] theorem State.setPoison_cores (k : Nat) (f : Bool) : (s.setPoison k f).cores = s.cores := rfl
@[simp] theorem State.setPoison_clusters (k : Nat) (f : Bool) : (s.setPoison k f).clusters = s.clusters := rfl
@[simp] theorem State.setPoison_regions (k : Nat) (f : Bool) : (s.setPoison k f).regions = s.regions := rfl
@[simp] theorem State.setPoison_vfs (k : Nat) (f : Bool) : (s.setPoison k f).vfs = s.vfs := rfl
@[simp] theorem State.setPoison_queues (k : Nat) (f : Bool) : (s.setPoison k f).queues = s.queues := rfl
@[simp] theorem State.setPoison_launches (k : Nat) (f : Bool) : (s.setPoison k f).launches = s.launches := rfl
@[simp] theorem State.setPoison_engines (k : Nat) (f : Bool) : (s.setPoison k f).engines = s.engines := rfl
@[simp] theorem State.setPoison_net (k : Nat) (f : Bool) : (s.setPoison k f).net = s.net := rfl
@[simp] theorem State.setPoison_hal (k : Nat) (f : Bool) : (s.setPoison k f).hal = s.hal := rfl
@[simp] theorem State.setPoison_reps (k : Nat) (f : Bool) : (s.setPoison k f).reps = s.reps := rfl
@[simp] theorem State.setPoison_acks (k : Nat) (f : Bool) : (s.setPoison k f).acks = s.acks := rfl
@[simp] theorem State.setPoison_migr (k : Nat) (f : Bool) : (s.setPoison k f).migr = s.migr := rfl
@[simp] theorem State.setPoison_a2a (k : Nat) (f : Bool) : (s.setPoison k f).a2a = s.a2a := rfl
@[simp] theorem State.setPoison_mem (k : Nat) (f : Bool) : (s.setPoison k f).mem = s.mem := rfl
@[simp] theorem State.setPoison_full (k : Nat) (f : Bool) : (s.setPoison k f).full = s.full := rfl
@[simp] theorem State.setPoison_poison (k : Nat) (f : Bool) : (s.setPoison k f).poison = SMap.set false s.poison (k / 8) f := rfl
@[simp] theorem State.setPoison_upsets (k : Nat) (f : Bool) : (s.setPoison k f).upsets = s.upsets := rfl
@[simp] theorem State.setPoison_pkg (k : Nat) (f : Bool) : (s.setPoison k f).pkg = s.pkg := rfl

/-! `State.raise`. -/

@[simp] theorem State.raise_inputs (fn vec : Nat) : (s.raise fn vec).inputs = s.inputs := rfl
@[simp] theorem State.raise_issuing (fn vec : Nat) : (s.raise fn vec).issuing = s.issuing := rfl
@[simp] theorem State.raise_focus (fn vec : Nat) : (s.raise fn vec).focus = s.focus := rfl
@[simp] theorem State.raise_cur (fn vec : Nat) : (s.raise fn vec).cur = s.cur := rfl
@[simp] theorem State.raise_th (fn vec : Nat) : (s.raise fn vec).th = s.th := rfl
@[simp] theorem State.raise_word (fn vec : Nat) : (s.raise fn vec).word = s.word := rfl
@[simp] theorem State.raise_threads (fn vec : Nat) : (s.raise fn vec).threads = s.threads := rfl
@[simp] theorem State.raise_cores (fn vec : Nat) : (s.raise fn vec).cores = s.cores := rfl
@[simp] theorem State.raise_clusters (fn vec : Nat) : (s.raise fn vec).clusters = s.clusters := rfl
@[simp] theorem State.raise_regions (fn vec : Nat) : (s.raise fn vec).regions = s.regions := rfl
@[simp] theorem State.raise_vfs (fn vec : Nat) : (s.raise fn vec).vfs = s.vfs := rfl
@[simp] theorem State.raise_queues (fn vec : Nat) : (s.raise fn vec).queues = s.queues := rfl
@[simp] theorem State.raise_launches (fn vec : Nat) : (s.raise fn vec).launches = s.launches := rfl
@[simp] theorem State.raise_engines (fn vec : Nat) : (s.raise fn vec).engines = s.engines := rfl
@[simp] theorem State.raise_net (fn vec : Nat) : (s.raise fn vec).net = s.net := rfl
@[simp] theorem State.raise_hal (fn vec : Nat) : (s.raise fn vec).hal = s.hal := rfl
@[simp] theorem State.raise_reps (fn vec : Nat) : (s.raise fn vec).reps = s.reps := rfl
@[simp] theorem State.raise_acks (fn vec : Nat) : (s.raise fn vec).acks = s.acks := rfl
@[simp] theorem State.raise_migr (fn vec : Nat) : (s.raise fn vec).migr = s.migr := rfl
@[simp] theorem State.raise_a2a (fn vec : Nat) : (s.raise fn vec).a2a = s.a2a := rfl
@[simp] theorem State.raise_mem (fn vec : Nat) : (s.raise fn vec).mem = s.mem := rfl
@[simp] theorem State.raise_full (fn vec : Nat) : (s.raise fn vec).full = s.full := rfl
@[simp] theorem State.raise_poison (fn vec : Nat) : (s.raise fn vec).poison = s.poison := rfl
@[simp] theorem State.raise_upsets (fn vec : Nat) : (s.raise fn vec).upsets = s.upsets := rfl
@[simp] theorem State.raise_pkg (fn vec : Nat) : (s.raise fn vec).pkg = { s.pkg with msix := SMap.set false s.pkg.msix (64 * fn + vec) true } := rfl

/-! `State.endTurn`. -/

@[simp] theorem State.endTurn_inputs : (s.endTurn).inputs = s.inputs := rfl
@[simp] theorem State.endTurn_issuing : (s.endTurn).issuing = false := rfl
@[simp] theorem State.endTurn_focus : (s.endTurn).focus = s.focus := rfl
@[simp] theorem State.endTurn_cur : (s.endTurn).cur = s.cur := rfl
@[simp] theorem State.endTurn_th : (s.endTurn).th = s.th := rfl
@[simp] theorem State.endTurn_word : (s.endTurn).word = s.word := rfl
@[simp] theorem State.endTurn_threads : (s.endTurn).threads = s.threads := rfl
@[simp] theorem State.endTurn_cores : (s.endTurn).cores = s.cores := rfl
@[simp] theorem State.endTurn_clusters : (s.endTurn).clusters = s.clusters := rfl
@[simp] theorem State.endTurn_regions : (s.endTurn).regions = s.regions := rfl
@[simp] theorem State.endTurn_vfs : (s.endTurn).vfs = s.vfs := rfl
@[simp] theorem State.endTurn_queues : (s.endTurn).queues = s.queues := rfl
@[simp] theorem State.endTurn_launches : (s.endTurn).launches = s.launches := rfl
@[simp] theorem State.endTurn_engines : (s.endTurn).engines = s.engines := rfl
@[simp] theorem State.endTurn_net : (s.endTurn).net = s.net := rfl
@[simp] theorem State.endTurn_hal : (s.endTurn).hal = s.hal := rfl
@[simp] theorem State.endTurn_reps : (s.endTurn).reps = s.reps := rfl
@[simp] theorem State.endTurn_acks : (s.endTurn).acks = s.acks := rfl
@[simp] theorem State.endTurn_migr : (s.endTurn).migr = s.migr := rfl
@[simp] theorem State.endTurn_a2a : (s.endTurn).a2a = s.a2a := rfl
@[simp] theorem State.endTurn_mem : (s.endTurn).mem = s.mem := rfl
@[simp] theorem State.endTurn_full : (s.endTurn).full = s.full := rfl
@[simp] theorem State.endTurn_poison : (s.endTurn).poison = s.poison := rfl
@[simp] theorem State.endTurn_upsets : (s.endTurn).upsets = s.upsets := rfl
@[simp] theorem State.endTurn_pkg : (s.endTurn).pkg = s.pkg := rfl

/-! `State.updCore`, `State.updRegion`. -/

theorem State.updCore_eq (c : Nat) (f : Core → Core) : s.updCore c f = s.setCore c (f (s.core c)) := rfl
theorem State.updRegion_eq (c : Nat) (f : Region → Region) : s.updRegion c f = s.setRegion c (f (s.region c)) := rfl

/-! Reading after writing. -/

/-- A scalar register after a write: s0 reads 0 whatever is written (R84). -/
theorem State.rdS_wrS (n m : BitVec 5) (v : Word) : (s.wrS n v).rdS m = if m = n ∧ m ≠ 0 then v else s.rdS m := by
  unfold State.wrS State.rdS Regs.wrS Regs.rdS
  by_cases hn : n.toNat = 0
  · have : n = 0 := by bv_omega
    subst this
    by_cases hm : m = 0 <;> simp [hm]
  · by_cases hm : m.toNat = 0
    · have : m = 0 := by bv_omega
      subst this; simp
    · have h0 : m ≠ 0 := by intro h; simp [h] at hm
      simp only [hn, hm, if_false, SMap.get_set, h0, ne_eq, not_false_eq_true, and_true, BitVec.toNat_inj]

theorem Regs.rdS_zero (r : Regs) : r.rdS 0 = 0 := rfl
theorem State.rdS_zero : s.rdS 0 = 0 := rfl

theorem State.rdV_wrV (n m : BitVec 5) (v : VReg) : (s.wrV n v).rdV m = if m = n then v else s.rdV m := by
  simp only [State.wrV, State.rdV, Regs.wrV, Regs.rdV, SMap.get_set, BitVec.toNat_inj]

/-- A mask register after a write: k0 reads as all ones whatever is written (R191). -/
theorem State.rdK_wrK (n m : BitVec 3) (v : Word32) : (s.wrK n v).rdK m = if m = n ∧ m ≠ 0 then v else s.rdK m := by
  unfold State.wrK State.rdK Regs.wrK Regs.rdK
  by_cases hn : n.toNat = 0
  · have : n = 0 := by bv_omega
    subst this
    by_cases hm : m = 0 <;> simp [hm]
  · by_cases hm : m.toNat = 0
    · have : m = 0 := by bv_omega
      subst this; simp
    · have h0 : m ≠ 0 := by intro h; simp [h] at hm
      simp only [hn, hm, if_false, SMap.get_set, h0, ne_eq, not_false_eq_true, and_true, BitVec.toNat_inj]

theorem State.rdG_wrG (n m : BitVec 3) (v : BitVec 256) : (s.wrG n v).rdG m = if m = n then v else s.rdG m := by
  simp only [State.wrG, State.rdG, Regs.wrG, Regs.rdG, SMap.get_set, BitVec.toNat_inj]

theorem State.core_setCore (c d : Nat) (x : Core) : (s.setCore c x).core d = if d = c then x else s.core d := SMap.get_set _ _ _ _ _
theorem State.region_setRegion (c d : Nat) (x : Region) : (s.setRegion c x).region d = if d = c then x else s.region d := SMap.get_set _ _ _ _ _
theorem State.cluster_setCluster (c d : Nat) (x : Cluster) : (s.setCluster c x).cluster d = if d = c then x else s.cluster d :=
  SMap.get_set _ _ _ _ _
theorem State.vf_setVf (c d : Nat) (x : VF) : (s.setVf c x).vf d = if d = c then x else s.vf d := SMap.get_set _ _ _ _ _
theorem State.queue_setQueue (c d : Nat) (x : Queue) : (s.setQueue c x).queue d = if d = c then x else s.queue d := SMap.get_set _ _ _ _ _
theorem State.launch_setLaunch (c d : Nat) (x : Launch) : (s.setLaunch c x).launch d = if d = c then x else s.launch d :=
  SMap.get_set _ _ _ _ _

theorem State.getT_setT (k j : Nat) (t : Thread) : (s.setT k t).getT j = if j = k then t else s.getT j := by
  unfold State.setT State.getT
  by_cases hk : k = s.cur
  · simp only [hk, if_true]
    by_cases hj : j = s.cur <;> simp [hj]
  · simp only [hk, if_false]
    by_cases hj : j = s.cur
    · have : j ≠ k := fun h => hk (by omega)
      simp [hj, show s.cur ≠ k by omega]
    · simp only [hj, if_false, SMap.get_set]

theorem State.getT_cur : s.getT s.cur = s.th := by simp [State.getT]

@[simp] theorem State.core_wrS (n : BitVec 5) (v : Word) (c : Nat) : (s.wrS n v).core c = s.core c := rfl
@[simp] theorem State.core_retire (c : Nat) : s.retire.core c = s.core c := rfl
@[simp] theorem State.region_wrS (n : BitVec 5) (v : Word) (c : Nat) : (s.wrS n v).region c = s.region c := rfl
@[simp] theorem State.region_retire (c : Nat) : s.retire.region c = s.region c := rfl

end Sys2Proof.Machine
end

