-- ==== Sys2Proof/Laws/Effects.lean ====
section
/-! SUPPORT. What the shared operations do, in the terms of the claims: going on to the next word, and writing a register and retiring. -/

namespace Sys2Proof.Machine

/-! Going on (R70): only the PC and the repeat state may change. -/

@[simp] theorem Regs.next_s (r : Regs) : r.next.s = r.s := by unfold Regs.next; (repeat' split) <;> rfl
@[simp] theorem Regs.next_v (r : Regs) : r.next.v = r.v := by unfold Regs.next; (repeat' split) <;> rfl
@[simp] theorem Regs.next_k (r : Regs) : r.next.k = r.k := by unfold Regs.next; (repeat' split) <;> rfl
@[simp] theorem Regs.next_g (r : Regs) : r.next.g = r.g := by unfold Regs.next; (repeat' split) <;> rfl
@[simp] theorem Regs.next_fp (r : Regs) : r.next.fp = r.fp := by unfold Regs.next; (repeat' split) <;> rfl
@[simp] theorem Regs.next_rmode (r : Regs) : r.next.rmode = r.rmode := by unfold Regs.next; (repeat' split) <;> rfl
@[simp] theorem Regs.next_seed (r : Regs) : r.next.seed = r.seed := by unfold Regs.next; (repeat' split) <;> rfl

/-- Going on does not depend on the registers it keeps. -/
theorem Regs.next_congr {r q : Regs} (hp : q.pc = r.pc) (hr : q.rep = r.rep) :
    q.next = { r.next with s := q.s, v := q.v, k := q.k, g := q.g, fp := q.fp, rmode := q.rmode, seed := q.seed } := by
  obtain ⟨pc, s, v, k, g, fp, rm, sd, rep⟩ := q
  obtain ⟨pc', s', v', k', g', fp', rm', sd', rep'⟩ := r
  simp only at hp hr
  subst hp hr
  unfold Regs.next
  (repeat' split) <;> rfl

/-- Outside a repeat frame the next word follows (R51). -/
theorem Regs.next_of_no_frame {r : Regs} (h : r.rep.act = false) : r.next = { r with pc := r.pc + 4 } := by
  unfold Regs.next; simp [h]

/-! Registers after an instruction retires. -/

@[simp] theorem State.rdS_retire (s : State) (n : BitVec 5) : s.retire.rdS n = s.rdS n := by
  simp [State.rdS, Regs.rdS]
@[simp] theorem State.rdV_retire (s : State) (n : BitVec 5) : s.retire.rdV n = s.rdV n := by
  simp [State.rdV, Regs.rdV]
@[simp] theorem State.rdK_retire (s : State) (n : BitVec 3) : s.retire.rdK n = s.rdK n := by
  simp [State.rdK, Regs.rdK]
@[simp] theorem State.rdG_retire (s : State) (n : BitVec 3) : s.retire.rdG n = s.rdG n := by
  simp [State.rdG, Regs.rdG]

@[simp] theorem Regs.wrS_pc (r : Regs) (n : Nat) (v : Word) : (r.wrS n v).pc = r.pc := by unfold Regs.wrS; split <;> rfl
@[simp] theorem Regs.wrS_rep (r : Regs) (n : Nat) (v : Word) : (r.wrS n v).rep = r.rep := by unfold Regs.wrS; split <;> rfl
@[simp] theorem Regs.wrS_v (r : Regs) (n : Nat) (v : Word) : (r.wrS n v).v = r.v := by unfold Regs.wrS; split <;> rfl
@[simp] theorem Regs.wrS_k (r : Regs) (n : Nat) (v : Word) : (r.wrS n v).k = r.k := by unfold Regs.wrS; split <;> rfl
@[simp] theorem Regs.wrS_g (r : Regs) (n : Nat) (v : Word) : (r.wrS n v).g = r.g := by unfold Regs.wrS; split <;> rfl
@[simp] theorem Regs.wrS_fp (r : Regs) (n : Nat) (v : Word) : (r.wrS n v).fp = r.fp := by unfold Regs.wrS; split <;> rfl
@[simp] theorem Regs.wrS_rmode (r : Regs) (n : Nat) (v : Word) : (r.wrS n v).rmode = r.rmode := by unfold Regs.wrS; split <;> rfl
@[simp] theorem Regs.wrS_seed (r : Regs) (n : Nat) (v : Word) : (r.wrS n v).seed = r.seed := by unfold Regs.wrS; split <;> rfl

/-- Writing a scalar register and retiring. -/
theorem State.wroteS (s : State) (d : BitVec 5) (v : Word) : s.WroteS (s.wrS d v).retire d v := by
  refine ⟨?_, fun n => by rw [State.rdS_retire, State.rdS_wrS]⟩
  show (s.wrS d v).retire = _
  simp only [State.retire, State.wrS]
  rw [Regs.next_congr (r := s.th.r) (q := s.th.r.wrS d.toNat v) (Regs.wrS_pc ..) (Regs.wrS_rep ..)]
  simp only [Regs.wrS_v, Regs.wrS_k, Regs.wrS_g, Regs.wrS_fp, Regs.wrS_rmode, Regs.wrS_seed]
  congr 2
  rw [← Regs.next_v s.th.r, ← Regs.next_k s.th.r, ← Regs.next_g s.th.r, ← Regs.next_fp s.th.r, ← Regs.next_rmode s.th.r,
    ← Regs.next_seed s.th.r]

/-- An instruction whose meaning is to write one scalar register. -/
theorem givesS_of_writesS {i : Instr} {s : State} {d : BitVec 5} {v w : Word} (h : exec i s = writesS d v s) (hv : v = w) :
    GivesS i s d w := ⟨_, h, hv ▸ s.wroteS d v⟩

/-- A computation that ends by writing one scalar register. -/
theorem givesS_of_finish {i : Instr} {s : State} {d : BitVec 5} {v w : Word} {m : M Unit} (h : exec i s = finish m s)
    (hm : m.run s = (.ok (), (s.wrS d v).retire)) (hv : v = w) : GivesS i s d w :=
  ⟨_, h.trans (finish_ok hm), hv ▸ s.wroteS d v⟩

end Sys2Proof.Machine
end

