-- ==== Sys2Proof/Laws/Memory.lean ====
section
/-! SUPPORT. The laws of memory: what a byte or a full/empty bit reads as after it is written, that a write leaves every other place alone,
and that every memory operation keeps the canonical form (`State.memOk`), which the memory of reset has. -/

namespace Sys2Proof.Machine

/-! Reading after writing. -/

theorem State.byte_setByte (s : State) (k : Nat) (v : Byte) (k' : Nat) : (s.setByte k v).byte k' = if k' = k then v else s.byte k' :=
  SMap.get_set _ _ _ _ _

theorem State.isFull_setFull (s : State) (k : Nat) (f : Bool) (k' : Nat) :
    (s.setFull k f).isFull k' = if k' / 8 = k / 8 then f else s.isFull k' := SMap.get_set _ _ _ _ _

theorem State.isPoison_setPoison (s : State) (k : Nat) (f : Bool) (k' : Nat) :
    (s.setPoison k f).isPoison k' = if k' / 8 = k / 8 then f else s.isPoison k' := SMap.get_set _ _ _ _ _

/-- The bytes written at a key read as written, and every other byte as before. -/
theorem State.byte_setBytes (b : List Byte) : ∀ (s : State) (k k' : Nat),
    (s.setBytes k b).byte k' = if k ≤ k' ∧ k' < k + b.length then b.getD (k' - k) 0 else s.byte k' := by
  induction b with
  | nil => intro s k k'; rw [if_neg (by simp only [List.length_nil]; omega)]; rfl
  | cons x r ih =>
    intro s k k'
    show ((s.setByte k x).setBytes (k + 1) r).byte k' = _
    rw [ih, State.byte_setByte, List.length_cons]
    by_cases h : k' = k
    · subst h
      rw [if_neg (by omega), if_pos rfl, if_pos (by omega), Nat.sub_self]; rfl
    · by_cases h2 : k + 1 ≤ k' ∧ k' < k + 1 + r.length
      · rw [if_pos h2, if_pos (by omega)]
        obtain ⟨n, rfl⟩ : ∃ n, k' = k + 1 + n := ⟨k' - (k + 1), by omega⟩
        rw [show k + 1 + n - (k + 1) = n by omega, show k + 1 + n - k = n + 1 by omega]; rfl
      · rw [if_neg h2, if_neg h, if_neg (by omega)]

theorem State.bytesAt_setBytes (s : State) (k : Nat) (b : List Byte) : s.BytesAt (s.setBytes k b) k b := fun _ => State.byte_setBytes ..

theorem State.length_bytes (s : State) : ∀ (n k : Nat), (s.bytes k n).length = n
  | 0, _ => rfl
  | n + 1, k => by simp [State.bytes, State.length_bytes s n (k + 1)]

/-- Reading bytes depends on those bytes alone. -/
theorem State.bytes_congr {s t : State} : ∀ {n k : Nat}, (∀ j, k ≤ j → j < k + n → t.byte j = s.byte j) → t.bytes k n = s.bytes k n
  | 0, _, _ => rfl
  | n + 1, k, h => by
    show t.byte k :: t.bytes (k + 1) n = _
    rw [h k (by omega) (by omega), State.bytes_congr (fun j h1 h2 => h j (by omega) (by omega))]; rfl

/-- Bytes written are read back. -/
theorem State.bytes_setBytes (s : State) (b : List Byte) (k : Nat) : (s.setBytes k b).bytes k b.length = b := by
  have main : ∀ (b : List Byte) (t : State) (k : Nat), (∀ j < b.length, t.byte (k + j) = b.getD j 0) → t.bytes k b.length = b := by
    intro b
    induction b with
    | nil => intros; rfl
    | cons x r ih =>
      intro t k h
      show t.byte k :: t.bytes (k + 1) r.length = _
      rw [ih t (k + 1) (fun j hj => by have := h (j + 1) (by simp only [List.length_cons]; omega); rw [Nat.add_assoc, Nat.add_comm 1 j, this]; rfl)]
      have := h 0 (by simp)
      rw [Nat.add_zero] at this
      rw [this]; rfl
  refine main b _ k (fun j hj => ?_)
  rw [State.byte_setBytes, if_pos (by omega), Nat.add_sub_cancel_left]

/-! Only memory changes. -/

theorem State.setBytes_eq (b : List Byte) : ∀ (s : State) (k : Nat), ∃ m, s.setBytes k b = { s with mem := m } := by
  induction b with
  | nil => exact fun s _ => ⟨s.mem, rfl⟩
  | cons x r ih => intro s k; obtain ⟨m, h⟩ := ih (s.setByte k x) (k + 1); exact ⟨m, h⟩

theorem State.setCells_eq (l : List Host.Cell) : ∀ (s : State), ∃ m, s.setCells l = { s with mem := m } := by
  induction l with
  | nil => exact fun s => ⟨s.mem, rfl⟩
  | cons x r ih => intro s; obtain ⟨m, h⟩ := ih (s.setByte x.1 x.2); exact ⟨m, h⟩

/-! The canonical form. -/

theorem State.memOk_setByte {s : State} (k : Nat) (v : Byte) (h : s.memOk) : (s.setByte k v).memOk := ⟨SMap.wf_set k v h.1, h.2⟩

theorem State.memOk_setFull {s : State} (k : Nat) (f : Bool) (h : s.memOk) : (s.setFull k f).memOk := ⟨h.1, SMap.wf_set _ f h.2.1, h.2.2⟩

theorem State.memOk_setPoison {s : State} (k : Nat) (f : Bool) (h : s.memOk) : (s.setPoison k f).memOk :=
  ⟨h.1, h.2.1, SMap.wf_set _ f h.2.2.1, h.2.2.2⟩

theorem State.memOk_setBytes (b : List Byte) : ∀ {s : State} (k : Nat), s.memOk → (s.setBytes k b).memOk := by
  induction b with
  | nil => exact fun _ h => h
  | cons x r ih => exact fun k h => ih (k + 1) (State.memOk_setByte k x h)

theorem State.memOk_writeLE {s : State} (k n x : Nat) (h : s.memOk) : (s.writeLE k n x).memOk := State.memOk_setBytes _ _ h

theorem State.memOk_setCells (l : List Host.Cell) : ∀ {s : State}, s.memOk → (s.setCells l).memOk := by
  induction l with
  | nil => exact fun h => h
  | cons x r ih => exact fun h => ih (State.memOk_setByte x.1 x.2 h)

/-- An error dropped, or one that a read meets, keeps the memories' form. -/
theorem State.memOk_clearErrors {s : State} (l : List Host.Cell) (h : s.memOk) : (s.clearErrors l).memOk := by
  unfold State.clearErrors
  split
  · exact h
  · exact ⟨h.1, h.2.1, h.2.2.1, SMap.wf_filter _ h.2.2.2⟩

theorem State.memOk_countErrorAt {s : State} (task : Word) (w : Nat) (ue : Bool) (h : s.memOk) : (s.countErrorAt task w ue).memOk := by
  unfold State.countErrorAt
  dsimp only
  split <;> split <;> exact h

theorem State.memOk_readWord {s : State} (task : Word) (w : Nat) (h : s.memOk) : (State.readWord task s w).memOk := by
  unfold State.readWord
  split
  · exact h
  · have h1 : State.memOk { s with upsets := SMap.set 0 s.upsets (w / 8) 0 } := ⟨h.1, h.2.1, h.2.2.1, SMap.wf_set _ 0 h.2.2.2⟩
    dsimp only
    split
    · exact State.memOk_setPoison w true (State.memOk_countErrorAt task w _ h1)
    · exact State.memOk_countErrorAt task w _ h1

theorem State.memOk_readErrors {s : State} (task : Word) (l : List (Nat × Nat)) (h : s.memOk) : (s.readErrors task l).memOk := by
  unfold State.readErrors
  split
  · exact h
  · generalize dedup _ = ws
    rename_i hne
    clear hne
    induction ws generalizing s with
    | nil => exact h
    | cons w r ih => exact ih (State.memOk_readWord task w h)

/-- With no error in any word a read changes nothing. -/
theorem State.readErrors_none {s : State} (task : Word) (l : List (Nat × Nat)) (h : s.upsets = []) : s.readErrors task l = s := by
  unfold State.readErrors; rw [if_pos h]

theorem State.clearErrors_none {s : State} (l : List Host.Cell) (h : s.upsets = []) : s.clearErrors l = s := by
  unfold State.clearErrors; rw [if_pos h]

theorem State.memOk_writeCells {s : State} (l : List Host.Cell) (h : s.memOk) : (s.writeCells l).1.memOk := by
  have h := State.memOk_clearErrors l h
  unfold State.writeCells
  dsimp only
  generalize s.clearErrors l = u at h ⊢
  split
  · exact State.memOk_setCells l h
  · rename_i hne
    clear hne
    refine State.memOk_setCells _ ?_
    generalize List.filter _ _ = ws
    induction ws generalizing u with
    | nil => exact h
    | cons w r ih => exact ih _ (State.memOk_setFull w false (State.memOk_setPoison w false h))

/-- Memory from which places are dropped, as a reset or a bank's retirement does. -/
theorem State.memOk_filter {s : State} (f : Nat × Byte → Bool) (g p : Nat × Bool → Bool) (u : Nat × Nat → Bool) (h : s.memOk) :
    State.memOk { s with mem := s.mem.filter f, full := s.full.filter g, poison := s.poison.filter p, upsets := s.upsets.filter u } :=
  ⟨SMap.wf_filter f h.1, SMap.wf_filter g h.2.1, SMap.wf_filter p h.2.2.1, SMap.wf_filter u h.2.2.2⟩

/-- What does not touch the memories keeps their form. -/
theorem State.memOk_congr {s t : State} (hm : t.mem = s.mem) (hf : t.full = s.full) (hp : t.poison = s.poison)
    (hu : t.upsets = s.upsets) (h : s.memOk) : t.memOk := by
  unfold State.memOk; rw [hm, hf, hp, hu]; exact h

theorem State.memOk_reset : State.reset.memOk := ⟨rfl, rfl, rfl, rfl⟩

end Sys2Proof.Machine
end

