-- ==== Sys2Proof/Laws/PerInstr.lean ====
section
/-! SUPPORT. One law per constructor of `Instr`: a term has a word exactly when it is an instruction of the opcode table's words, and none when it
is an event. -/

namespace Sys2Proof.Laws

/-- A term has a word exactly when it stands for an instruction word. -/
def Encodable.Statement (i : Instr) : Prop := (encode i).isSome = true ↔ i.unitsOk false = none

theorem Encodable.add (d : BitVec 5) (a : BitVec 5) (b : BitVec 5) : Encodable.Statement (.add d a b) := ⟨fun _ => rfl, fun _ => rfl⟩
theorem Encodable.sub (d : BitVec 5) (a : BitVec 5) (b : BitVec 5) : Encodable.Statement (.sub d a b) := ⟨fun _ => rfl, fun _ => rfl⟩
theorem Encodable.mul (d : BitVec 5) (a : BitVec 5) (b : BitVec 5) : Encodable.Statement (.mul d a b) := ⟨fun _ => rfl, fun _ => rfl⟩
theorem Encodable.mulh (d : BitVec 5) (a : BitVec 5) (b : BitVec 5) : Encodable.Statement (.mulh d a b) := ⟨fun _ => rfl, fun _ => rfl⟩
theorem Encodable.mulhu (d : BitVec 5) (a : BitVec 5) (b : BitVec 5) : Encodable.Statement (.mulhu d a b) := ⟨fun _ => rfl, fun _ => rfl⟩
theorem Encodable.div (d : BitVec 5) (a : BitVec 5) (b : BitVec 5) : Encodable.Statement (.div d a b) := ⟨fun _ => rfl, fun _ => rfl⟩
theorem Encodable.divu (d : BitVec 5) (a : BitVec 5) (b : BitVec 5) : Encodable.Statement (.divu d a b) := ⟨fun _ => rfl, fun _ => rfl⟩
theorem Encodable.rem (d : BitVec 5) (a : BitVec 5) (b : BitVec 5) : Encodable.Statement (.rem d a b) := ⟨fun _ => rfl, fun _ => rfl⟩
theorem Encodable.remu (d : BitVec 5) (a : BitVec 5) (b : BitVec 5) : Encodable.Statement (.remu d a b) := ⟨fun _ => rfl, fun _ => rfl⟩
theorem Encodable.and (d : BitVec 5) (a : BitVec 5) (b : BitVec 5) : Encodable.Statement (.and d a b) := ⟨fun _ => rfl, fun _ => rfl⟩
theorem Encodable.or (d : BitVec 5) (a : BitVec 5) (b : BitVec 5) : Encodable.Statement (.or d a b) := ⟨fun _ => rfl, fun _ => rfl⟩
theorem Encodable.xor (d : BitVec 5) (a : BitVec 5) (b : BitVec 5) : Encodable.Statement (.xor d a b) := ⟨fun _ => rfl, fun _ => rfl⟩
theorem Encodable.shl (d : BitVec 5) (a : BitVec 5) (b : BitVec 5) : Encodable.Statement (.shl d a b) := ⟨fun _ => rfl, fun _ => rfl⟩
theorem Encodable.shr (d : BitVec 5) (a : BitVec 5) (b : BitVec 5) : Encodable.Statement (.shr d a b) := ⟨fun _ => rfl, fun _ => rfl⟩
theorem Encodable.sar (d : BitVec 5) (a : BitVec 5) (b : BitVec 5) : Encodable.Statement (.sar d a b) := ⟨fun _ => rfl, fun _ => rfl⟩
theorem Encodable.rol (d : BitVec 5) (a : BitVec 5) (b : BitVec 5) : Encodable.Statement (.rol d a b) := ⟨fun _ => rfl, fun _ => rfl⟩
theorem Encodable.min (d : BitVec 5) (a : BitVec 5) (b : BitVec 5) : Encodable.Statement (.min d a b) := ⟨fun _ => rfl, fun _ => rfl⟩
theorem Encodable.max (d : BitVec 5) (a : BitVec 5) (b : BitVec 5) : Encodable.Statement (.max d a b) := ⟨fun _ => rfl, fun _ => rfl⟩
theorem Encodable.minu (d : BitVec 5) (a : BitVec 5) (b : BitVec 5) : Encodable.Statement (.minu d a b) := ⟨fun _ => rfl, fun _ => rfl⟩
theorem Encodable.maxu (d : BitVec 5) (a : BitVec 5) (b : BitVec 5) : Encodable.Statement (.maxu d a b) := ⟨fun _ => rfl, fun _ => rfl⟩
theorem Encodable.clz (d : BitVec 5) (a : BitVec 5) : Encodable.Statement (.clz d a) := ⟨fun _ => rfl, fun _ => rfl⟩
theorem Encodable.ctz (d : BitVec 5) (a : BitVec 5) : Encodable.Statement (.ctz d a) := ⟨fun _ => rfl, fun _ => rfl⟩
theorem Encodable.popc (d : BitVec 5) (a : BitVec 5) : Encodable.Statement (.popc d a) := ⟨fun _ => rfl, fun _ => rfl⟩
theorem Encodable.bswap (d : BitVec 5) (a : BitVec 5) : Encodable.Statement (.bswap d a) := ⟨fun _ => rfl, fun _ => rfl⟩
theorem Encodable.addi (d : BitVec 5) (a : BitVec 5) (i : BitVec 16) : Encodable.Statement (.addi d a i) := ⟨fun _ => rfl, fun _ => rfl⟩
theorem Encodable.andi (d : BitVec 5) (a : BitVec 5) (i : BitVec 16) : Encodable.Statement (.andi d a i) := ⟨fun _ => rfl, fun _ => rfl⟩
theorem Encodable.ori (d : BitVec 5) (a : BitVec 5) (i : BitVec 16) : Encodable.Statement (.ori d a i) := ⟨fun _ => rfl, fun _ => rfl⟩
theorem Encodable.xori (d : BitVec 5) (a : BitVec 5) (i : BitVec 16) : Encodable.Statement (.xori d a i) := ⟨fun _ => rfl, fun _ => rfl⟩
theorem Encodable.shli (d : BitVec 5) (a : BitVec 5) (n : BitVec 6) : Encodable.Statement (.shli d a n) := ⟨fun _ => rfl, fun _ => rfl⟩
theorem Encodable.shri (d : BitVec 5) (a : BitVec 5) (n : BitVec 6) : Encodable.Statement (.shri d a n) := ⟨fun _ => rfl, fun _ => rfl⟩
theorem Encodable.sari (d : BitVec 5) (a : BitVec 5) (n : BitVec 6) : Encodable.Statement (.sari d a n) := ⟨fun _ => rfl, fun _ => rfl⟩
theorem Encodable.limm (d : BitVec 5) (i : BitVec 21) : Encodable.Statement (.limm d i) := ⟨fun _ => rfl, fun _ => rfl⟩
theorem Encodable.limmh (d : BitVec 5) (q : BitVec 2) (i : BitVec 16) : Encodable.Statement (.limmh d q i) := ⟨fun _ => rfl, fun _ => rfl⟩
theorem Encodable.bext (d : BitVec 5) (a : BitVec 5) (w : BitVec 7) (o : BitVec 8) : Encodable.Statement (.bext d a w o) := ⟨fun _ => rfl, fun _ => rfl⟩
theorem Encodable.bins (d : BitVec 5) (a : BitVec 5) (w : BitVec 7) (o : BitVec 8) : Encodable.Statement (.bins d a w o) := ⟨fun _ => rfl, fun _ => rfl⟩
theorem Encodable.cmpeq (d : BitVec 5) (a : BitVec 5) (b : BitVec 5) : Encodable.Statement (.cmpeq d a b) := ⟨fun _ => rfl, fun _ => rfl⟩
theorem Encodable.cmplt (d : BitVec 5) (a : BitVec 5) (b : BitVec 5) : Encodable.Statement (.cmplt d a b) := ⟨fun _ => rfl, fun _ => rfl⟩
theorem Encodable.cmpltu (d : BitVec 5) (a : BitVec 5) (b : BitVec 5) : Encodable.Statement (.cmpltu d a b) := ⟨fun _ => rfl, fun _ => rfl⟩
theorem Encodable.sel (d : BitVec 5) (a : BitVec 5) (b : BitVec 5) (c : BitVec 5) : Encodable.Statement (.sel d a b c) := ⟨fun _ => rfl, fun _ => rfl⟩
theorem Encodable.b (o : BitVec 26) : Encodable.Statement (.b o) := ⟨fun _ => rfl, fun _ => rfl⟩
theorem Encodable.bl (o : BitVec 26) : Encodable.Statement (.bl o) := ⟨fun _ => rfl, fun _ => rfl⟩
theorem Encodable.beq (a : BitVec 5) (b : BitVec 5) (o : BitVec 13) : Encodable.Statement (.beq a b o) := ⟨fun _ => rfl, fun _ => rfl⟩
theorem Encodable.bne (a : BitVec 5) (b : BitVec 5) (o : BitVec 13) : Encodable.Statement (.bne a b o) := ⟨fun _ => rfl, fun _ => rfl⟩
theorem Encodable.blt (a : BitVec 5) (b : BitVec 5) (o : BitVec 13) : Encodable.Statement (.blt a b o) := ⟨fun _ => rfl, fun _ => rfl⟩
theorem Encodable.bge (a : BitVec 5) (b : BitVec 5) (o : BitVec 13) : Encodable.Statement (.bge a b o) := ⟨fun _ => rfl, fun _ => rfl⟩
theorem Encodable.bltu (a : BitVec 5) (b : BitVec 5) (o : BitVec 13) : Encodable.Statement (.bltu a b o) := ⟨fun _ => rfl, fun _ => rfl⟩
theorem Encodable.bgeu (a : BitVec 5) (b : BitVec 5) (o : BitVec 13) : Encodable.Statement (.bgeu a b o) := ⟨fun _ => rfl, fun _ => rfl⟩
theorem Encodable.br (a : BitVec 5) : Encodable.Statement (.br a) := ⟨fun _ => rfl, fun _ => rfl⟩
theorem Encodable.blr (a : BitVec 5) : Encodable.Statement (.blr a) := ⟨fun _ => rfl, fun _ => rfl⟩
theorem Encodable.nop : Encodable.Statement .nop := ⟨fun _ => rfl, fun _ => rfl⟩
theorem Encodable.yield (n : BitVec 8) : Encodable.Statement (.yield n) := ⟨fun _ => rfl, fun _ => rfl⟩
theorem Encodable.texit : Encodable.Statement .texit := ⟨fun _ => rfl, fun _ => rfl⟩
theorem Encodable.mfs (d : BitVec 5) (r : BitVec 8) : Encodable.Statement (.mfs d r) := ⟨fun _ => rfl, fun _ => rfl⟩
theorem Encodable.mts (a : BitVec 5) (r : BitVec 8) : Encodable.Statement (.mts a r) := ⟨fun _ => rfl, fun _ => rfl⟩
theorem Encodable.repf (n : BitVec 5) (d : BitVec 5) (a : BitVec 5) (b : BitVec 5) (l : BitVec 4) : Encodable.Statement (.repf n d a b l) := ⟨fun _ => rfl, fun _ => rfl⟩
theorem Encodable.trap (a : BitVec 5) (n : BitVec 8) : Encodable.Statement (.trap a n) := ⟨fun _ => rfl, fun _ => rfl⟩
theorem Encodable.brk (n : BitVec 8) : Encodable.Statement (.brk n) := ⟨fun _ => rfl, fun _ => rfl⟩
theorem Encodable.ldB (d : BitVec 5) (a : BitVec 5) (o : BitVec 12) : Encodable.Statement (.ldB d a o) := ⟨fun _ => rfl, fun _ => rfl⟩
theorem Encodable.ldH (d : BitVec 5) (a : BitVec 5) (o : BitVec 12) : Encodable.Statement (.ldH d a o) := ⟨fun _ => rfl, fun _ => rfl⟩
theorem Encodable.ldW (d : BitVec 5) (a : BitVec 5) (o : BitVec 12) : Encodable.Statement (.ldW d a o) := ⟨fun _ => rfl, fun _ => rfl⟩
theorem Encodable.ldD (d : BitVec 5) (a : BitVec 5) (o : BitVec 12) : Encodable.Statement (.ldD d a o) := ⟨fun _ => rfl, fun _ => rfl⟩
theorem Encodable.ldBs (d : BitVec 5) (a : BitVec 5) (o : BitVec 12) : Encodable.Statement (.ldBs d a o) := ⟨fun _ => rfl, fun _ => rfl⟩
theorem Encodable.ldHs (d : BitVec 5) (a : BitVec 5) (o : BitVec 12) : Encodable.Statement (.ldHs d a o) := ⟨fun _ => rfl, fun _ => rfl⟩
theorem Encodable.ldWs (d : BitVec 5) (a : BitVec 5) (o : BitVec 12) : Encodable.Statement (.ldWs d a o) := ⟨fun _ => rfl, fun _ => rfl⟩
theorem Encodable.ldCvt (d : BitVec 5) (a : BitVec 5) (o : BitVec 12) : Encodable.Statement (.ldCvt d a o) := ⟨fun _ => rfl, fun _ => rfl⟩
theorem Encodable.stB (d : BitVec 5) (a : BitVec 5) (o : BitVec 12) : Encodable.Statement (.stB d a o) := ⟨fun _ => rfl, fun _ => rfl⟩
theorem Encodable.stH (d : BitVec 5) (a : BitVec 5) (o : BitVec 12) : Encodable.Statement (.stH d a o) := ⟨fun _ => rfl, fun _ => rfl⟩
theorem Encodable.stW (d : BitVec 5) (a : BitVec 5) (o : BitVec 12) : Encodable.Statement (.stW d a o) := ⟨fun _ => rfl, fun _ => rfl⟩
theorem Encodable.stD (d : BitVec 5) (a : BitVec 5) (o : BitVec 12) : Encodable.Statement (.stD d a o) := ⟨fun _ => rfl, fun _ => rfl⟩
theorem Encodable.stCvt (d : BitVec 5) (a : BitVec 5) (o : BitVec 12) : Encodable.Statement (.stCvt d a o) := ⟨fun _ => rfl, fun _ => rfl⟩
theorem Encodable.stCvtSat (d : BitVec 5) (a : BitVec 5) (o : BitVec 12) : Encodable.Statement (.stCvtSat d a o) := ⟨fun _ => rfl, fun _ => rfl⟩
theorem Encodable.ldf (d : BitVec 5) (a : BitVec 5) (o : BitVec 12) : Encodable.Statement (.ldf d a o) := ⟨fun _ => rfl, fun _ => rfl⟩
theorem Encodable.ldfe (d : BitVec 5) (a : BitVec 5) (o : BitVec 12) : Encodable.Statement (.ldfe d a o) := ⟨fun _ => rfl, fun _ => rfl⟩
theorem Encodable.stf (d : BitVec 5) (a : BitVec 5) (o : BitVec 12) : Encodable.Statement (.stf d a o) := ⟨fun _ => rfl, fun _ => rfl⟩
theorem Encodable.stff (d : BitVec 5) (a : BitVec 5) (o : BitVec 12) : Encodable.Statement (.stff d a o) := ⟨fun _ => rfl, fun _ => rfl⟩
theorem Encodable.sete (a : BitVec 5) (o : BitVec 12) : Encodable.Statement (.sete a o) := ⟨fun _ => rfl, fun _ => rfl⟩
theorem Encodable.setf (a : BitVec 5) (o : BitVec 12) : Encodable.Statement (.setf a o) := ⟨fun _ => rfl, fun _ => rfl⟩
theorem Encodable.amoAdd (d : BitVec 5) (a : BitVec 5) (b : BitVec 5) (s : BitVec 1) : Encodable.Statement (.amoAdd d a b s) := ⟨fun _ => rfl, fun _ => rfl⟩
theorem Encodable.amoMin (d : BitVec 5) (a : BitVec 5) (b : BitVec 5) (s : BitVec 1) : Encodable.Statement (.amoMin d a b s) := ⟨fun _ => rfl, fun _ => rfl⟩
theorem Encodable.amoMax (d : BitVec 5) (a : BitVec 5) (b : BitVec 5) (s : BitVec 1) : Encodable.Statement (.amoMax d a b s) := ⟨fun _ => rfl, fun _ => rfl⟩
theorem Encodable.amoMinu (d : BitVec 5) (a : BitVec 5) (b : BitVec 5) (s : BitVec 1) : Encodable.Statement (.amoMinu d a b s) := ⟨fun _ => rfl, fun _ => rfl⟩
theorem Encodable.amoMaxu (d : BitVec 5) (a : BitVec 5) (b : BitVec 5) (s : BitVec 1) : Encodable.Statement (.amoMaxu d a b s) := ⟨fun _ => rfl, fun _ => rfl⟩
theorem Encodable.amoSwap (d : BitVec 5) (a : BitVec 5) (b : BitVec 5) (s : BitVec 1) : Encodable.Statement (.amoSwap d a b s) := ⟨fun _ => rfl, fun _ => rfl⟩
theorem Encodable.amoCas (d : BitVec 5) (a : BitVec 5) (b : BitVec 5) (s : BitVec 1) : Encodable.Statement (.amoCas d a b s) := ⟨fun _ => rfl, fun _ => rfl⟩
theorem Encodable.amoAnd (d : BitVec 5) (a : BitVec 5) (b : BitVec 5) (s : BitVec 1) : Encodable.Statement (.amoAnd d a b s) := ⟨fun _ => rfl, fun _ => rfl⟩
theorem Encodable.amoOr (d : BitVec 5) (a : BitVec 5) (b : BitVec 5) (s : BitVec 1) : Encodable.Statement (.amoOr d a b s) := ⟨fun _ => rfl, fun _ => rfl⟩
theorem Encodable.amoXor (d : BitVec 5) (a : BitVec 5) (b : BitVec 5) (s : BitVec 1) : Encodable.Statement (.amoXor d a b s) := ⟨fun _ => rfl, fun _ => rfl⟩
theorem Encodable.amoFadd (d : BitVec 5) (a : BitVec 5) (b : BitVec 5) : Encodable.Statement (.amoFadd d a b) := ⟨fun _ => rfl, fun _ => rfl⟩
theorem Encodable.syncarm (d : BitVec 5) (a : BitVec 5) (o : BitVec 12) : Encodable.Statement (.syncarm d a o) := ⟨fun _ => rfl, fun _ => rfl⟩
theorem Encodable.syncadd (d : BitVec 5) (a : BitVec 5) (o : BitVec 12) : Encodable.Statement (.syncadd d a o) := ⟨fun _ => rfl, fun _ => rfl⟩
theorem Encodable.waitgen (d : BitVec 5) (a : BitVec 5) (o : BitVec 12) : Encodable.Statement (.waitgen d a o) := ⟨fun _ => rfl, fun _ => rfl⟩
theorem Encodable.rlx : Encodable.Statement .rlx := ⟨fun _ => rfl, fun _ => rfl⟩
theorem Encodable.padd (d : BitVec 5) (a : BitVec 5) (b : BitVec 5) : Encodable.Statement (.padd d a b) := ⟨fun _ => rfl, fun _ => rfl⟩
theorem Encodable.paddImm (d : BitVec 5) (a : BitVec 5) (i : BitVec 8) : Encodable.Statement (.paddImm d a i) := ⟨fun _ => rfl, fun _ => rfl⟩
theorem Encodable.pset (d : BitVec 5) (a : BitVec 5) (n : BitVec 3) : Encodable.Statement (.pset d a n) := ⟨fun _ => rfl, fun _ => rfl⟩
theorem Encodable.pfmt (d : BitVec 5) (a : BitVec 5) (l : BitVec 3) (f : BitVec 6) : Encodable.Statement (.pfmt d a l f) := ⟨fun _ => rfl, fun _ => rfl⟩
theorem Encodable.segrd (d : BitVec 5) (n : BitVec 3) (w : BitVec 2) : Encodable.Statement (.segrd d n w) := ⟨fun _ => rfl, fun _ => rfl⟩
theorem Encodable.probe (d : BitVec 5) (a : BitVec 5) (s : BitVec 4) (r : BitVec 6) : Encodable.Statement (.probe d a s r) := ⟨fun _ => rfl, fun _ => rfl⟩
theorem Encodable.segnar (n : BitVec 3) (a : BitVec 5) (r : BitVec 6) (b : BitVec 5) : Encodable.Statement (.segnar n a r b) := ⟨fun _ => rfl, fun _ => rfl⟩
theorem Encodable.bld (d : BitVec 5) (a : BitVec 5) (q : BitVec 2) (o : BitVec 10) : Encodable.Statement (.bld d a q o) := ⟨fun _ => rfl, fun _ => rfl⟩
theorem Encodable.bst (d : BitVec 5) (a : BitVec 5) (q : BitVec 2) (o : BitVec 10) : Encodable.Statement (.bst d a q o) := ⟨fun _ => rfl, fun _ => rfl⟩
theorem Encodable.wphase (d : BitVec 5) (a : BitVec 5) (o : BitVec 12) : Encodable.Statement (.wphase d a o) := ⟨fun _ => rfl, fun _ => rfl⟩
theorem Encodable.wwait (a : BitVec 5) (i : BitVec 12) : Encodable.Statement (.wwait a i) := ⟨fun _ => rfl, fun _ => rfl⟩
theorem Encodable.bmaprd (d : BitVec 5) (c : BitVec 2) (i : BitVec 6) : Encodable.Statement (.bmaprd d c i) := ⟨fun _ => rfl, fun _ => rfl⟩
theorem Encodable.vadd (t : BitVec 2) (r : BitVec 3) (d : BitVec 5) (a : BitVec 5) (x : BitVec 5) (k : BitVec 3) (s : BitVec 1) : Encodable.Statement (.vadd t r d a x k s) := ⟨fun _ => rfl, fun _ => rfl⟩
theorem Encodable.vsub (t : BitVec 2) (r : BitVec 3) (d : BitVec 5) (a : BitVec 5) (x : BitVec 5) (k : BitVec 3) (s : BitVec 1) : Encodable.Statement (.vsub t r d a x k s) := ⟨fun _ => rfl, fun _ => rfl⟩
theorem Encodable.vmul (t : BitVec 2) (r : BitVec 3) (d : BitVec 5) (a : BitVec 5) (x : BitVec 5) (k : BitVec 3) (s : BitVec 1) : Encodable.Statement (.vmul t r d a x k s) := ⟨fun _ => rfl, fun _ => rfl⟩
theorem Encodable.vfma (t : BitVec 2) (r : BitVec 3) (d : BitVec 5) (a : BitVec 5) (x : BitVec 5) (k : BitVec 3) (s : BitVec 1) : Encodable.Statement (.vfma t r d a x k s) := ⟨fun _ => rfl, fun _ => rfl⟩
theorem Encodable.vmin (t : BitVec 2) (d : BitVec 5) (a : BitVec 5) (x : BitVec 5) (k : BitVec 3) (s : BitVec 1) : Encodable.Statement (.vmin t d a x k s) := ⟨fun _ => rfl, fun _ => rfl⟩
theorem Encodable.vmax (t : BitVec 2) (d : BitVec 5) (a : BitVec 5) (x : BitVec 5) (k : BitVec 3) (s : BitVec 1) : Encodable.Statement (.vmax t d a x k s) := ⟨fun _ => rfl, fun _ => rfl⟩
theorem Encodable.vabs (t : BitVec 2) (d : BitVec 5) (a : BitVec 5) (k : BitVec 3) : Encodable.Statement (.vabs t d a k) := ⟨fun _ => rfl, fun _ => rfl⟩
theorem Encodable.vneg (t : BitVec 2) (d : BitVec 5) (a : BitVec 5) (k : BitVec 3) : Encodable.Statement (.vneg t d a k) := ⟨fun _ => rfl, fun _ => rfl⟩
theorem Encodable.vand (d : BitVec 5) (a : BitVec 5) (x : BitVec 5) (k : BitVec 3) (s : BitVec 1) : Encodable.Statement (.vand d a x k s) := ⟨fun _ => rfl, fun _ => rfl⟩
theorem Encodable.vor (d : BitVec 5) (a : BitVec 5) (x : BitVec 5) (k : BitVec 3) (s : BitVec 1) : Encodable.Statement (.vor d a x k s) := ⟨fun _ => rfl, fun _ => rfl⟩
theorem Encodable.vxor (d : BitVec 5) (a : BitVec 5) (x : BitVec 5) (k : BitVec 3) (s : BitVec 1) : Encodable.Statement (.vxor d a x k s) := ⟨fun _ => rfl, fun _ => rfl⟩
theorem Encodable.vshl (d : BitVec 5) (a : BitVec 5) (x : BitVec 5) (k : BitVec 3) (s : BitVec 1) : Encodable.Statement (.vshl d a x k s) := ⟨fun _ => rfl, fun _ => rfl⟩
theorem Encodable.vshr (t : BitVec 2) (d : BitVec 5) (a : BitVec 5) (x : BitVec 5) (k : BitVec 3) (s : BitVec 1) : Encodable.Statement (.vshr t d a x k s) := ⟨fun _ => rfl, fun _ => rfl⟩
theorem Encodable.vcmpEq (t : BitVec 2) (d : BitVec 3) (a : BitVec 5) (x : BitVec 5) (k : BitVec 3) (s : BitVec 1) : Encodable.Statement (.vcmpEq t d a x k s) := ⟨fun _ => rfl, fun _ => rfl⟩
theorem Encodable.vcmpLt (t : BitVec 2) (d : BitVec 3) (a : BitVec 5) (x : BitVec 5) (k : BitVec 3) (s : BitVec 1) : Encodable.Statement (.vcmpLt t d a x k s) := ⟨fun _ => rfl, fun _ => rfl⟩
theorem Encodable.vcmpLe (t : BitVec 2) (d : BitVec 3) (a : BitVec 5) (x : BitVec 5) (k : BitVec 3) (s : BitVec 1) : Encodable.Statement (.vcmpLe t d a x k s) := ⟨fun _ => rfl, fun _ => rfl⟩
theorem Encodable.vcmpUnord (t : BitVec 2) (d : BitVec 3) (a : BitVec 5) (x : BitVec 5) (k : BitVec 3) (s : BitVec 1) : Encodable.Statement (.vcmpUnord t d a x k s) := ⟨fun _ => rfl, fun _ => rfl⟩
theorem Encodable.vsel (d : BitVec 5) (a : BitVec 5) (x : BitVec 5) (k : BitVec 3) (s : BitVec 1) : Encodable.Statement (.vsel d a x k s) := ⟨fun _ => rfl, fun _ => rfl⟩
theorem Encodable.vperm (d : BitVec 5) (a : BitVec 5) (x : BitVec 5) (s : BitVec 1) : Encodable.Statement (.vperm d a x s) := ⟨fun _ => rfl, fun _ => rfl⟩
theorem Encodable.vbcast (t : BitVec 2) (d : BitVec 5) (x : BitVec 5) (k : BitVec 3) : Encodable.Statement (.vbcast t d x k) := ⟨fun _ => rfl, fun _ => rfl⟩
theorem Encodable.vins (d : BitVec 5) (n : BitVec 5) (x : BitVec 5) : Encodable.Statement (.vins d n x) := ⟨fun _ => rfl, fun _ => rfl⟩
theorem Encodable.vext (d : BitVec 5) (a : BitVec 5) (n : BitVec 5) : Encodable.Statement (.vext d a n) := ⟨fun _ => rfl, fun _ => rfl⟩
theorem Encodable.vred (t : BitVec 2) (d : BitVec 5) (a : BitVec 5) (o : BitVec 2) (k : BitVec 3) : Encodable.Statement (.vred t d a o k) := ⟨fun _ => rfl, fun _ => rfl⟩
theorem Encodable.vdot (t : BitVec 2) (d : BitVec 5) (a : BitVec 5) (b : BitVec 5) (k : BitVec 3) : Encodable.Statement (.vdot t d a b k) := ⟨fun _ => rfl, fun _ => rfl⟩
theorem Encodable.vdotb (d : BitVec 5) (a : BitVec 5) (x : BitVec 5) (k : BitVec 3) : Encodable.Statement (.vdotb d a x k) := ⟨fun _ => rfl, fun _ => rfl⟩
theorem Encodable.vscan (t : BitVec 2) (d : BitVec 5) (a : BitVec 5) (r : BitVec 3) (o : BitVec 2) (k : BitVec 3) : Encodable.Statement (.vscan t d a r o k) := ⟨fun _ => rfl, fun _ => rfl⟩
theorem Encodable.vtopk (t : BitVec 2) (d : BitVec 5) (a : BitVec 5) (c : BitVec 2) (k : BitVec 3) : Encodable.Statement (.vtopk t d a c k) := ⟨fun _ => rfl, fun _ => rfl⟩
theorem Encodable.vld (d : BitVec 5) (a : BitVec 5) (x : BitVec 5) (k : BitVec 3) : Encodable.Statement (.vld d a x k) := ⟨fun _ => rfl, fun _ => rfl⟩
theorem Encodable.vst (d : BitVec 5) (a : BitVec 5) (x : BitVec 5) (k : BitVec 3) : Encodable.Statement (.vst d a x k) := ⟨fun _ => rfl, fun _ => rfl⟩
theorem Encodable.vlds (d : BitVec 5) (a : BitVec 5) (x : BitVec 5) (k : BitVec 3) : Encodable.Statement (.vlds d a x k) := ⟨fun _ => rfl, fun _ => rfl⟩
theorem Encodable.vsts (d : BitVec 5) (a : BitVec 5) (x : BitVec 5) (k : BitVec 3) : Encodable.Statement (.vsts d a x k) := ⟨fun _ => rfl, fun _ => rfl⟩
theorem Encodable.vgath (d : BitVec 5) (a : BitVec 5) (x : BitVec 5) (k : BitVec 3) : Encodable.Statement (.vgath d a x k) := ⟨fun _ => rfl, fun _ => rfl⟩
theorem Encodable.vscat (d : BitVec 5) (a : BitVec 5) (x : BitVec 5) (k : BitVec 3) : Encodable.Statement (.vscat d a x k) := ⟨fun _ => rfl, fun _ => rfl⟩
theorem Encodable.vcvtFromF32 (r : BitVec 3) (q : BitVec 2) (d : BitVec 5) (a : BitVec 5) (x : BitVec 5) (k : BitVec 3) (s : BitVec 1) : Encodable.Statement (.vcvtFromF32 r q d a x k s) := ⟨fun _ => rfl, fun _ => rfl⟩
theorem Encodable.vcvtToF32 (r : BitVec 3) (q : BitVec 2) (d : BitVec 5) (a : BitVec 5) (x : BitVec 5) (k : BitVec 3) : Encodable.Statement (.vcvtToF32 r q d a x k) := ⟨fun _ => rfl, fun _ => rfl⟩
theorem Encodable.vsf (f : BitVec 4) (d : BitVec 5) (a : BitVec 5) (r : BitVec 3) (k : BitVec 3) : Encodable.Statement (.vsf f d a r k) := ⟨fun _ => rfl, fun _ => rfl⟩
theorem Encodable.kand (d : BitVec 3) (a : BitVec 3) (b : BitVec 3) : Encodable.Statement (.kand d a b) := ⟨fun _ => rfl, fun _ => rfl⟩
theorem Encodable.kor (d : BitVec 3) (a : BitVec 3) (b : BitVec 3) : Encodable.Statement (.kor d a b) := ⟨fun _ => rfl, fun _ => rfl⟩
theorem Encodable.knot (d : BitVec 3) (a : BitVec 3) : Encodable.Statement (.knot d a) := ⟨fun _ => rfl, fun _ => rfl⟩
theorem Encodable.kmovKk (d : BitVec 3) (a : BitVec 3) : Encodable.Statement (.kmovKk d a) := ⟨fun _ => rfl, fun _ => rfl⟩
theorem Encodable.kmovKs (d : BitVec 3) (a : BitVec 5) : Encodable.Statement (.kmovKs d a) := ⟨fun _ => rfl, fun _ => rfl⟩
theorem Encodable.kmovSk (d : BitVec 5) (a : BitVec 3) : Encodable.Statement (.kmovSk d a) := ⟨fun _ => rfl, fun _ => rfl⟩
theorem Encodable.kpop (d : BitVec 5) (a : BitVec 3) : Encodable.Statement (.kpop d a) := ⟨fun _ => rfl, fun _ => rfl⟩
theorem Encodable.vfence : Encodable.Statement .vfence := ⟨fun _ => rfl, fun _ => rfl⟩
theorem Encodable.hsend (x : BitVec 5) : Encodable.Statement (.hsend x) := ⟨fun _ => rfl, fun _ => rfl⟩
theorem Encodable.hrecv (d : BitVec 5) : Encodable.Statement (.hrecv d) := ⟨fun _ => rfl, fun _ => rfl⟩
theorem Encodable.hsendv (a : BitVec 5) : Encodable.Statement (.hsendv a) := ⟨fun _ => rfl, fun _ => rfl⟩
theorem Encodable.hrecvv (d : BitVec 5) : Encodable.Statement (.hrecvv d) := ⟨fun _ => rfl, fun _ => rfl⟩
theorem Encodable.xscan (d : BitVec 5) (a : BitVec 5) (x : BitVec 5) : Encodable.Statement (.xscan d a x) := ⟨fun _ => rfl, fun _ => rfl⟩
theorem Encodable.oclaim (d : BitVec 5) (k : BitVec 1) (n : BitVec 3) : Encodable.Statement (.oclaim d k n) := ⟨fun _ => rfl, fun _ => rfl⟩
theorem Encodable.oclaimAny (d : BitVec 5) (k : BitVec 1) : Encodable.Statement (.oclaimAny d k) := ⟨fun _ => rfl, fun _ => rfl⟩
theorem Encodable.orelease (k : BitVec 1) (n : BitVec 3) : Encodable.Statement (.orelease k n) := ⟨fun _ => rfl, fun _ => rfl⟩
theorem Encodable.ofill (n : BitVec 3) (a : BitVec 5) (r : BitVec 6) : Encodable.Statement (.ofill n a r) := ⟨fun _ => rfl, fun _ => rfl⟩
theorem Encodable.odrain (n : BitVec 3) (a : BitVec 5) (r : BitVec 6) : Encodable.Statement (.odrain n a r) := ⟨fun _ => rfl, fun _ => rfl⟩
theorem Encodable.skset (a : BitVec 5) : Encodable.Statement (.skset a) := ⟨fun _ => rfl, fun _ => rfl⟩
theorem Encodable.gang (n : BitVec 8) : Encodable.Statement (.gang n) := ⟨fun _ => rfl, fun _ => rfl⟩
theorem Encodable.ungang : Encodable.Statement .ungang := ⟨fun _ => rfl, fun _ => rfl⟩
theorem Encodable.accz (c : BitVec 1) : Encodable.Statement (.accz c) := ⟨fun _ => rfl, fun _ => rfl⟩
theorem Encodable.accld (a : BitVec 5) (c : BitVec 1) : Encodable.Statement (.accld a c) := ⟨fun _ => rfl, fun _ => rfl⟩
theorem Encodable.accst (d : BitVec 5) (a : BitVec 5) (s : BitVec 1) (r : BitVec 3) (l : BitVec 3) (c : BitVec 1) : Encodable.Statement (.accst d a s r l c) := ⟨fun _ => rfl, fun _ => rfl⟩
theorem Encodable.accrd (d : BitVec 5) (r : BitVec 6) (h : BitVec 1) (c : BitVec 1) : Encodable.Statement (.accrd d r h c) := ⟨fun _ => rfl, fun _ => rfl⟩
theorem Encodable.mma (e : BitVec 5) (g : BitVec 5) (t : BitVec 4) (z : BitVec 1) (c : BitVec 1) (b : BitVec 3) (a : BitVec 3) : Encodable.Statement (.mma e g t z c b a) := ⟨fun _ => rfl, fun _ => rfl⟩
theorem Encodable.mmas (e : BitVec 5) (g : BitVec 5) (t : BitVec 4) (z : BitVec 1) (c : BitVec 1) (b : BitVec 3) (a : BitVec 3) : Encodable.Statement (.mmas e g t z c b a) := ⟨fun _ => rfl, fun _ => rfl⟩
theorem Encodable.mmaJ (e : BitVec 5) (g : BitVec 5) (t : BitVec 4) (z : BitVec 1) (c : BitVec 1) (b : BitVec 3) (a : BitVec 3) : Encodable.Statement (.mmaJ e g t z c b a) := ⟨fun _ => rfl, fun _ => rfl⟩
theorem Encodable.mmasJ (e : BitVec 5) (g : BitVec 5) (t : BitVec 4) (z : BitVec 1) (c : BitVec 1) (b : BitVec 3) (a : BitVec 3) : Encodable.Statement (.mmasJ e g t z c b a) := ⟨fun _ => rfl, fun _ => rfl⟩
theorem Encodable.send (d : BitVec 5) (a : BitVec 5) (h : BitVec 1) (t : BitVec 8) : Encodable.Statement (.send d a h t) := ⟨fun _ => rfl, fun _ => rfl⟩
theorem Encodable.recv (d : BitVec 5) (v : BitVec 5) : Encodable.Statement (.recv d v) := ⟨fun _ => rfl, fun _ => rfl⟩
theorem Encodable.recvp (d : BitVec 5) (v : BitVec 5) : Encodable.Statement (.recvp d v) := ⟨fun _ => rfl, fun _ => rfl⟩
theorem Encodable.rst (d : BitVec 5) (a : BitVec 5) (s : BitVec 2) (o : BitVec 8) : Encodable.Statement (.rst d a s o) := ⟨fun _ => rfl, fun _ => rfl⟩
theorem Encodable.rstV (d : BitVec 5) (a : BitVec 5) (h : BitVec 1) (o : BitVec 8) : Encodable.Statement (.rstV d a h o) := ⟨fun _ => rfl, fun _ => rfl⟩
theorem Encodable.rld (d : BitVec 5) (a : BitVec 5) (s : BitVec 2) (o : BitVec 8) : Encodable.Statement (.rld d a s o) := ⟨fun _ => rfl, fun _ => rfl⟩
theorem Encodable.ramo (d : BitVec 5) (a : BitVec 5) (s : BitVec 1) (o : BitVec 4) (b : BitVec 5) : Encodable.Statement (.ramo d a s o b) := ⟨fun _ => rfl, fun _ => rfl⟩
theorem Encodable.amsg (d : BitVec 5) (a : BitVec 5) (h : BitVec 1) (t : BitVec 8) : Encodable.Statement (.amsg d a h t) := ⟨fun _ => rfl, fun _ => rfl⟩
theorem Encodable.hret : Encodable.Statement .hret := ⟨fun _ => rfl, fun _ => rfl⟩
theorem Encodable.epush (b : BitVec 5) (a : BitVec 5) (e : BitVec 2) : Encodable.Statement (.epush b a e) := ⟨fun _ => rfl, fun _ => rfl⟩
theorem Encodable.epop (d : BitVec 5) (e : BitVec 2) : Encodable.Statement (.epop d e) := ⟨fun _ => rfl, fun _ => rfl⟩
theorem Encodable.epoll (d : BitVec 5) (e : BitVec 2) : Encodable.Statement (.epoll d e) := ⟨fun _ => rfl, fun _ => rfl⟩
theorem Encodable.ecfg (a : BitVec 5) (e : BitVec 2) : Encodable.Statement (.ecfg a e) := ⟨fun _ => rfl, fun _ => rfl⟩
theorem Encodable.fence (s : BitVec 3) (k : BitVec 2) : Encodable.Statement (.fence s k) := ⟨fun _ => rfl, fun _ => rfl⟩
theorem Encodable.fenceNet : Encodable.Statement .fenceNet := ⟨fun _ => rfl, fun _ => rfl⟩
theorem Encodable.icsync (s : BitVec 3) : Encodable.Statement (.icsync s) := ⟨fun _ => rfl, fun _ => rfl⟩
theorem Encodable.spece : Encodable.Statement .spece := ⟨fun _ => rfl, fun _ => rfl⟩
theorem Encodable.spcmp : Encodable.Statement .spcmp := ⟨fun _ => rfl, fun _ => rfl⟩
theorem Encodable.spabort : Encodable.Statement .spabort := ⟨fun _ => rfl, fun _ => rfl⟩
theorem Encodable.spappend (d : BitVec 5) (a : BitVec 5) : Encodable.Statement (.spappend d a) := ⟨fun _ => rfl, fun _ => rfl⟩
theorem Encodable.spstat (d : BitVec 5) (n : BitVec 8) : Encodable.Statement (.spstat d n) := ⟨fun _ => rfl, fun _ => rfl⟩
theorem Encodable.specb (t : BitVec 5) (n : BitVec 5) (k : BitVec 2) (m : BitVec 2) (g : BitVec 2) (e : BitVec 8) : Encodable.Statement (.specb t n k m g e) := ⟨fun _ => rfl, fun _ => rfl⟩
theorem Encodable.logmark (a : BitVec 5) (t : BitVec 8) : Encodable.Statement (.logmark a t) := ⟨fun _ => rfl, fun _ => rfl⟩
theorem Encodable.launch (d : BitVec 5) (a : BitVec 5) : Encodable.Statement (.launch d a) := ⟨fun _ => rfl, fun _ => rfl⟩
theorem Encodable.migrate (d : BitVec 5) (a : BitVec 5) : Encodable.Statement (.migrate d a) := ⟨fun _ => rfl, fun _ => rfl⟩
theorem Encodable.segset (n : BitVec 3) (a : BitVec 5) : Encodable.Statement (.segset n a) := ⟨fun _ => rfl, fun _ => rfl⟩
theorem Encodable.wheelset (a : BitVec 5) : Encodable.Statement (.wheelset a) := ⟨fun _ => rfl, fun _ => rfl⟩
theorem Encodable.bankret (d : BitVec 5) (c : BitVec 2) (b : BitVec 6) : Encodable.Statement (.bankret d c b) := ⟨fun _ => rfl, fun _ => rfl⟩
theorem Encodable.logctlRead (d : BitVec 5) (a : BitVec 5) : Encodable.Statement (.logctlRead d a) := ⟨fun _ => rfl, fun _ => rfl⟩
theorem Encodable.logctlRing (d : BitVec 5) (a : BitVec 5) : Encodable.Statement (.logctlRing d a) := ⟨fun _ => rfl, fun _ => rfl⟩
theorem Encodable.logctlMode (d : BitVec 5) (a : BitVec 5) : Encodable.Statement (.logctlMode d a) := ⟨fun _ => rfl, fun _ => rfl⟩
theorem Encodable.logctlTail (d : BitVec 5) (a : BitVec 5) : Encodable.Statement (.logctlTail d a) := ⟨fun _ => rfl, fun _ => rfl⟩
theorem Encodable.logctlHead (d : BitVec 5) (a : BitVec 5) : Encodable.Statement (.logctlHead d a) := ⟨fun _ => rfl, fun _ => rfl⟩
theorem Encodable.ctxsave (d : BitVec 5) (a : BitVec 5) (s : BitVec 4) : Encodable.Statement (.ctxsave d a s) := ⟨fun _ => rfl, fun _ => rfl⟩
theorem Encodable.ctxload (d : BitVec 5) (a : BitVec 5) : Encodable.Statement (.ctxload d a) := ⟨fun _ => rfl, fun _ => rfl⟩
theorem Encodable.colour (d : BitVec 5) : Encodable.Statement (.colour d) := ⟨fun _ => rfl, fun _ => rfl⟩
theorem Encodable.wakeResume (d : BitVec 5) (a : BitVec 5) : Encodable.Statement (.wakeResume d a) := ⟨fun _ => rfl, fun _ => rfl⟩
theorem Encodable.wakeFault (d : BitVec 5) (a : BitVec 5) : Encodable.Statement (.wakeFault d a) := ⟨fun _ => rfl, fun _ => rfl⟩
theorem Encodable.wakeAbandon (d : BitVec 5) (a : BitVec 5) : Encodable.Statement (.wakeAbandon d a) := ⟨fun _ => rfl, fun _ => rfl⟩
theorem Encodable.fadd (d : BitVec 5) (a : BitVec 5) (b : BitVec 5) (r : BitVec 3) : Encodable.Statement (.fadd d a b r) := ⟨fun _ => rfl, fun _ => rfl⟩
theorem Encodable.fmul (d : BitVec 5) (a : BitVec 5) (b : BitVec 5) (r : BitVec 3) : Encodable.Statement (.fmul d a b r) := ⟨fun _ => rfl, fun _ => rfl⟩
theorem Encodable.ffma (d : BitVec 5) (a : BitVec 5) (b : BitVec 5) (c : BitVec 5) (r : BitVec 3) : Encodable.Statement (.ffma d a b c r) := ⟨fun _ => rfl, fun _ => rfl⟩
theorem Encodable.fcmp (d : BitVec 5) (a : BitVec 5) (b : BitVec 5) (p : BitVec 5) : Encodable.Statement (.fcmp d a b p) := ⟨fun _ => rfl, fun _ => rfl⟩
theorem Encodable.fcvt (d : BitVec 5) (a : BitVec 5) (b : BitVec 5) (k : BitVec 5) (r : BitVec 3) : Encodable.Statement (.fcvt d a b k r) := ⟨fun _ => rfl, fun _ => rfl⟩
theorem Encodable.vscanlr (t : BitVec 2) (d : BitVec 5) (a : BitVec 5) (k : BitVec 3) : Encodable.Statement (.vscanlr t d a k) := ⟨fun _ => rfl, fun _ => rfl⟩
theorem Encodable.codeFetch : Encodable.Statement .codeFetch := ⟨fun h => (nomatch h), fun h => (nomatch h)⟩
theorem Encodable.deferredTrap : Encodable.Statement .deferredTrap := ⟨fun h => (nomatch h), fun h => (nomatch h)⟩
theorem Encodable.breakpointMatch : Encodable.Statement .breakpointMatch := ⟨fun h => (nomatch h), fun h => (nomatch h)⟩
theorem Encodable.faultPacketSend (core : Nat) : Encodable.Statement (.faultPacketSend core) := ⟨fun h => (nomatch h), fun h => (nomatch h)⟩
theorem Encodable.lsAccessPerform (core : Nat) : Encodable.Statement (.lsAccessPerform core) := ⟨fun h => (nomatch h), fun h => (nomatch h)⟩
theorem Encodable.requestPlace (core : Nat) : Encodable.Statement (.requestPlace core) := ⟨fun h => (nomatch h), fun h => (nomatch h)⟩
theorem Encodable.wheelMeeting (core : Nat) : Encodable.Statement (.wheelMeeting core) := ⟨fun h => (nomatch h), fun h => (nomatch h)⟩
theorem Encodable.farMeeting (core : Nat) : Encodable.Statement (.farMeeting core) := ⟨fun h => (nomatch h), fun h => (nomatch h)⟩
theorem Encodable.wheelSwap (region : Nat) : Encodable.Statement (.wheelSwap region) := ⟨fun h => (nomatch h), fun h => (nomatch h)⟩
theorem Encodable.bankretComplete (thread : Nat) : Encodable.Statement (.bankretComplete thread) := ⟨fun h => (nomatch h), fun h => (nomatch h)⟩
theorem Encodable.wwaitWake (thread : Nat) : Encodable.Statement (.wwaitWake thread) := ⟨fun h => (nomatch h), fun h => (nomatch h)⟩
theorem Encodable.translationWalkEnd (region : Nat) (dva : BitVec 56) (write : Bool) : Encodable.Statement (.translationWalkEnd region dva write) := ⟨fun h => (nomatch h), fun h => (nomatch h)⟩
theorem Encodable.vectorCommandStart (core : Nat) : Encodable.Statement (.vectorCommandStart core) := ⟨fun h => (nomatch h), fun h => (nomatch h)⟩
theorem Encodable.sfRequestStart (core : Nat) : Encodable.Statement (.sfRequestStart core) := ⟨fun h => (nomatch h), fun h => (nomatch h)⟩
theorem Encodable.matrixCommandStart (core : Nat) : Encodable.Statement (.matrixCommandStart core) := ⟨fun h => (nomatch h), fun h => (nomatch h)⟩
theorem Encodable.gangForm (leader : Nat) : Encodable.Statement (.gangForm leader) := ⟨fun h => (nomatch h), fun h => (nomatch h)⟩
theorem Encodable.halyardLand (i : Nat) : Encodable.Statement (.halyardLand i) := ⟨fun h => (nomatch h), fun h => (nomatch h)⟩
theorem Encodable.messageArrival (i : Nat) : Encodable.Statement (.messageArrival i) := ⟨fun h => (nomatch h), fun h => (nomatch h)⟩
theorem Encodable.messageRetry (core : Nat) : Encodable.Statement (.messageRetry core) := ⟨fun h => (nomatch h), fun h => (nomatch h)⟩
theorem Encodable.ackArrival (i : Nat) : Encodable.Statement (.ackArrival i) := ⟨fun h => (nomatch h), fun h => (nomatch h)⟩
theorem Encodable.replyArrival (i : Nat) : Encodable.Statement (.replyArrival i) := ⟨fun h => (nomatch h), fun h => (nomatch h)⟩
theorem Encodable.handlerStart (core : Nat) : Encodable.Statement (.handlerStart core) := ⟨fun h => (nomatch h), fun h => (nomatch h)⟩
theorem Encodable.userHandlerStart (core : Nat) : Encodable.Statement (.userHandlerStart core) := ⟨fun h => (nomatch h), fun h => (nomatch h)⟩
theorem Encodable.engineCommandTake (core : Nat) (port : Nat) : Encodable.Statement (.engineCommandTake core port) := ⟨fun h => (nomatch h), fun h => (nomatch h)⟩
theorem Encodable.chunkStart (unit i : Nat) : Encodable.Statement (.chunkStart unit i) := ⟨fun h => (nomatch h), fun h => (nomatch h)⟩
theorem Encodable.chunkComplete (unit i : Nat) : Encodable.Statement (.chunkComplete unit i) := ⟨fun h => (nomatch h), fun h => (nomatch h)⟩
theorem Encodable.commandEnd (engine : Nat) (i : Nat) : Encodable.Statement (.commandEnd engine i) := ⟨fun h => (nomatch h), fun h => (nomatch h)⟩
theorem Encodable.gatherIndex (region : Nat) (i : Nat) : Encodable.Statement (.gatherIndex region i) := ⟨fun h => (nomatch h), fun h => (nomatch h)⟩
theorem Encodable.appendPerform (unit i : Nat) : Encodable.Statement (.appendPerform unit i) := ⟨fun h => (nomatch h), fun h => (nomatch h)⟩
theorem Encodable.a2aArrival (i : Nat) : Encodable.Statement (.a2aArrival i) := ⟨fun h => (nomatch h), fun h => (nomatch h)⟩
theorem Encodable.mailboxCommand (core : Nat) : Encodable.Statement (.mailboxCommand core) := ⟨fun h => (nomatch h), fun h => (nomatch h)⟩
theorem Encodable.guessEnd (thread : Nat) : Encodable.Statement (.guessEnd thread) := ⟨fun h => (nomatch h), fun h => (nomatch h)⟩
theorem Encodable.windowStart (owner : Nat) : Encodable.Statement (.windowStart owner) := ⟨fun h => (nomatch h), fun h => (nomatch h)⟩
theorem Encodable.specCommit (owner : Nat) : Encodable.Statement (.specCommit owner) := ⟨fun h => (nomatch h), fun h => (nomatch h)⟩
theorem Encodable.replayStall (region : Nat) : Encodable.Statement (.replayStall region) := ⟨fun h => (nomatch h), fun h => (nomatch h)⟩
theorem Encodable.logmodeWrite (region : Nat) (value : BitVec 64) : Encodable.Statement (.logmodeWrite region value) := ⟨fun h => (nomatch h), fun h => (nomatch h)⟩
theorem Encodable.logptrTailWrite (region : Nat) (value : BitVec 64) : Encodable.Statement (.logptrTailWrite region value) := ⟨fun h => (nomatch h), fun h => (nomatch h)⟩
theorem Encodable.queueNotify (q : Nat) (value : BitVec 64) : Encodable.Statement (.queueNotify q value) := ⟨fun h => (nomatch h), fun h => (nomatch h)⟩
theorem Encodable.recordFetch (q : Nat) : Encodable.Statement (.recordFetch q) := ⟨fun h => (nomatch h), fun h => (nomatch h)⟩
theorem Encodable.recordRefetch (q : Nat) : Encodable.Statement (.recordRefetch q) := ⟨fun h => (nomatch h), fun h => (nomatch h)⟩
theorem Encodable.submissionCheck (vf : Nat) (launch : Nat) : Encodable.Statement (.submissionCheck vf launch) := ⟨fun h => (nomatch h), fun h => (nomatch h)⟩
theorem Encodable.qctlWrite (q : Nat) (pf : Bool) (value : BitVec 64) : Encodable.Statement (.qctlWrite q pf value) := ⟨fun h => (nomatch h), fun h => (nomatch h)⟩
theorem Encodable.qerrClear (q : Nat) (value : BitVec 64) : Encodable.Statement (.qerrClear q value) := ⟨fun h => (nomatch h), fun h => (nomatch h)⟩
theorem Encodable.windowAllot (core : Nat) (vf : Nat) (launch : Nat) : Encodable.Statement (.windowAllot core vf launch) := ⟨fun h => (nomatch h), fun h => (nomatch h)⟩
theorem Encodable.taskDispatch (thread : Nat) (vf : Nat) (launch : Nat) (tile : Nat) : Encodable.Statement (.taskDispatch thread vf launch tile) := ⟨fun h => (nomatch h), fun h => (nomatch h)⟩
theorem Encodable.launchComplete (vf : Nat) (launch : Nat) : Encodable.Statement (.launchComplete vf launch) := ⟨fun h => (nomatch h), fun h => (nomatch h)⟩
theorem Encodable.priorityAge (vf : Nat) (launch : Nat) : Encodable.Statement (.priorityAge vf launch) := ⟨fun h => (nomatch h), fun h => (nomatch h)⟩
theorem Encodable.preempt (vf : Nat) (launch : Nat) : Encodable.Statement (.preempt vf launch) := ⟨fun h => (nomatch h), fun h => (nomatch h)⟩
theorem Encodable.evictionTest (region : Nat) : Encodable.Statement (.evictionTest region) := ⟨fun h => (nomatch h), fun h => (nomatch h)⟩
theorem Encodable.contextSave (thread : Nat) : Encodable.Statement (.contextSave thread) := ⟨fun h => (nomatch h), fun h => (nomatch h)⟩
theorem Encodable.contextResume (thread : Nat) (area : Nat) : Encodable.Statement (.contextResume thread area) := ⟨fun h => (nomatch h), fun h => (nomatch h)⟩
theorem Encodable.loadTableRefresh (cluster : Nat) : Encodable.Statement (.loadTableRefresh cluster) := ⟨fun h => (nomatch h), fun h => (nomatch h)⟩
theorem Encodable.migrationInterval (core : Nat) : Encodable.Statement (.migrationInterval core) := ⟨fun h => (nomatch h), fun h => (nomatch h)⟩
theorem Encodable.migrationArrive (i : Nat) : Encodable.Statement (.migrationArrive i) := ⟨fun h => (nomatch h), fun h => (nomatch h)⟩
theorem Encodable.tcinvGo (region : Nat) (value : BitVec 64) : Encodable.Statement (.tcinvGo region value) := ⟨fun h => (nomatch h), fun h => (nomatch h)⟩
theorem Encodable.ptrootWrite (region : Nat) (value : BitVec 64) : Encodable.Statement (.ptrootWrite region value) := ⟨fun h => (nomatch h), fun h => (nomatch h)⟩
theorem Encodable.regionReset (region : Nat) (pf : Bool) (value : BitVec 64) : Encodable.Statement (.regionReset region pf value) := ⟨fun h => (nomatch h), fun h => (nomatch h)⟩
theorem Encodable.railFault (region : Nat) : Encodable.Statement (.railFault region) := ⟨fun h => (nomatch h), fun h => (nomatch h)⟩
theorem Encodable.clockFault (region : Nat) : Encodable.Statement (.clockFault region) := ⟨fun h => (nomatch h), fun h => (nomatch h)⟩
theorem Encodable.hbmStackFault (stack : Nat) : Encodable.Statement (.hbmStackFault stack) := ⟨fun h => (nomatch h), fun h => (nomatch h)⟩
theorem Encodable.collectiveEngineFault (die : Nat) : Encodable.Statement (.collectiveEngineFault die) := ⟨fun h => (nomatch h), fun h => (nomatch h)⟩
theorem Encodable.packageReset (image : FirmwareImage) : Encodable.Statement (.packageReset image) := ⟨fun h => (nomatch h), fun h => (nomatch h)⟩
theorem Encodable.windowWrite (region : Nat) (n : Nat) (word : Nat) (value : BitVec 64) : Encodable.Statement (.windowWrite region n word value) := ⟨fun h => (nomatch h), fun h => (nomatch h)⟩
theorem Encodable.rgintClear (region : Nat) (value : BitVec 64) : Encodable.Statement (.rgintClear region value) := ⟨fun h => (nomatch h), fun h => (nomatch h)⟩
theorem Encodable.cutStart (region : Nat) (value : BitVec 64) : Encodable.Statement (.cutStart region value) := ⟨fun h => (nomatch h), fun h => (nomatch h)⟩
theorem Encodable.cutResum (vf : Nat) : Encodable.Statement (.cutResum vf) := ⟨fun h => (nomatch h), fun h => (nomatch h)⟩
theorem Encodable.cutResend (region : Nat) : Encodable.Statement (.cutResend region) := ⟨fun h => (nomatch h), fun h => (nomatch h)⟩
theorem Encodable.clockRequest (region : Nat) (value : BitVec 64) : Encodable.Statement (.clockRequest region value) := ⟨fun h => (nomatch h), fun h => (nomatch h)⟩
theorem Encodable.clockStepBegin (region : Nat) : Encodable.Statement (.clockStepBegin region) := ⟨fun h => (nomatch h), fun h => (nomatch h)⟩
theorem Encodable.clockStepEnd (region : Nat) : Encodable.Statement (.clockStepEnd region) := ⟨fun h => (nomatch h), fun h => (nomatch h)⟩
theorem Encodable.linkEnable (port : Nat) (value : BitVec 64) : Encodable.Statement (.linkEnable port value) := ⟨fun h => (nomatch h), fun h => (nomatch h)⟩
theorem Encodable.linkUp (port : Nat) (peer : BitVec 16) : Encodable.Statement (.linkUp port peer) := ⟨fun h => (nomatch h), fun h => (nomatch h)⟩
theorem Encodable.laneFault (port : Nat) : Encodable.Statement (.laneFault port) := ⟨fun h => (nomatch h), fun h => (nomatch h)⟩
theorem Encodable.breakpointWrite (n : Nat) (word : Nat) (value : BitVec 64) : Encodable.Statement (.breakpointWrite n word value) := ⟨fun h => (nomatch h), fun h => (nomatch h)⟩
theorem Encodable.profctlWrite (core : Nat) (value : BitVec 64) : Encodable.Statement (.profctlWrite core value) := ⟨fun h => (nomatch h), fun h => (nomatch h)⟩
theorem Encodable.triggerPulse (die : Nat) (line : Nat) : Encodable.Statement (.triggerPulse die line) := ⟨fun h => (nomatch h), fun h => (nomatch h)⟩
theorem Encodable.trigin (pin : Nat) : Encodable.Statement (.trigin pin) := ⟨fun h => (nomatch h), fun h => (nomatch h)⟩
theorem Encodable.getVersion (fn : Nat) : Encodable.Statement (.getVersion fn) := ⟨fun h => (nomatch h), fun h => (nomatch h)⟩
theorem Encodable.getCapabilities (fn : Nat) : Encodable.Statement (.getCapabilities fn) := ⟨fun h => (nomatch h), fun h => (nomatch h)⟩
theorem Encodable.negotiateAlgorithms (fn : Nat) : Encodable.Statement (.negotiateAlgorithms fn) := ⟨fun h => (nomatch h), fun h => (nomatch h)⟩
theorem Encodable.getDigests (fn : Nat) : Encodable.Statement (.getDigests fn) := ⟨fun h => (nomatch h), fun h => (nomatch h)⟩
theorem Encodable.getCertificate (fn : Nat) : Encodable.Statement (.getCertificate fn) := ⟨fun h => (nomatch h), fun h => (nomatch h)⟩
theorem Encodable.challenge (fn : Nat) : Encodable.Statement (.challenge fn) := ⟨fun h => (nomatch h), fun h => (nomatch h)⟩
theorem Encodable.getMeasurements (fn : Nat) (index : Nat) : Encodable.Statement (.getMeasurements fn index) := ⟨fun h => (nomatch h), fun h => (nomatch h)⟩
theorem Encodable.registerWrite (block : RegBlock) (index : Nat) (offset : Nat) (value : BitVec 64) : Encodable.Statement (.registerWrite block index offset value) := ⟨fun h => (nomatch h), fun h => (nomatch h)⟩
theorem Encodable.illegalWord (w : BitVec 32) : Encodable.Statement (.illegalWord w) := ⟨fun h => (nomatch h), fun h => (nomatch h)⟩
theorem Encodable.issueTurn (core : Nat) : Encodable.Statement (.issueTurn core) := ⟨fun h => (nomatch h), fun h => (nomatch h)⟩
theorem Encodable.memoryControllerAccess (unit : Nat) : Encodable.Statement (.memoryControllerAccess unit) := ⟨fun h => (nomatch h), fun h => (nomatch h)⟩
theorem Encodable.hostReadReturn (core : Nat) : Encodable.Statement (.hostReadReturn core) := ⟨fun h => (nomatch h), fun h => (nomatch h)⟩
theorem Encodable.mailboxResult (core : Nat) (slot : Nat) (element : BitVec 64) : Encodable.Statement (.mailboxResult core slot element) := ⟨fun h => (nomatch h), fun h => (nomatch h)⟩
theorem Encodable.unresolvedPageFault (region : Nat) : Encodable.Statement (.unresolvedPageFault region) := ⟨fun h => (nomatch h), fun h => (nomatch h)⟩
theorem Encodable.resetdone (region : Nat) (image : FirmwareImage) : Encodable.Statement (.resetdone region image) := ⟨fun h => (nomatch h), fun h => (nomatch h)⟩

end Sys2Proof.Laws
end

