-- ==== Sys2Proof/Laws/Traps.lean ====
section
/-! SUPPORT. What taking a trap, parking and freezing can do: no byte of memory, no full/empty bit and no poison changes, whatever the thread,
its gang, its group and the trigger lines are (R250, R333, R385, R442); and so a computation keeps the canonical form of memory if
what it does before it stops does. -/

namespace Sys2Proof.Machine

/-- `t` has the memories of `s`. -/
def State.SameMem (s t : State) : Prop := t.mem = s.mem ∧ t.full = s.full ∧ t.poison = s.poison ∧ t.upsets = s.upsets

theorem State.SameMem.refl (s : State) : s.SameMem s := ⟨rfl, rfl, rfl, rfl⟩

theorem State.SameMem.trans {s t u : State} (h : s.SameMem t) (g : t.SameMem u) : s.SameMem u :=
  ⟨g.1.trans h.1, g.2.1.trans h.2.1, g.2.2.1.trans h.2.2.1, g.2.2.2.trans h.2.2.2⟩

theorem State.SameMem.memOk {s t : State} (h : s.SameMem t) (hs : s.memOk) : t.memOk := State.memOk_congr h.1 h.2.1 h.2.2.1 h.2.2.2 hs

/-- Steps that keep memory, taken for each of some things, keep memory. -/
theorem State.sameMem_foldl {α : Type} {f : State → α → State} (h : ∀ (s : State) (a : α), s.SameMem (f s a)) (l : List α) : ∀ s : State, s.SameMem (l.foldl f s) := by
  induction l with
  | nil => exact State.SameMem.refl
  | cons a r ih => exact fun s => (h s a).trans (ih (f s a))

theorem State.sameMem_setT (s : State) (k : Nat) (t : Thread) : s.SameMem (s.setT k t) := by
  unfold State.setT; split <;> exact ⟨rfl, rfl, rfl, rfl⟩

theorem State.sameMem_updT (s : State) (k : Nat) (f : Thread → Thread) : s.SameMem (s.updT k f) := s.sameMem_setT k _
theorem State.sameMem_updCore (s : State) (c : Nat) (f : Core → Core) : s.SameMem (s.updCore c f) := ⟨rfl, rfl, rfl, rfl⟩
theorem State.sameMem_updRegion (s : State) (r : Nat) (f : Region → Region) : s.SameMem (s.updRegion r f) := ⟨rfl, rfl, rfl, rfl⟩
theorem State.sameMem_raise (s : State) (f v : Nat) : s.SameMem (s.raise f v) := ⟨rfl, rfl, rfl, rfl⟩
theorem State.sameMem_blackBox (s : State) (r k a : Nat) (d t : Word) : s.SameMem (s.blackBox r k a d t) := ⟨rfl, rfl, rfl, rfl⟩

theorem State.sameMem_disbandGang (s : State) (k : Nat) : s.SameMem (s.disbandGang k) := by
  unfold State.disbandGang
  dsimp only
  split
  · exact State.SameMem.refl s
  · refine State.sameMem_foldl (fun s m => ?_) _ s
    split
    · exact (s.sameMem_updT m _).trans (State.sameMem_updCore _ _ _)
    · exact State.SameMem.refl s

theorem State.sameMem_pulse (s : State) (die line : Nat) : s.SameMem (s.pulse die line) := by
  have h : ∀ (l : List Nat) (t : State), t.SameMem (l.foldl (fun s d => (List.range 4).foldl (fun s i =>
      s.updRegion (4 * d + i) (fun g => if g.proftrig = 0 then g else { g with pulses := g.pulses ++ [(line, g.clock + pulseDelay g.clk.fcur)] })) s) t) :=
    fun l t => State.sameMem_foldl (fun s d => State.sameMem_foldl (fun s i => s.sameMem_updRegion _ _) _ s) l t
  unfold State.pulse
  dsimp only
  split
  · exact State.SameMem.trans ⟨rfl, rfl, rfl, rfl⟩ (h _ _)
  · exact h _ _

theorem State.sameMem_fire (s : State) (die kind arg rgn : Nat) : s.SameMem (s.fire die kind arg rgn) := by
  unfold State.fire
  refine State.sameMem_foldl (fun s p => ?_) _ s
  dsimp only
  (repeat' split) <;> first | exact s.sameMem_pulse _ _ | exact State.SameMem.refl s

theorem State.sameMem_sendPacket (s : State) (p : Packet) : s.SameMem (s.sendPacket p) := by
  unfold State.sendPacket
  dsimp only
  split
  · exact ⟨rfl, rfl, rfl, rfl⟩
  · exact (s.sameMem_updCore _ _).trans (State.sameMem_blackBox _ _ _ _ _ _)

theorem State.sameMem_squash (s : State) (k : Nat) : s.SameMem (s.squash k) := (s.sameMem_updT k _).trans (State.sameMem_updCore _ _ _)

theorem State.sameMem_squashFrom (s : State) (o p : Nat) : s.SameMem (s.squashFrom o p) := by
  unfold State.squashFrom
  refine State.sameMem_foldl (fun t k => ?_) _ s
  split
  · split
    · exact (t.sameMem_squash _).trans (State.sameMem_updT _ _ _)
    · exact State.SameMem.refl t
  · exact State.SameMem.refl t

/-- Freezing a slot leaves memory as it is. -/
theorem State.sameMem_freeze (s : State) (k : Nat) (code : BitVec 8) (addr info pc : Word) (d st : Bool) (rep : List Byte) :
    s.SameMem (s.freeze k code addr info pc d st rep) := by
  unfold State.freeze
  dsimp only
  refine State.SameMem.trans ?_ (State.sameMem_sendPacket _ _)
  refine State.SameMem.trans ?_ (State.sameMem_fire _ _ _ _ _)
  refine State.SameMem.trans ?_ (State.sameMem_updCore _ _ _)
  refine State.SameMem.trans ?_ (State.sameMem_updT _ _ _)
  refine State.SameMem.trans ?_ (State.sameMem_disbandGang _ _)
  split
  · split
    · exact State.sameMem_squashFrom _ _ _
    · exact State.SameMem.refl s
  · exact State.SameMem.refl s

/-- Taking a trap leaves memory as it is. -/
theorem State.sameMem_takeTrap (s : State) (code : BitVec 8) (addr info : Word) : s.SameMem (s.takeTrap code addr info) := by
  have h : s.SameMem { s with th := s.th.rewind } := ⟨rfl, rfl, rfl, rfl⟩
  unfold State.takeTrap
  dsimp only
  split
  · exact ⟨rfl, rfl, rfl, rfl⟩
  · split
    · exact h.trans (State.sameMem_freeze _ _ _ _ _ _ _ _ _)
    · exact ⟨rfl, rfl, rfl, rfl⟩
  · exact h.trans (State.sameMem_freeze _ _ _ _ _ _ _ _ _)

theorem State.sameMem_parkAt (s : State) (p : Park) : s.SameMem (s.parkAt p) := ⟨rfl, rfl, rfl, rfl⟩

/-- Whatever stops an instruction leaves memory as it is. -/
theorem State.sameMem_takeStop (s : State) (e : Stop) : s.SameMem (s.takeStop e) := by
  cases e with
  | trap c a i => exact s.sameMem_takeTrap c a i
  | park p => exact s.sameMem_parkAt p
  | diverge o r => exact State.SameMem.trans (t := { s with th := s.th.rewind }) ⟨rfl, rfl, rfl, rfl⟩ (State.sameMem_freeze _ _ _ _ _ _ _ _ _)

/-- The outcome of a computation has canonical memory if the computation leaves it so. -/
theorem memOk_finish {m : M Unit} {s t : State} (hs : s.memOk) (hm : (m.run s).2.memOk) (h : finish m s = .next t) : t.memOk := by
  unfold finish at h
  split at h
  · rename_i heq; rw [heq] at hm; cases h; exact hm
  · cases h; exact (s.sameMem_parkAt _).memOk hs
  · rename_i heq; rw [heq] at hm; cases h; exact hm
  · rename_i heq; rw [heq] at hm; cases h; exact (State.sameMem_takeStop _ _).memOk hm

end Sys2Proof.Machine
end

