-- ==== Sys2Proof/Machine/Registers.lean ====
section
/-! DEFINITION. What the control registers read as (22, Table 22-1): the values that the drivers and the region supervisors see. A read
changes nothing, so it is a function of the state and no step. An offset that no table maps reads 0 (R427). -/

namespace Sys2Proof.Machine

/-- A bit of a register word. -/
def bitAt (b : Bool) (n : Nat) : Nat := if b then 2 ^ n else 0

/-- RGOWN (21, Table 21-2). -/
def Own.word (o : Own) : Word :=
  BitVec.ofNat 64 (bitAt o.gate 63 + o.phase % 8 * 2 ^ 60 + o.rstcnt.toNat * 2 ^ 32 + o.cause % 256 * 2 ^ 16 + bitAt o.assigned 5 + o.vf % 32)

/-- RGCLKREQ (22, Table 22-4): GO reads 0. -/
def Clk.reqWord (c : Clk) : Word := BitVec.ofNat 64 (c.vreq % 2 ^ 10 * 2 ^ 16 + c.freq % 16)
/-- RGCLKST (22, Table 22-4). -/
def Clk.stWord (c : Clk) : Word :=
  BitVec.ofNat 64 (bitAt c.busy 63 + bitAt c.pending.isSome 62 + c.status % 8 * 2 ^ 59 + c.vcur % 2 ^ 10 * 2 ^ 32 + c.fcur % 16 * 2 ^ 16 +
    c.denied.toNat)

/-- WHEELST (07, Table 07-4). -/
def Region.wheelWord (g : Region) : Word := if g.shadow.isSome then BitVec.ofNat 64 (2 ^ 63 + g.swapAt % 2 ^ 63) else 0

/-- SAVEPOOL + 8 (R393): COUNT, and FREE as read back. -/
def Region.poolWord (g : Region) : Word :=
  BitVec.ofNat 64 (((List.range g.poolCount.toNat).filter (fun n => !g.poolHeld.contains (g.poolAt n))).length * 2 ^ 16 + g.poolCount.toNat)

/-- CUTST (R403). -/
def Cut.stWord (c : Cut) : Word := BitVec.ofNat 64 (bitAt c.closed 63 + bitAt c.ovf 62 + c.diff.toNat)

/-- The 32 bytes of a black-box record (21, Table 21-6), as a number. -/
def BoxRec.num (b : BoxRec) : Nat :=
  b.time.toNat + b.kind % 256 * 2 ^ 64 + b.arg % 256 * 2 ^ 72 + b.cycle.toNat * 2 ^ 96 + b.data.toNat * 2 ^ 128 + b.task.toNat * 2 ^ 192

/-- A register of a region's control block. -/
def Region.register (g : Region) (offset : Nat) : Word :=
  if 0x1000 ≤ offset ∧ offset < 0x2000 then
    BitVec.ofNat 64 ((SMap.get {} g.box ((offset - 0x1000) / 32)).num / 2 ^ (offset % 32 * 8))
  else if 0x600 ≤ offset ∧ offset < 0x640 then
    let w := SMap.get {} g.win ((offset - 0x600) / 16)
    if offset % 16 = 0 then w.w0 else w.w1
  else match offset with
    | 0x100 => g.ptroot
    | 0x108 => g.tcinv
    | 0x110 => g.dirtyctl
    | 0x180 => g.wheelWord
    | 0x200 => g.log.ring
    | 0x208 => g.log.ptrWord
    | 0x210 => g.log.modeWord
    | 0x300 => g.poolBase
    | 0x308 => g.poolWord
    | 0x400 => BitVec.ofNat 64 (bitAt g.cut.col 0)
    | 0x408 => g.cut.stWord
    | 0x410 => g.cut.ring
    | 0x500 => g.own.word
    | 0x510 => g.rgint.setWidth 64
    | 0x700 => g.bbcnt.setWidth 64
    | 0x800 => g.clk.reqWord
    | 0x808 => g.clk.stWord
    | 0x810 => g.clk.pwr.setWidth 64
    | 0x900 => g.proftrig
    | 0x908 => g.filtV
    | 0x910 => g.filtM
    | _ => 0

/-- MXCLAIM (10, Table 10-1). -/
def Units.claimWord (u : Units) : Word :=
  BitVec.ofNat 64 ((List.range 11).foldl (fun n k =>
    let h := SMap.get 0 u.hold k
    if h = 0 then n else n + (16 + (h - 1) % 16) * 2 ^ (5 * k)) 0)

/-- The number of a slot state (19, Table 19-5). -/
def SlotSt.code : SlotSt → Nat
  | .empty => 0
  | .ready => 1
  | .parked => 2
  | .frozen => 3
  | .idle => 4
  | .saving => 5

/-- The number of a park class (19, Table 19-5). -/
def ParkClass.code : ParkClass → Nat
  | .none => 0
  | .memory => 1
  | .message => 2

/-- SLOTDBG of a slot (19, Table 19-5). -/
def State.dbgWord (s : State) (k : Nat) : Word :=
  let t := s.getT k
  BitVec.ofNat 64 (bitAt (s.stepBit k) 63 + (s.lastCode k).toNat * 2 ^ 16 +
    (if t.st = .parked then t.w.park.cls.code * 2 ^ 8 else 0) + (s.slotSt k).code)

/-- PROFCTL (23, Table 23-2): CLR reads 0. -/
def Prof.ctlWord (p : Prof) : Word := BitVec.ofNat 64 (bitAt p.en 63 + bitAt p.frz 62 + bitAt p.filt 60)

/-- A word of a core's debug window (19, Table 19-4; 23, Table 23-1): a context image reads 0 unless its slot is FROZEN or PARKED. -/
def State.debugWord (s : State) (core offset : Nat) : Word :=
  let k := 16 * core + offset / 0x2000
  let o := offset % 0x2000
  let x := s.core core
  if offset < 0x20000 then
    let t := s.getT k
    if o < 4608 then
      (if t.st = .frozen ∨ t.st = .parked then
        BitVec.ofNat 64 (leNat (((t.regPart (if t.st = .frozen then s.lastCode k else 0)).drop o).take 8)) else 0)
    else if o = 0x1200 then s.dbgWord k
    else 0
  else if 0x20100 ≤ offset ∧ offset < 0x20300 then SMap.get 0 x.prof.count ((offset - 0x20100) / 8)
  else if 0x20300 ≤ offset ∧ offset < 0x20388 then SMap.get 0 x.prof.hist ((offset - 0x20300) / 8)
  else match offset with
    | 0x20000 => x.lserr
    | 0x20008 => x.u.claimWord
    | 0x20010 => x.retryCt
    | 0x20018 => x.sent0 ++ x.recv0
    | 0x20020 => x.sent1 ++ x.recv1
    | 0x20040 => x.prof.ctlWord
    | _ => 0

/-- Eight bytes of a byte table. -/
def bytes8 (m : SMap Byte) (offset : Nat) : Word :=
  BitVec.ofNat 64 (leNat ((List.range 8).map (fun i => SMap.get 0 m (offset + i))))

/-- A register of a cluster's control block (18, Table 18-8). -/
def Cluster.register (c : Cluster) (offset : Nat) : Word :=
  if offset < 64 then BitVec.ofNat 64 (leNat ((List.range 8).map (fun i => BitVec.ofNat 8 (SMap.get 0 c.load (offset + i)))))
  else if offset = 0x40 then BitVec.ofNat 64 (bitAt c.migEn 63 + c.migInt.toNat)
  else if offset = 0x48 then c.bkerr
  else 0

/-- FWST (22, Table 22-7). -/
def Package.fwWord (p : Package) : Word := BitVec.ofNat 64 (bitAt p.fwReady 63 + p.fwFail % 256 * 2 ^ 48 + p.fwSvn.toNat)

/-- A register of the PF control block (22, Table 22-2; 23, R442, R444). -/
def Package.register (p : Package) (offset : Nat) : Word :=
  if offset < 64 then bytes8 p.linkwt offset
  else if 0x100 ≤ offset ∧ offset < 0x180 then
    SMap.get 0 p.pwrshare ((offset - 0x100) / 4 + 1) ++ SMap.get 0 p.pwrshare ((offset - 0x100) / 4)
  else if 0x200 ≤ offset ∧ offset < 0x300 then
    let n := (offset - 0x200) / 16
    if offset % 16 = 0 then BitVec.ofNat 64 (bitAt (SMap.get false p.linkctl n) 63) else SMap.get 0 p.linkst n
  else if offset = 0x500 then p.pkgid.setWidth 64
  else if offset = 0x600 then p.fwWord
  else if 0x800 ≤ offset ∧ offset < 0x800 + 48 * 34 then
    let b := offset - 0x800
    BitVec.ofNat 64 (leNat (((digestBytes (p.measure (b / 48))).drop (b % 48)).take 8))
  else if 0x2000 ≤ offset ∧ offset < 0x3000 then SMap.get 0 p.trigsel ((offset - 0x2000) / 8)
  else if 0x3000 ≤ offset ∧ offset < 0x3100 then SMap.get 0 p.bp ((offset - 0x3000) / 8)
  else 0

/-- A register of a VF control block (R427): a logical region's registers answer for an own entry of a region that the VF owns only. -/
def State.vfWord (s : State) (v offset : Nat) : Word :=
  let f := s.vf v
  if !s.vfEnabled v then 0
  else if offset < 32 then bytes8 f.regtab offset
  else if 0x100 ≤ offset ∧ offset < 0x200 then bytes8 f.weights (offset - 0x100)
  else if 0x10000 ≤ offset ∧ offset < 0x12000 then
    let o := offset % 0x100
    match s.regEntry v ((offset - 0x10000) / 0x100) with
    | some (r, false) => if s.answersVf v r ∧ o < 0x18 then (s.region r).register (0x500 + o) else 0
    | _ => 0
  else 0

/-- A word of a function's MSI-X table or pending bits (R427): a vector is pending while it is raised and masked. -/
def State.msixWord (s : State) (fn offset : Nat) : Word :=
  let tab := fun (n : Nat) => SMap.get 0 s.pkg.msixTab (128 * fn + n) ^^^ (if n % 2 = 1 then 0x100000000#64 else 0)
  if !s.fnThere fn then 0
  else if offset < 0x400 then tab (offset / 8)
  else if offset = 0x400 then
    BitVec.ofNat 64 ((List.range 64).foldl (fun n k =>
      n + bitAt (SMap.get false s.pkg.msix (64 * fn + k) && (tab (2 * k + 1)).getLsbD 32) k) 0)
  else 0

/-- A register of a queue (18, Table 18-5). -/
def Queue.register (q : Queue) (offset : Nat) : Word :=
  match offset with
  | 0 => q.qbase
  | 8 => q.qctl
  | 16 => q.head ++ q.tail
  | 24 => q.qerr
  | _ => 0

/-- What a register reads as; a unit that the part does not have maps nothing. -/
def State.readRegister (s : State) (block : RegBlock) (index offset : Nat) : Word :=
  if blockOk s.pkg.partC block index = false then 0
  else if block = .route then (if offset % 2 = 0 then (SMap.get 0 s.pkg.route (offset / 2)).setWidth 64 else 0)
  else if offset % 8 ≠ 0 then 0
  else match block with
    | .region => (s.region index).register offset
    | .cluster => (s.cluster index).register offset
    | .debug => s.debugWord index offset
    | .pf => s.pkg.register offset
    | .vf => s.vfWord index offset
    | .vfTable => if offset < 32 then bytes8 (s.vf index).regtab offset else 0
    | .queue => (s.queue index).register offset
    | .vfQueue =>
      let q := index % Config.queues
      let v := index / Config.queues
      if (s.queue q).vf = v ∧ s.vfEnabled v then (s.queue q).register offset else 0
    | .msix => s.msixWord index offset
    | .route => 0

end Sys2Proof.Machine
end

