-- ==== Sys2Proof/Tests/Slice0.lean ====
section
/-! SUPPORT. The tests of the model: ill-formed terms, words and what they decode to, single steps with results taken from the spec's tables,
and for each statement a state and operands that meet its hypotheses. -/

set_option maxRecDepth 20000
set_option exponentiation.threshold 2000

namespace Sys2Proof.Tests

open Sys2Proof Sys2Proof.Machine

/-! States for the tests: slot 0 of core 0 READY with some registers set, all else as reset leaves it. -/

/-- With scalar registers. -/
def withS (l : SMap Word) : State := { State.reset with th := { st := .ready, r := { s := l } } }
/-- With scalar registers and the segment of g0. -/
def withG (l : SMap Word) (g : BitVec 256) : State := { State.reset with th := { st := .ready, r := { s := l, g := [(0, g)] } } }
/-- With scalar and vector registers. -/
def withV (l : SMap Word) (v : SMap VReg) : State := { State.reset with th := { st := .ready, r := { s := l, v := v } } }
/-- In a privileged thread. -/
def State.privileged (s : State) : State := { s with th := { s.th with id := { s.th.id with priv := true } } }

/-- All of the local store, with every right. -/
def lsAll : BitVec 256 := segMake 0 196608 0 0x3F 0 0 0 0 0
def lsPlain : BitVec 256 := segMake 0 196608 0 0x3D 0 0 0 0 0
/-- A segment of 256 bytes of a space with every right but L, scales from byte 128 on. -/
def segOf (space : Nat) : BitVec 256 := segMake 0 256 space 0x3D 128 0 0 0 0

theorem alone (s : State) (h : s.th.st ≠ .saving ∧ s.th.sp.role = .none ∧ s.th.en.gangN = 0 ∧ s.pkg = {} ∧ s.regions = [] ∧ s.cores = []) :
    s.TrapsAlone := by
  obtain ⟨h0, h1, h2, h3, h4, h5⟩ := h
  refine ⟨h0, h1, h2, by rw [h3], ?_, ?_⟩
  · unfold State.region; rw [h4]; exact Nat.zero_lt_succ _
  · unfold State.core; rw [h5]; rfl

theorem calm (s : State) (h : s.th.st ≠ .saving ∧ s.th.sp.role = .none ∧ s.th.is.rlx = false ∧ s.th.w.acc = {} ∧ s.poison = [] ∧ s.upsets = [] ∧
    s.regions = [] ∧ s.cores = []) : s.Calm := by
  obtain ⟨h0, h1, h2, h7, h3, h6, h4, h5⟩ := h
  refine ⟨h0, h1, h2, by rw [h7], by rw [h7], by rw [h7], ?_, ?_, h3, h6, ?_⟩
  · unfold State.core; rw [h5]; rfl
  · unfold State.relReqs State.core; rw [h5]; rfl
  · intro r; unfold State.log State.region; rw [h4]; rfl

theorem calmCore (s : State) (h : s.th.st ≠ .saving ∧ s.th.sp.role = .none ∧ s.th.is.rlx = false ∧ s.th.w.acc = {} ∧ s.poison = [] ∧ s.upsets = [] ∧
    s.regions = [] ∧ (s.core s.coreNo).seq = [] ∧ s.relReqs s.cur = []) : s.Calm := by
  obtain ⟨h0, h1, h2, h7, h3, h6, h4, h5, h8⟩ := h
  refine ⟨h0, h1, h2, by rw [h7], by rw [h7], by rw [h7], h5, h8, h3, h6, fun r => ?_⟩
  unfold State.log State.region; rw [h4]; rfl

theorem aloneCore (s : State) (h : s.th.st ≠ .saving ∧ s.th.sp.role = .none ∧ s.th.en.gangN = 0 ∧ s.pkg.trigsel = [] ∧ s.regions = [] ∧
    (s.core s.coreNo).held = []) : s.TrapsAlone := by
  obtain ⟨h0, h1, h2, h3, h4, h5⟩ := h
  refine ⟨h0, h1, h2, h3, ?_, h5⟩
  unfold State.region; rw [h4]; exact Nat.zero_lt_succ _

/-- The same thread after its accesses have been performed with these results. -/
def went (s : State) (l : List Got) : State := { s with th := { s.th with w := { s.th.w with acc := { jrn := l, redo := true } } } }

theorem went_on (s : State) (l : List Got) (h1 : s.th.sp.role = .none) (h2 : ∀ g ∈ l, g.poison = false) : (went s l).WentOn l :=
  ⟨h1, rfl, rfl, h2⟩

theorem okEq {ε α : Type} [DecidableEq α] {x : Except ε α} {b : α} (h : (match x with | .ok a => decide (a = b) | .error _ => false) = true) :
    x = .ok b := by
  cases x with
  | ok a => exact congrArg _ (of_decide_eq_true h)
  | error _ => exact absurd h Bool.false_ne_true

theorem runEq {ε α : Type} [DecidableEq α] {x : Except ε α × State} {b : α} {s : State}
    (h : (match x with | (.ok a, t) => decide (a = b) && decide (t = s) | _ => false) = true) : x = (.ok b, s) := by
  obtain ⟨_ | a, t⟩ := x
  · exact absurd h Bool.false_ne_true
  · have h' := (Bool.and_eq_true _ _).mp h
    rw [of_decide_eq_true h'.1, of_decide_eq_true h'.2]

theorem okRun {ε α σ : Type} {x : Except ε α × σ} (h : x.1.isOk = true) : ∃ a s, x = (.ok a, s) := by
  obtain ⟨_ | a, s⟩ := x
  · exact absurd h Bool.false_ne_true
  · exact ⟨a, s, rfl⟩

theorem okRunThen {ε α σ : Type} {x : Except ε α × σ} (p : α → σ → Bool) (h : (match x with | (.ok a, s) => p a s | _ => false) = true) :
    ∃ a s, x = (.ok a, s) ∧ p a s = true := by
  obtain ⟨_ | a, s⟩ := x
  · exact absurd h Bool.false_ne_true
  · exact ⟨a, s, rfl, h⟩

theorem okPair {σ ε α : Type} {x : σ × Except ε α} (p : α → Bool) (h : (match x.2 with | .ok a => p a | .error _ => false) = true) :
    ∃ s a, x = (s, .ok a) ∧ p a = true := by
  obtain ⟨s, _ | a⟩ := x
  · exact absurd h Bool.false_ne_true
  · exact ⟨s, a, rfl, h⟩

theorem okGet {α : Type} {x : EngRes α} (p : State → α → Bool) (h : (match x with | .ok s a => p s a | _ => false) = true) :
    ∃ s a, x = .ok s a ∧ p s a = true := by
  cases x with
  | ok s a => exact ⟨s, a, rfl, h⟩
  | _ => exact absurd h Bool.false_ne_true

theorem isSome {α : Type} {x : Option α} (h : x.isSome = true) : ∃ a, x = some a := Option.isSome_iff_exists.1 h

/-! Ill-formed terms: for each check of `Instr.unitsOk`, a unit just past the last one of the part, and the word of FENCE.NET spelled as a
FENCE. -/

def refusedOn (c : Bool) (l : List Instr) : Bool := l.all (fun i => !i.wellFormed c)

theorem test_illFormed_word : refusedOn false [.fence 0 3] = true ∧ (Instr.fence 1 3).wellFormed false = true ∧ Instr.fenceNet.wellFormed false = true := by
  decide

theorem test_illFormed_cores : refusedOn false [
    .faultPacketSend 8192, .lsAccessPerform 8192, .requestPlace 8192, .wheelMeeting 8192, .farMeeting 8192, .vectorCommandStart 8192,
    .sfRequestStart 8192, .matrixCommandStart 8192, .messageRetry 8192, .handlerStart 8192, .userHandlerStart 8192, .engineCommandTake 8192 0,
    .engineCommandTake 0 4, .mailboxCommand 8192, .windowAllot 8192 0 0, .windowAllot 0 32 0, .windowAllot 0 0 16777216, .migrationInterval 8192,
    .profctlWrite 8192 0, .issueTurn 8192, .memoryControllerAccess 8192, .hostReadReturn 8192, .mailboxResult 8192 0 0, .mailboxResult 0 16 0] = true := by
  decide

theorem test_illFormed_threads : refusedOn false [
    .bankretComplete 131072, .wwaitWake 131072, .gangForm 131072, .guessEnd 131072, .windowStart 131072, .specCommit 131072,
    .taskDispatch 131072 0 0 0, .taskDispatch 0 32 0 0, .taskDispatch 0 0 16777216 0, .contextSave 131072, .contextResume 131072 0] = true := by
  decide

theorem test_illFormed_regions : refusedOn false [
    .wheelSwap 32, .translationWalkEnd 32 0 false, .gatherIndex 32 0, .appendPerform 32 0, .replayStall 32, .logmodeWrite 32 0,
    .logptrTailWrite 32 0, .evictionTest 32, .tcinvGo 32 0, .ptrootWrite 32 0, .regionReset 32 true 0, .railFault 32, .clockFault 32,
    .windowWrite 32 0 0 0, .windowWrite 0 4 0 0, .windowWrite 0 0 2 0, .rgintClear 32 0, .cutStart 32 0, .cutResend 32, .clockRequest 32 0,
    .clockStepBegin 32, .clockStepEnd 32, .unresolvedPageFault 32, .registerWrite .region 32 0 0, .registerWrite .cluster 128 0 0,
    .registerWrite .debug 8192 0 0, .registerWrite .vf 32 0 0, .registerWrite .queue 16384 0 0] = true := by
  decide

theorem test_illFormed_others : refusedOn false [
    .chunkStart 168 0, .chunkComplete 168 0, .commandEnd 168 0, .queueNotify 16384 0, .recordFetch 16384, .recordRefetch 16384,
    .submissionCheck 32 0, .submissionCheck 0 16777216, .qctlWrite 16384 false 0, .qerrClear 16384 0, .launchComplete 32 0,
    .launchComplete 0 16777216, .priorityAge 32 0, .priorityAge 0 16777216, .preempt 32 0, .preempt 0 16777216, .loadTableRefresh 128,
    .hbmStackFault 16, .collectiveEngineFault 8, .cutResum 32, .linkEnable 16 0, .linkUp 16 0, .laneFault 16, .breakpointWrite 16 0 0,
    .breakpointWrite 0 2 0, .triggerPulse 8 0, .triggerPulse 0 64, .trigin 4, .getVersion 33, .getCapabilities 33, .negotiateAlgorithms 33,
    .getDigests 33, .getCertificate 33, .challenge 33, .getMeasurements 33 0] = true := by
  decide

/-- A KJ-PX9C has half the units (R1, Table 00-1). -/
theorem test_illFormed_partC : refusedOn true [
    .issueTurn 4096, .wheelSwap 16, .loadTableRefresh 64, .hbmStackFault 8, .collectiveEngineFault 4, .linkUp 8 0, .cutResum 16,
    .contextSave 65536] = true ∧ (Instr.issueTurn 4095).wellFormed true = true := by
  decide

/-! Decoding: for each major, words written out from its encoding with every field at a value of its own. -/

def decodes (l : List (BitVec 32 × Instr)) : Bool := l.all (fun p => match decode p.1 with | .ok i => decide (i = p.2) | .error _ => false)

theorem test_decode_major_01 : decodes [
    (0x06FD8000#32, .add 23 29 16),
    (0x0604D801#32, .sub 16 4 27),
    (0x072F1002#32, .mul 25 15 2),
    (0x04566803#32, .mulh 2 22 13),
    (0x0571A004#32, .mulhu 11 17 20),
    (0x0698F805#32, .div 20 24 31),
    (0x07A33006#32, .divu 29 3 6),
    (0x04CA0807#32, .rem 6 10 1),
    (0x05F54008#32, .remu 15 21 8),
    (0x051C9810#32, .and 8 28 19),
    (0x0627D011#32, .or 17 7 26),
    (0x074E2812#32, .xor 26 14 5),
    (0x04696018#32, .shl 3 9 12),
    (0x0590B819#32, .shr 12 16 23),
    (0x06BBF01A#32, .sar 21 27 30),
    (0x07C2C81B#32, .rol 30 2 25),
    (0x04ED0820#32, .min 7 13 1),
    (0x04345821#32, .max 1 20 11),
    (0x053F9022#32, .minu 9 31 18),
    (0x0646E823#32, .maxu 18 6 29),
    (0x07610028#32, .clz 27 1),
    (0x04880029#32, .ctz 4 8),
    (0x05B3002A#32, .popc 13 19),
    (0x06DA002B#32, .bswap 22 26)] = true := by decide

theorem test_decode_major_02 : decodes [
    (0x0BE55B38#32, .addi 31 5 23352)] = true := by decide

theorem test_decode_major_03 : decodes [
    (0x0F0C5B43#32, .andi 24 12 23363)] = true := by decide

theorem test_decode_major_04 : decodes [
    (0x10375B4A#32, .ori 1 23 23370)] = true := by decide

theorem test_decode_major_05 : decodes [
    (0x155E5B55#32, .xori 10 30 23381)] = true := by decide

theorem test_decode_major_06 : decodes [
    (0x1A79001C#32, .shli 19 25 28),
    (0x1B814027#32, .shri 28 1 39),
    (0x18AB802E#32, .sari 5 11 46)] = true := by decide

theorem test_decode_major_07 : decodes [
    (0x1DD2DCD2#32, .limm 14 1236178)] = true := by decide

theorem test_decode_major_08 : decodes [
    (0x22E15B70#32, .limmh 23 1 23408)] = true := by decide

theorem test_decode_major_09 : decodes [
    (0x26047B78#32, .bext 16 4 123 120),
    (0x272F827F#32, .bins 25 15 2 127)] = true := by decide

theorem test_decode_major_0A : decodes [
    (0x28566800#32, .cmpeq 2 22 13),
    (0x2971A001#32, .cmplt 11 17 20),
    (0x2A98F802#32, .cmpltu 20 24 31),
    (0x2BA336C3#32, .sel 29 3 6 27)] = true := by decide

theorem test_decode_major_10 : decodes [
    (0x4096E0A6#32, .b 9887910)] = true := by decide

theorem test_decode_major_11 : decodes [
    (0x4496E0AF#32, .bl 9887919)] = true := by decide

theorem test_decode_major_12 : decodes [
    (0x491C1AB3#32, .beq 8 28 6835),
    (0x4A273ABA#32, .bne 17 7 6842),
    (0x4B4E5AC5#32, .blt 26 14 6853),
    (0x48697ACC#32, .bge 3 9 6860),
    (0x49909AD7#32, .bltu 12 16 6871),
    (0x4ABBBADE#32, .bgeu 21 27 6878)] = true := by decide

theorem test_decode_major_13 : decodes [
    (0x4C1E0000#32, .br 30),
    (0x4C070001#32, .blr 7)] = true := by decide

theorem test_decode_major_14 : decodes [
    (0x50000000#32, .nop),
    (0x500001E9#32, .yield 233),
    (0x50000200#32, .texit),
    (0x53601041#32, .mfs 27 65),
    (0x50041148#32, .mts 4 72)] = true := by decide

theorem test_decode_major_15 : decodes [
    (0x55B3B2E0#32, .repf 13 19 22 11 8)] = true := by decide

theorem test_decode_major_16 : decodes [
    (0x581600BA#32, .trap 22 186),
    (0x5800013F#32, .brk 63)] = true := by decide

theorem test_decode_major_18 : decodes [
    (0x630C0A23#32, .ldB 24 12 2595),
    (0x60371A2A#32, .ldH 1 23 2602),
    (0x615E2A35#32, .ldW 10 30 2613),
    (0x62793A3C#32, .ldD 19 25 2620),
    (0x63814A47#32, .ldBs 28 1 2631),
    (0x60AB5A4E#32, .ldHs 5 11 2638),
    (0x61D26A49#32, .ldWs 14 18 2633),
    (0x62FD8A50#32, .ldCvt 23 29 2640)] = true := by decide

theorem test_decode_major_19 : decodes [
    (0x66040A5B#32, .stB 16 4 2651),
    (0x672F1A62#32, .stH 25 15 2658),
    (0x64562A6D#32, .stW 2 22 2669),
    (0x65713A74#32, .stD 11 17 2676),
    (0x66988A7F#32, .stCvt 20 24 2687),
    (0x67A3C986#32, .stCvtSat 29 3 2438)] = true := by decide

theorem test_decode_major_1A : decodes [
    (0x68CA0981#32, .ldf 6 10 2433),
    (0x69F51988#32, .ldfe 15 21 2440),
    (0x691C2993#32, .stf 8 28 2451),
    (0x6A27399A#32, .stff 17 7 2458),
    (0x681A4E2E#32, .sete 26 3630),
    (0x68035E29#32, .setf 3 3625)] = true := by decide

theorem test_decode_major_1B : decodes [
    (0x6D90B810#32, .amoAdd 12 16 23 1),
    (0x6EBBF011#32, .amoMin 21 27 30 1),
    (0x6FC2C812#32, .amoMax 30 2 25 1),
    (0x6CED0813#32, .amoMinu 7 13 1 1),
    (0x6C345814#32, .amoMaxu 1 20 11 1),
    (0x6D3F9015#32, .amoSwap 9 31 18 1),
    (0x6E46E816#32, .amoCas 18 6 29 1),
    (0x6F612017#32, .amoAnd 27 1 4 1),
    (0x6C887818#32, .amoOr 4 8 15 1),
    (0x6DB3B019#32, .amoXor 13 19 22 1),
    (0x6EDA880A#32, .amoFadd 22 26 17)] = true := by decide

theorem test_decode_major_1C : decodes [
    (0x73E509F8#32, .syncarm 31 5 2552),
    (0x730C1903#32, .syncadd 24 12 2307),
    (0x7037290A#32, .waitgen 1 23 2314)] = true := by decide

theorem test_decode_major_1D : decodes [
    (0x74000000#32, .rlx)] = true := by decide

theorem test_decode_major_1E : decodes [
    (0x7A79001C#32, .padd 19 25 28),
    (0x7B810127#32, .paddImm 28 1 39),
    (0x78AB0206#32, .pset 5 11 6),
    (0x79D2090A#32, .pfmt 14 18 1 10),
    (0x7AE51001#32, .segrd 23 5 1),
    (0x7A042B38#32, .probe 16 4 11 56),
    (0x782FC21F#32, .segnar 1 15 2 31)] = true := by decide

theorem test_decode_major_1F : decodes [
    (0x7C5605A6#32, .bld 2 22 1 422),
    (0x7D7115AD#32, .bst 11 17 1 429),
    (0x7E98295F#32, .wphase 20 24 2399),
    (0x7C1D3EE3#32, .wwait 29 3811),
    (0x7CC040A1#32, .bmaprd 6 2 33)] = true := by decide

theorem test_decode_major_20 : decodes [
    (0x80EA12A5#32, .vadd 3 5 8 9 10 2 1),
    (0x8164E057#32, .vsub 1 4 19 16 5 3 1),
    (0x827EAFC3#32, .vmul 1 7 26 23 28 1 1),
    (0x83B17D73#32, .vfma 2 6 5 30 23 1 1)] = true := by decide

theorem test_decode_major_21 : decodes [
    (0x841A585D#32, .vmin 3 9 12 5 6 1),
    (0x842C2EC3#32, .vmax 1 16 23 12 1 1),
    (0x844EFC06#32, .vabs 1 27 30 3),
    (0x8470B204#32, .vneg 2 2 25 2),
    (0x8481DA13#32, .vand 7 13 1 1 1),
    (0x84A068B3#32, .vor 1 20 11 1 1),
    (0x84C27F2F#32, .vxor 9 31 18 7 1),
    (0x84E48DDD#32, .vshl 18 6 29 6 1),
    (0x851849DD#32, .vshr 3 1 4 29 6 1),
    (0x85285E43#32, .vcmpEq 1 1 15 4 1 1),
    (0x8548ECB3#32, .vcmpLt 1 3 22 11 1 1),
    (0x8570A327#32, .vcmpLe 2 2 17 18 3 1),
    (0x85997195#32, .vcmpUnord 3 5 24 25 2 1),
    (0x85A61833#32, .vsel 24 12 3 1 1),
    (0x85C06EA1#32, .vperm 1 23 10 1),
    (0x85F7815D#32, .vbcast 2 30 21 6),
    (0x8604F3C1#32, .vins 19 25 28),
    (0x86270270#32, .vext 28 1 7),
    (0x864ADC32#32, .vred 1 11 14 3 1),
    (0x867492A6#32, .vdot 2 18 9 10 3),
    (0x8685FB03#32, .vdotb 23 29 16 1),
    (0x86A93656#32, .vscan 1 4 27 1 1 3),
    (0x86CBC438#32, .vtopk 1 15 2 3 4)] = true := by decide

theorem test_decode_major_22 : decodes [
    (0x8800ACDD#32, .vld 2 22 13 6),
    (0x8842E34B#32, .vst 11 17 20 5),
    (0x888531F9#32, .vlds 20 24 31 4),
    (0x88C74667#32, .vsts 29 3 6 3),
    (0x89019415#32, .vgath 6 10 1 2),
    (0x8943EA83#32, .vscat 15 21 8 1)] = true := by decide

theorem test_decode_major_23 : decodes [
    (0x8E2CE057#32, .vcvtFromF32 1 1 19 16 5 3 1),
    (0x8F3EAFC2#32, .vcvtToF32 1 3 26 23 28 1),
    (0x8D438A6E#32, .vsf 10 14 5 6 7)] = true := by decide

theorem test_decode_major_24 : decodes [
    (0x90610004#32, .kand 3 1 4),
    (0x90810107#32, .kor 4 1 7),
    (0x90A30200#32, .knot 5 3),
    (0x90C20300#32, .kmovKk 6 2),
    (0x90ED0400#32, .kmovKs 7 13),
    (0x90240500#32, .kmovSk 1 4),
    (0x91270600#32, .kpop 9 7),
    (0x90001000#32, .vfence)] = true := by decide

theorem test_decode_major_25 : decodes [
    (0x940001B1#32, .hsend 27),
    (0x94090000#32, .hrecv 4),
    (0x94101A00#32, .hsendv 13),
    (0x941D8000#32, .hrecvv 22),
    (0x9427CB81#32, .xscan 31 5 24)] = true := by decide

theorem test_decode_major_28 : decodes [
    (0xA300000B#32, .oclaim 24 1 3),
    (0xA0200088#32, .oclaimAny 1 1),
    (0xA000010E#32, .orelease 1 6),
    (0xA079021C#32, .ofill 3 25 28),
    (0xA0810327#32, .odrain 4 1 39),
    (0xA0050800#32, .skset 5),
    (0xA00010EE#32, .gang 238),
    (0xA0001100#32, .ungang),
    (0xA0002001#32, .accz 1),
    (0xA0192101#32, .accld 25 1),
    (0xA05622EF#32, .accst 2 22 1 6 7 1),
    (0xA16023C7#32, .accrd 11 49 1 1),
    (0xA2984FF9#32, .mma 20 24 15 1 1 7 1),
    (0xA3A356E1#32, .mmas 29 3 6 1 1 4 1),
    (0xA0CA61EE#32, .mmaJ 6 10 1 1 1 5 6),
    (0xA1F578D7#32, .mmasJ 15 21 8 1 1 2 7)] = true := by decide

theorem test_decode_major_29 : decodes [
    (0xA51C01B0#32, .send 8 28 1 176),
    (0xA6270200#32, .recv 17 7),
    (0xA74E0300#32, .recvp 26 14),
    (0xA46909A5#32, .rst 3 9 1 165),
    (0xA5900DAC#32, .rstV 12 16 1 172),
    (0xA6BB1293#32, .rld 21 27 2 147),
    (0xA7C23A1B#32, .ramo 30 2 1 10 27),
    (0xA4ED4181#32, .amsg 7 13 1 129),
    (0xA4004800#32, .hret)] = true := by decide

theorem test_decode_major_2A : decodes [
    (0xA93F0002#32, .epush 9 31 2),
    (0xAA400102#32, .epop 18 2),
    (0xAB600201#32, .epoll 27 1),
    (0xA8040301#32, .ecfg 4 1)] = true := by decide

theorem test_decode_major_2B : decodes [
    (0xAC000053#32, .fence 5 3),
    (0xAC000003#32, .fenceNet),
    (0xAC000170#32, .icsync 7)] = true := by decide

theorem test_decode_major_2C : decodes [
    (0xB0000000#32, .spece),
    (0xB0000100#32, .spcmp),
    (0xB0000200#32, .spabort),
    (0xB2790300#32, .spappend 19 25),
    (0xB3800401#32, .spstat 28 1),
    (0xB0AB6D44#32, .specb 5 11 2 3 1 68)] = true := by decide

theorem test_decode_major_2D : decodes [
    (0xB40E0072#32, .logmark 14 114)] = true := by decide

theorem test_decode_major_2E : decodes [
    (0xBAFD0000#32, .launch 23 29),
    (0xBA040100#32, .migrate 16 4)] = true := by decide

theorem test_decode_major_2F : decodes [
    (0xBC2F0100#32, .segset 1 15),
    (0xBC020200#32, .wheelset 2),
    (0xBD610334#32, .bankret 11 1 52),
    (0xBE980800#32, .logctlRead 20 24),
    (0xBFA30801#32, .logctlRing 29 3),
    (0xBCCA0802#32, .logctlMode 6 10),
    (0xBDF50803#32, .logctlTail 15 21),
    (0xBD1C0804#32, .logctlHead 8 28),
    (0xBE27100A#32, .ctxsave 17 7 10),
    (0xBF4E1100#32, .ctxload 26 14),
    (0xBC601200#32, .colour 3),
    (0xBD901300#32, .wakeResume 12 16),
    (0xBEBB1301#32, .wakeFault 21 27),
    (0xBFC21302#32, .wakeAbandon 30 2)] = true := by decide

theorem test_decode_major_30 : decodes [
    (0xC0ED0808#32, .fadd 7 13 1 1),
    (0xC0345809#32, .fmul 1 20 11 1),
    (0xC13F93E2#32, .ffma 9 31 18 15 4),
    (0xC246ED83#32, .fcmp 18 6 29 22),
    (0xC3612774#32, .fcvt 27 1 4 29 6)] = true := by decide

theorem test_decode_major_31 : decodes [
    (0xC40A1E08#32, .vscanlr 1 8 15 4)] = true := by decide
/-! Witnesses: for each statement with hypotheses, states and operands that meet those of each of its clauses, at the bounds of their ranges. -/

theorem witness_DivisionNeverTraps :
    (withS [(1, 5)]).rdS 2 = 0 ∧
    ((withS [(1, 0x8000000000000000), (2, 0xFFFFFFFFFFFFFFFF)]).rdS 1).toInt = -2 ^ 63 ∧
    ((withS [(1, 0x8000000000000000), (2, 0xFFFFFFFFFFFFFFFF)]).rdS 2).toInt = -1 ∧
    (withS [(1, 0x8000000000000000), (2, 1)]).rdS 2 ≠ 0 ∧ ((withS [(1, 0x8000000000000000), (2, 1)]).rdS 2).toInt ≠ -1 := by decide

theorem witness_ScalarFloat :
    (let r : BitVec 3 := 7
     r ≠ 4 ∧ r ≠ 5 ∧ r ≠ 6) ∧
    (let r : BitVec 3 := 4; let k : BitVec 5 := 24; let b : BitVec 5 := 1
     r ≠ 5 ∧ r ≠ 6 ∧ k.toNat % 16 < 12 ∧ (16 ≤ k.toNat → k.toNat % 16 ∈ [4, 6, 8, 10]) ∧ (b ≠ 0 → k.toNat % 16 ∈ [8, 9]) ∧
      (k.toNat % 16 ∈ [8, 9] → b.toNat % 8 ≠ 0)) ∧
    (let r : BitVec 3 := 0; let k : BitVec 5 := 11; let b : BitVec 5 := 0
     r ≠ 5 ∧ r ≠ 6 ∧ k.toNat % 16 < 12 ∧ (16 ≤ k.toNat → k.toNat % 16 ∈ [4, 6, 8, 10]) ∧ (b ≠ 0 → k.toNat % 16 ∈ [8, 9]) ∧
      (k.toNat % 16 ∈ [8, 9] → b.toNat % 8 ≠ 0)) ∧
    (withS []).TrapsAlone := ⟨by decide, by decide, by decide, alone _ (by decide)⟩

theorem witness_FloatCompare :
    (3#5).toNat < 4 ∧ f32 (((withS [(1, 0x7FC00000)]).rdS 1).setWidth 32) = .nan ∧
    f32 (((withS [(1, 0x80000000)]).rdS 1).setWidth 32) ≠ .nan ∧ 4 ≤ (4#5).toNat ∧ (withS []).TrapsAlone :=
  ⟨by decide, by decide, by decide, by decide, alone _ (by decide)⟩

/-- A gang of threads 0 and 16: this is the follower, on core 1. -/
def follower : State := { State.reset with
  cur := 16
  th := { st := .ready, en := { gangN := 2, leader := 0 } }
  threads := [(0, { st := .ready, r := { pc := 64 }, en := { gangN := 2, leader := 0 } })] }

theorem witness_BranchForms :
    (withS []).th.en.gangN = 0 ∧ ((withS [(1, 8)]).rdS 1).toNat % 4 = 0 ∧ ((withS [(1, 6)]).rdS 1).toNat % 4 ≠ 0 ∧
    (withS [(1, 6)]).TrapsAlone ∧ (withS [(1, 5)]).rdS 1 ≠ (withS [(1, 5)]).rdS 2 ∧
    (follower.th.en.gangN ≠ 0 ∧ follower.th.en.leader ≠ follower.cur ∧ follower.th.r.rep.act = false) :=
  ⟨by decide, by decide, by decide, alone _ (by decide), by decide, by decide⟩

theorem witness_StateRegisters :
    (withS []).stateReg 0x00 = some 0 ∧ ((withS [(1, 15)]).rdS 1).toNat < 16 ∧ ((withS [(1, 4)]).rdS 1).toNat < 5 ∧
    16 ≤ ((withS [(1, 16)]).rdS 1).toNat ∧ 5 ≤ ((withS [(1, 5)]).rdS 1).toNat ∧ 0x0B ∉ [0x08, 0x09, 0x0A] ∧
    (withS [(1, 16)]).TrapsAlone ∧ (withS [(1, 5)]).TrapsAlone :=
  ⟨rfl, by decide, by decide, by decide, by decide, by decide, alone _ (by decide), alone _ (by decide)⟩

theorem witness_QuietFormsAndFrames :
    (1#5) ≠ 0 ∧ (withS []).TrapsAlone ∧
    (let r : Regs := { pc := 8, rep := { act := true, idx := 0, lenm1 := 1, nm1 := 1 } }
     r.rep.act = true ∧ r.rep.idx < r.rep.lenm1) ∧
    (let r : Regs := { pc := 12, rep := { act := true, idx := 1, lenm1 := 1, nm1 := 1 } }
     r.rep.act = true ∧ r.rep.idx = r.rep.lenm1 ∧ r.rep.pass < r.rep.nm1) ∧
    (let r : Regs := { pc := 12, rep := { act := true, idx := 1, lenm1 := 1, pass := 1, nm1 := 1 } }
     r.rep.act = true ∧ r.rep.idx = r.rep.lenm1 ∧ r.rep.nm1 ≤ r.rep.pass) :=
  ⟨by decide, alone _ (by decide), by decide, by decide, by decide⟩

theorem witness_TrapsTaken : (withS []).TrapsAlone ∧ (withS []).th.is.rlx = false ∧ (withS []).th.r.rep.act = false :=
  ⟨alone _ (by decide), rfl, rfl⟩

/-- A thread with a 64 KiB page of region memory at DVA 0 behind g0, in the region's translation cache. -/
def paged (l : SMap Word) : State := { withG l (segMake 0 65536 3 0x3D 0 0 0 0 0) with
  regions := [(0, { ptroot := 1, tcache := [{ base := 0, shift := 16, pa := 0x20000, w := true, d := true, rem := false, pte := hbmKey 0 }] })] }

theorem paged_calm (l : SMap Word) : (paged l).Calm := by
  refine ⟨(by decide : SlotSt.ready ≠ SlotSt.saving), rfl, rfl, rfl, rfl, rfl, rfl, rfl, rfl, rfl, fun r => ?_⟩
  show (SMap.get ({} : Region) [(0, _)] r).log.mode = 0
  unfold SMap.get; split <;> rfl

theorem witness_Pointers :
    (let s := withS [(1, 0x000FFFFFFFFFFFFF), (2, 1)]
     s.TrapsAlone ∧ 2 ^ 52 ≤ (s.rdS 1).toNat % 2 ^ 52 + (s.rdS 2).toInt ∧
     0 ≤ (s.rdS 1).toNat % 2 ^ 52 + (s.rdS 3).toInt ∧ (s.rdS 1).toNat % 2 ^ 52 + (s.rdS 3).toInt < 2 ^ 52 ∧
     (s.rdS 3).toNat % 2 ^ 52 + (-1#8).toInt < 0) ∧
    (let s := withG [(1, 128), (2, 196480)] lsAll
     (s.rdS 1).toNat ≤ segLimit (s.rdG 0) ∧ (s.rdS 2).toNat ≤ segLimit (s.rdG 0) - (s.rdS 1).toNat ∧
     (segBase (s.rdG 0) + (s.rdS 1).toNat) % 128 = 0 ∧ segBase (s.rdG 0) + (s.rdS 1).toNat < 2 ^ 56) ∧
    (let s := withG [(1, 128), (2, 196481)] lsAll
     s.TrapsAlone ∧ segLimit (s.rdG 0) - (s.rdS 1).toNat < (s.rdS 2).toNat) ∧
    (let s := State.privileged (withG [(1, 196576)] lsAll)
     s.th.id.priv = true ∧ s.Reaches (s.rdS 1) 0 32 32 rR anySpace false 196576 s ∧ s.Calm ∧
     isLs 196576 = true ∧ s.segValid s.clusterNo (taskVf s.th.id.task) (BitVec.ofNat 256 (s.readLE 196576 32)) = true) ∧
    (let s := State.privileged (paged [(1, 65504)])
     s.th.id.priv = true ∧ s.Calm ∧ isLs (hbmKey 0x2FFE0) = false ∧ hbmKey 0x2FFE0 % 32 = 0 ∧
     s.Reaches (s.rdS 1) 0 32 32 rR anySpace false (hbmKey 0x2FFE0) s) ∧
    (let s := went (State.privileged (withG [] lsAll)) [{ pieces := [(0, 32)] }, { bytes := leBytes 32 lsAll.toNat }]
     s.th.id.priv = true ∧ s.WentOn [{ pieces := [(0, 32)] }, { bytes := leBytes 32 lsAll.toNat }] ∧
     s.segValid s.clusterNo (taskVf s.th.id.task) (BitVec.ofNat 256 (leNat (leBytes 32 lsAll.toNat))) = true) ∧
    (12#4).toNat ≤ 12 ∧ (paged []).probeMisses 0 4096 rR = none ∧
    (let s : State := { paged [] with regions := [(0, { ptroot := 1 })] }
     s.probeMisses 65534 2 rR = some (0, [65534]) ∧ s.th.w.acc.redo = false ∧ s.th.st ≠ .saving) :=
  ⟨⟨alone _ (by decide), by decide⟩, by decide, ⟨alone _ (by decide), by decide⟩,
   ⟨rfl, ⟨_, rfl, rfl⟩, calm _ (by decide), by decide⟩, ⟨rfl, paged_calm [(1, 65504)], by decide, by decide, ⟨_, rfl, runEq (by decide)⟩⟩,
   ⟨rfl, went_on _ _ rfl (by decide), by decide⟩, by decide, by decide, by decide⟩

/-- The same with scale bytes from byte 256 on. -/
def pagedF (l : SMap Word) : State := { paged l with th := { (paged l).th with r := { (paged l).th.r with g := [(0, segMake 0 65536 3 0x3D 256 0 0 0 0)] } } }

theorem pagedF_calm (l : SMap Word) : (pagedF l).Calm := paged_calm l

theorem witness_LoadsAndStores :
    (let s := withG [(1, 196600)] lsAll
     s.Calm ∧ s.Reaches (s.rdS 1) ((7#12).toInt * 1) 1 1 rR anySpace false 196607 s ∧
     s.Reaches (s.rdS 1) ((3#12).toInt * 2) 2 2 rR anySpace false 196606 s ∧
     s.Reaches (s.rdS 1) ((1#12).toInt * 4) 4 4 rR anySpace false 196604 s ∧ s.Reaches (s.rdS 1) ((0#12).toInt * 8) 8 8 rR anySpace false 196600 s ∧
     s.Reaches (s.rdS 1) ((-1#12).toInt * 8) 8 8 rW anySpace true 196592 s) ∧
    (let s := paged [(1, 65528)]
     s.Calm ∧ s.Reaches (s.rdS 1) ((0#12).toInt * 8) 8 8 rR anySpace false (hbmKey 0x2FFF8) s ∧
     s.Reaches (s.rdS 1) ((0#12).toInt * 8) 8 8 rW anySpace true (hbmKey 0x2FFF8) s) ∧
    -- FMT 0x24 (binary8p4) with BL 0 and BL 3
    (let s := withG [(1, 0x90000000000000FF#64)] (segOf 0)
     s.Calm ∧ ptrBl (s.rdS 1) = 0 ∧ formatOf (ptrFmt (s.rdS 1)) ≠ .bytes ∧ formatOf (ptrFmt (s.rdS 1)) ≠ .reserved ∧
     s.Reaches (s.rdS 1) ((0#12).toInt * (formatOf (ptrFmt (s.rdS 1))).size) (formatOf (ptrFmt (s.rdS 1))).size
       (formatOf (ptrFmt (s.rdS 1))).size rR anySpace false 255 s ∧
     s.Reaches (s.rdS 1) ((0#12).toInt * (formatOf (ptrFmt (s.rdS 1))).size) (formatOf (ptrFmt (s.rdS 1))).size
       (formatOf (ptrFmt (s.rdS 1))).size rW anySpace true 255 s) ∧
    (let s := withG [(1, 0x91800000000000FF#64)] (segOf 0); let p := s.rdS 1; let f := formatOf (ptrFmt p); let n := f.size
     (∃ g, f = .flt g) ∧ ptrBl p ≠ 0 ∧ s.Calm ∧ ∃ l skey, let so := scaleOffset n (decide (f = .flt .e2m1)) (ptrBl p) (s.th.r.rdG (ptrSeg p)) l.eo
      (check p ((0#12).toInt * n) n n rR anySpace).run s = (.ok l, s) ∧ (check p ((0#12).toInt * n) n n (rR + rW) anySpace).run s = (.ok l, s) ∧
        s.limitOk s.clusterNo (s.th.r.rdG (ptrSeg p)) so 1 = true ∧ (placeOf l n rR false).run s = (.ok [(255, n)], s) ∧
        (placeOf l n rW true).run s = (.ok [(255, n)], s) ∧
        (placeOf { seg := s.th.r.rdG (ptrSeg p), eo := so, ptr := l.ptr } 1 rR false).run s = (.ok [(skey, 1)], s) ∧ isLs skey = true) ∧
    -- performed outside local store: a plain load, and a converting load of binary8p4 with BL 3 that has read its scale byte first
    (went (withG [] lsAll) [{ pieces := [(hbmKey 8, 8)] }, { bytes := [1, 2, 3, 4, 5, 6, 7, 8] }]).WentOn
      [{ pieces := [(hbmKey 8, 8)] }, { bytes := [1, 2, 3, 4, 5, 6, 7, 8] }] ∧
    (went (withG [] lsAll) [{ pieces := [(hbmKey 8, 1)] }, { pieces := [(hbmKey 128, 1)] }, { bytes := [7, 8] }]).WentOn
      [{ pieces := [(hbmKey 8, 1)] }, { pieces := [(hbmKey 128, 1)] }, { bytes := [7, 8] }] ∧
    (let s := pagedF [(1, 0x9180000000000010#64)]; let p := s.rdS 1; let f := formatOf (ptrFmt p); let n := f.size
     s.Calm ∧ ptrBl p ≠ 0 ∧ ∃ l, let so := scaleOffset n (decide (f = .flt .e2m1)) (ptrBl p) (s.th.r.rdG (ptrSeg p)) l.eo
      (check p ((0#12).toInt * n) n n (rR + rW) anySpace).run s = (.ok l, s) ∧ s.limitOk s.clusterNo (s.th.r.rdG (ptrSeg p)) so 1 = true ∧
        (placeOf l n rW true).run s = (.ok [(hbmKey 0x20010, n)], s) ∧
        (placeOf { seg := s.th.r.rdG (ptrSeg p), eo := so, ptr := l.ptr } 1 rR false).run s = (.ok [(hbmKey 0x20100, 1)], s) ∧
        isLs (hbmKey 0x20100) = false) :=
  ⟨⟨calm _ (by decide), ⟨_, rfl, rfl⟩, ⟨_, rfl, rfl⟩, ⟨_, rfl, rfl⟩, ⟨_, rfl, rfl⟩, ⟨_, rfl, rfl⟩⟩,
   ⟨paged_calm _, ⟨_, rfl, runEq (by decide)⟩, ⟨_, rfl, runEq (by decide)⟩⟩,
   ⟨calm _ (by decide), by decide, by decide, by decide, ⟨_, rfl, rfl⟩, ⟨_, rfl, rfl⟩⟩,
   ⟨⟨_, rfl⟩, by decide, calm _ (by decide), _, _, rfl, rfl, by decide, rfl, rfl, rfl, by decide⟩,
   went_on _ _ rfl (by decide), went_on _ _ rfl (by decide), ⟨pagedF_calm _, by decide, _, rfl, by decide, runEq (by decide), runEq (by decide), by decide⟩⟩

theorem witness_MemoryErrors :
    let s : State := { withG [(1, 196600)] lsAll with upsets := [(24575, 1)] }
    let u : State := { s with upsets := [(24575, 2)] }
    State.Calm { s with upsets := [] } ∧ s.Reaches (s.rdS 1) ((0#12).toInt * 8) 8 8 rR anySpace false 196600 s ∧
      u.Reaches (u.rdS 1) ((0#12).toInt * 8) 8 8 rR anySpace false 196600 u ∧ u.TrapsAlone :=
  ⟨calm _ (by decide), ⟨_, rfl, rfl⟩, ⟨_, rfl, rfl⟩, alone _ (by decide)⟩

/-- Table 06-1: an uncorrectable last word of the local store. -/
theorem test_uncorrectable_word :
    (match exec (.ldD 3 1 0) { withG [(1, 196600)] lsAll with upsets := [(24575, 2)] } with
      | .next t => decide (t.th.st = .frozen ∧ t.lastCode 0 = 0x0F ∧ (t.core 0).lserr = 0x00005FFF00010000 ∧ t.isPoison 196600 = true)
      | _ => false) = true := by decide

/-- Table 06-1: a corrected error with CE one below saturation. -/
theorem test_corrected_word :
    (match exec (.ldD 3 1 0) { withG [(1, 196600)] lsAll with upsets := [(24575, 1)], cores := [(0, { lserr := 0xFFFE })] } with
      | .next t => decide (t.th.st = .ready ∧ (t.core 0).lserr = 0x800000000000FFFF ∧ t.upsets = [])
      | _ => false) = true := by decide

theorem noWaiters (s : State) (h : s.threads = [] ∧ s.th.st = .ready) : s.NoWaiters := by
  intro k hk
  have e : k = s.cur := by
    have : s.threadKeys = [s.cur] := by unfold State.threadKeys; rw [h.1]; rfl
    rw [this] at hk; exact List.mem_singleton.1 hk
  intro hp
  rw [e, State.getT, if_pos rfl, h.2] at hp
  exact absurd hp (by decide)

theorem witness_Synchronisation :
    (let s : State := { withG [(1, 196600)] lsAll with full := [(24575, true)] }
     s.Calm ∧ s.NoWaiters ∧ s.isFull 196600 = true ∧ s.Reaches (s.rdS 1) ((0#12).toInt * 8) 8 8 rR only0 true 196600 s ∧
     s.Reaches (s.rdS 1) ((0#12).toInt * 8) 8 8 (rR + rW) only0 true 196600 s) ∧
    (let s : State := withG [(1, 196600)] lsAll
     s.Calm ∧ s.NoWaiters ∧ s.isFull 196600 = false ∧ s.Reaches (s.rdS 1) ((0#12).toInt * 8) 8 8 (rR + rW) only0 true 196600 s ∧
     s.Reaches (s.rdS 1) ((-1#12).toInt * 8) 8 8 rW only0 true 196592 s) ∧
    (let s : State := withG [(1, 196600)] lsAll
     s.Calm ∧ s.Reaches (s.rdS 1) 0 8 8 rA amoSpace true 196600 s ∧ s.Reaches (s.rdS 1) 0 4 4 rA amoSpace true 196600 s) ∧
    (let s := paged [(1, 65528)]
     s.Calm ∧ s.Reaches (s.rdS 1) 0 8 8 rA amoSpace true (hbmKey 0x2FFF8) s) ∧
    (let s : State := withG [(1, 196592), (2, 1)] lsAll
     s.Calm ∧ s.NoWaiters ∧ s.Reaches (s.rdS 1) ((0#12).toInt * 16) 16 16 (rR + rW) only012 true 196592 s ∧
     s.Reaches (s.rdS 1) ((0#12).toInt * 16) 16 16 rR only012 true 196592 s ∧ syncGen (s.readSync 196592) ≠ (s.rdS 2).toNat % 2 ^ 32) :=
  ⟨⟨calm _ (by decide), noWaiters _ (by decide), by decide, ⟨_, rfl, rfl⟩, ⟨_, rfl, rfl⟩⟩,
   ⟨calm _ (by decide), noWaiters _ (by decide), by decide, ⟨_, rfl, rfl⟩, ⟨_, rfl, rfl⟩⟩,
   ⟨calm _ (by decide), ⟨_, rfl, rfl⟩, ⟨_, rfl, rfl⟩⟩, ⟨paged_calm _, ⟨_, rfl, runEq (by decide)⟩⟩,
   ⟨calm _ (by decide), noWaiters _ (by decide), ⟨_, rfl, rfl⟩, ⟨_, rfl, rfl⟩, by decide⟩⟩

/-- v1: NaN in lane 0, -0 in lane 31, zero elsewhere. -/
def nanV : VReg := 0x80000000#32 ++ 0#960 ++ 0x7FC00000#32

theorem witness_VectorResults :
    (let t : BitVec 2 := 0; let r : BitVec 3 := 7
     t ≠ 3 ∧ r ≠ 4 ∧ r ≠ 5 ∧ r ≠ 6) ∧
    (withV [] []).TrapsAlone ∧ ((3#2) = 3 ∧ (1#3) ≠ 0) ∧ ((2#2) ≠ 3 ∧ (4#3) = 4) ∧
    FFmt.value .f32 (elemOf ((withV [] [(1, nanV)]).rdV 1) 32 0) = .nan ∧
    FFmt.value .f32 (elemOf ((withV [] [(1, nanV)]).rdV 1) 32 31) ≠ .nan :=
  ⟨by decide, alone _ (by decide), by decide, by decide, by decide, by decide⟩

theorem witness_MasksAndMoves : ((3#2) = 0 ∨ (3#2) = 3) ∧ (withV [] []).TrapsAlone ∧ ((1#2) = 1 ∨ (1#2) = 2) ∧ (3#2) ≠ 0 :=
  ⟨by decide, alone _ (by decide), by decide, by decide⟩

theorem witness_ReductionsAndScans :
    (withV [] []).TrapsAlone ∧ (0#2) ≠ 3 ∧ ((withV [] []).rdK 0).getLsbD 31 = true ∧
    (∃ e < 32, ((withV [] []).rdK 0).getLsbD e = true ∧ f32 (lane nanV e) = .nan) ∧
    (∀ e < 32, ((withV [] []).rdK 0).getLsbD e = true → f32 (lane 0 e) ≠ .nan) ∧
    (∃ sg ext p, formatOf (((withV [(2, 0x3F)] []).rdS 2).setWidth 6) = .flt (.b8 sg ext p)) ∧
    (∀ sg ext p, formatOf (((withV [(2, 0x20)] []).rdS 2).setWidth 6) ≠ .flt (.b8 sg ext p)) ∧
    (let d : BitVec 5 := 30; let a : BitVec 5 := 28
     d.toNat < 31 ∧ a.toNat < 31 ∧ d ≠ a + 1 ∧ a ≠ d + 1) ∧
    ((2#5) = (1#5) + 1) ∧ (1#5) = (0#5) + 1 :=
  ⟨alone _ (by decide), by decide, by decide, ⟨0, by decide, by decide, by decide⟩, by decide, ⟨_, _, _, rfl⟩,
   fun _ _ _ h => Format.noConfusion h, by decide, by decide, by decide⟩

theorem witness_VectorRanking :
    (let t : BitVec 2 := 3; let c : BitVec 2 := 2; let d : BitVec 5 := 30; let a : BitVec 5 := 30
     (t = 0 ∨ t = 3) ∧ c ≠ 3 ∧ d ≠ 31 ∧ a ≠ d + 1) ∧
    (withV [] []).TrapsAlone ∧ (31#5) = (30#5) + 1 ∧ (3#2) = 3 :=
  ⟨by decide, alone _ (by decide), by decide, by decide⟩

theorem witness_VectorConversions :
    (let r : BitVec 3 := 4; let q : BitVec 2 := 3; let x : BitVec 5 := 16; let d : BitVec 5 := 30; let a : BitVec 5 := 28
     r ≠ 5 ∧ r ≠ 6 ∧ q.toNat < (cvtFormat x).2.2.2 ∧ (x = 16 → d ≠ 31 ∧ a ≠ 31)) ∧
    (∃ g, specialFn (8#4).toNat = some g) ∧ (withV [] []).TrapsAlone ∧ (cvtFormat 24).2.2.2 ≤ (1#2).toNat ∧ 9 ≤ (9#4).toNat :=
  ⟨by decide, ⟨_, rfl⟩, alone _ (by decide), by decide, by decide⟩

/-- Lane 31 alone active under k1, with index 48 in v3 and the pointer s1 at the end of a segment of 256 bytes. -/
def lane31 (sx : Word) : State :=
  { State.reset with
    th := { st := .ready, r := { s := [(1, 64), (2, sx)], v := [(3, 47#32 ++ 0#992)], k := [(1, 0x80000000)], g := [(0, segOf 0)] } } }

theorem only31 : ∀ e < 32, (0x80000000#32).getLsbD e = true → e = 31 := by decide

/-- The same with the segment in the cluster's bank memory. -/
def lane31b (sx : Word) : State := { lane31 sx with th := { (lane31 sx).th with r := { (lane31 sx).th.r with g := [(0, segOf 1)] } } }

theorem witness_VectorMemory :
    (let s := lane31 64; let m := s.rdK 1
     s.Calm ∧ (∃ l, (check (s.rdS 1) (s.rdS 2).toInt 128 32 rR anySpace).run s = (.ok l, s)) ∧
     (∃ l, (check (s.rdS 1) (s.rdS 2).toInt 128 32 rW anySpace).run s = (.ok l, s)) ∧
     ∀ e < 32, m.getLsbD e = true → ∃ l, (check (s.rdS 1) ((s.rdS 2).toInt + 4 * e) 4 4 rR anySpace).run s = (.ok l, s) ∧
       (placeOf l 4 rR false).run s = (.ok [(128 + 4 * e, 4)], s)) ∧
    (let s := lane31 4; let m := s.rdK 1
     ∀ e < 32, m.getLsbD e = true → ∃ l, (check (s.rdS 1) (e * (s.rdS 2).toInt) 4 4 rW anySpace).run s = (.ok l, s) ∧
       (placeOf l 4 rW true).run s = (.ok [(64 + 4 * e, 4)], s)) ∧
    (let s := lane31 48; let idx := fun (e : Nat) => (lane (s.rdV 3) e).toInt
     (2#5) ≠ 31 ∧ (0 ≤ idx 31 ∧ idx 31 < ((s.rdS 2).toNat % 2 ^ 32 : Nat)) ∧
     ∃ l, (check (s.rdS 1) (4 * idx 31) 4 4 rW anySpace).run s = (.ok l, s) ∧ (placeOf l 4 rW true).run s = (.ok [(252, 4)], s)) ∧
    (let s := lane31b 4; let m := s.rdK 1
     s.Calm ∧ (List.range 32).filter (fun e => m.getLsbD e) = [31] ∧ isBank (bankKey 0 188) = true ∧
     ∃ l, (check (s.rdS 1) (31 * (s.rdS 2).toInt) 4 4 rW anySpace).run s = (.ok l, s) ∧ (placeOf l 4 rW true).run s = (.ok [(bankKey 0 188, 4)], s)) ∧
    (let s := went (lane31b 4) [{ pieces := [(bankKey 0 188, 4)] }, { bytes := [1, 2, 3, 4] }]
     s.WentOn ([31].map (fun _ => { pieces := [(bankKey 0 188, 4)] }) ++ [{ bytes := [1, 2, 3, 4] }])) ∧
    (withS []).vectorBusy 0 = false ∧
    (let s : State := { withS [] with cores := [(0, { u := { vcq := [{ who := 0, task := 0, regs := [1] }] } })] }
     s.vectorBusy s.cur = true ∧ s.th.st ≠ .saving) := by
  refine ⟨⟨calm _ (by decide), ⟨_, rfl⟩, ⟨_, rfl⟩, ?_⟩, ?_, ⟨by decide, by decide, ⟨_, rfl, rfl⟩⟩, ⟨calm _ (by decide), by decide, by decide, _, rfl, rfl⟩,
    went_on _ _ rfl (by decide), by decide, by decide⟩
  · intro e he h; rw [only31 e he h]; exact ⟨_, rfl, rfl⟩
  · show ∀ e < 32, (0x80000000#32).getLsbD e = true → ∃ l, (check ((lane31 4).rdS 1) (e * ((lane31 4).rdS 2).toInt) 4 4 rW anySpace).run (lane31 4) = _ ∧ _
    intro e he h; rw [only31 e he h]; exact ⟨_, rfl, rfl⟩

/-- A row of inner entries, and a wheel image (07, Table 07-3): 64 rows, four steps with owner codes 1, 2, 3 and 4, every inner row in port
order. -/
def innerRow : List Nat := List.range 64
def imageHead : List Byte :=
  [64, 4] ++ List.replicate 62 0 ++ [1, 1, 1, 1, 2, 2, 2, 2, 3, 3, 3, 3, 4, 4, 4, 4] ++ List.replicate 48 0
def wheelImage : List Byte := imageHead ++ (List.replicate 256 (innerRow.map (fun c => BitVec.ofNat 8 c))).flatten

theorem rowsOf_flatten (r : List Nat) (hr : r.length = 64) : ∀ n, rowsOf n (List.replicate n r).flatten = List.replicate n r
  | 0 => rfl
  | n + 1 => by
    rw [List.replicate_succ, List.flatten_cons, rowsOf, List.take_left' hr, List.drop_left' hr, rowsOf_flatten r hr n]

theorem wheelImage_length : wheelImage.length = 16512 := by
  unfold wheelImage
  rw [List.length_append, List.length_flatten, List.map_replicate, List.sum_replicate_nat]
  decide

theorem wheelImage_inner : ((wheelImage.drop 0x80).take (256 * 64)).map (fun x => x.toNat) = (List.replicate 256 innerRow).flatten := by
  unfold wheelImage
  rw [List.drop_left' (by decide), List.take_of_length_le, List.map_flatten, List.map_replicate, List.map_map]
  · rfl
  · rw [List.length_flatten, List.map_replicate, List.sum_replicate_nat]; decide

theorem wheelImage_valid : (wheelOf wheelImage).valid = true := by
  have h : (wheelOf wheelImage).inner = some (List.replicate 256 innerRow).flatten := by
    show some _ = _
    rw [← wheelImage_inner]; rfl
  have r : rowsOf (4 * (wheelOf wheelImage).pi) ((wheelOf wheelImage).inner.getD []) = List.replicate 256 innerRow := by
    rw [h]; exact rowsOf_flatten innerRow (by decide) 256
  unfold Wheel.valid
  rw [r, List.all_replicate]
  simp only [Bool.and_eq_true]
  exact ⟨⟨⟨by decide, by decide +kernel⟩, by decide +kernel⟩, by decide +kernel⟩

theorem wheelImage_head : wheelImage.take 128 = imageHead := List.take_left' (by decide)

/-- A privileged thread with bytes at the start of its local store. -/
def withLs (b : List Byte) : State := { State.privileged (withG [] lsAll) with mem := (State.reset.setBytes 0 b).mem }

theorem withLs_bytes (b : List Byte) : (withLs b).bytes 0 b.length = b := by
  have h : (withLs b).bytes 0 b.length = (State.reset.setBytes 0 b).bytes 0 b.length := State.bytes_congr (fun _ _ _ => rfl)
  rw [h, State.bytes_setBytes]

theorem bytes_take (s : State) : ∀ (n m k : Nat), n ≤ m → s.bytes k n = (s.bytes k m).take n
  | 0, _, _, _ => rfl
  | n + 1, m + 1, k, h => by
    show s.byte k :: s.bytes (k + 1) n = s.byte k :: (s.bytes (k + 1) m).take n
    rw [bytes_take s n m (k + 1) (Nat.le_of_succ_le_succ h)]

theorem withImage_bytes : (withLs wheelImage).bytes 0 16512 = wheelImage := by
  rw [← wheelImage_length]; exact withLs_bytes wheelImage

theorem withImage_head : (withLs wheelImage).bytes 0 128 = imageHead := by
  rw [bytes_take _ 128 16512 0 (by decide), withImage_bytes, wheelImage_head]

theorem image_reaches : (withLs wheelImage).Reaches ((withLs wheelImage).rdS 1) 0 128 64 rR anySpace false 0 (withLs wheelImage) ∧
    (withLs wheelImage).Reaches ((withLs wheelImage).rdS 1) 0 16512 64 rR anySpace false 0 (withLs wheelImage) := by
  refine ⟨⟨{ seg := lsAll, eo := 0, ptr := 0 }, ?_, ?_⟩, ⟨{ seg := lsAll, eo := 0, ptr := 0 }, ?_, ?_⟩⟩ <;> rfl
/-- Core 0 with one queued store of byte 0x5A at a key. -/
def queued (key : Nat) (placed : Bool) : RelReq :=
  { who := 0, task := 0, no := 0, pc := 0, ptr := 0, lseg := false, strong := false, placed := placed, cycle := 0, vec := false, via := 0, dst := none,
    op := .write [(key, 0x5A)] }
/-- The same with a strong read of the byte. -/
def asked (key : Nat) : RelReq := { queued key true with strong := true, op := .read [(key, 1)] }
def withCore (x : Core) : State := { withS [] with cores := [(0, x)] }

theorem witness_BankMemory :
    (let s := withG [(1, 224)] (segOf 1)
     s.Calm ∧ s.Reaches (s.rdS 1) ((0#10).toInt * 32) 32 32 rR only12 false (bankKey 0 224) s ∧
     s.Reaches (s.rdS 1) ((-7#10).toInt * 32) 32 32 rW only12 true (bankKey 0 0) s ∧
     ∃ l, (check (s.rdS 1) ((0#12).toInt * 32) 32 32 0 only12).run s = (.ok l, s)) ∧
    (let s := withG [(1, 224)] (segMake 0 256 2 0x3D 0 0 0 3 0)
     s.Reaches (s.rdS 1) ((0#10).toInt * 32) 32 32 rR only12 false (bankKey 3 224) s) ∧
    (let s := withLs wheelImage; let head := s.bytes 0 128; let n := 128 + 256 * (head.headD 0).toNat; let w := wheelOf (s.bytes 0 n)
     s.th.id.priv = true ∧ s.Reaches (s.rdS 1) 0 128 64 rR anySpace false 0 s ∧ headOk head = true ∧
     s.Reaches (s.rdS 1) 0 n 64 rR anySpace false 0 s ∧ w.valid = true ∧ s.Calm ∧
     0 < (s.region s.regionNo).wheel.pi * (s.region s.regionNo).wheel.po ∧ 0 < w.pi * w.po) ∧
    (let s : State := { withS [] with regions := [(31, { clock := 512, shadow := some {}, swapAt := 512 })] }
     (s.region 31).shadow = some {} ∧ (s.region 31).swapAt ≤ (s.region 31).clock) ∧
    (let s : State := { State.privileged (withS []) with clusters := [(0, { retired := [63] }), (1, { retired := List.range 32 })] }
     s.th.id.priv = true ∧ (s.cluster 0).retired.contains 63 = true ∧ (s.cluster 1).retired.contains 63 = false ∧
     64 - (s.cluster 1).retired.length ≤ 32 ∧ (s.cluster 0).retired.contains 0 = false ∧ ¬64 - (s.cluster 0).retired.length ≤ 32 ∧
     s.clusterIdle 0 = false ∧ ¬64 - (s.cluster 2).retired.length ≤ 32 ∧ (s.cluster 2).retired.contains 63 = false ∧ s.clusterIdle 2 = true) ∧
    (let s : State := { withS [] with threads := [(18, { st := .parked, w := { park := .bankret 31 3 63 } })] }
     (s.getT 18).w.park = .bankret 31 3 63 ∧ (s.getT 18).st = .parked) ∧
    bankKey 0 224 % 32 = 0 ∧
    (went (withG [] (segOf 1)) [{ pieces := [(bankKey 0 224, 32)] }, { bytes := List.replicate 32 7 }]).WentOn
      [{ pieces := [(bankKey 0 224, 32)] }, { bytes := List.replicate 32 7 }] ∧
    (let v : Got := { bytes := imageHead }; let w : Got := { bytes := wheelImage }; let n := 128 + 256 * (v.bytes.headD 0).toNat
     let s := went (State.privileged (withG [] lsAll)) [{}, v, {}, w]
     s.th.id.priv = true ∧ s.WentOn [{ pieces := [] }, v, { pieces := [] }, w] ∧ headOk v.bytes = true ∧
     s.limitOk s.clusterNo (s.th.r.rdG (ptrSeg (s.rdS 1))) (ptrOff (s.rdS 1)) n = true ∧ (wheelOf w.bytes).valid = true) ∧
    (let s := State.privileged (paged [])
     s.th.id.priv = true ∧ s.Calm ∧ isLs (hbmKey 0x20000) = false ∧
     ∃ l, (check (s.rdS 1) 0 128 64 rR anySpace).run s = (.ok l, s) ∧ (placeOf l 128 rR false).run s = (.ok [(hbmKey 0x20000, 128)], s)) := by
  refine ⟨⟨calm _ (by decide), ⟨_, rfl, rfl⟩, ⟨_, rfl, rfl⟩, _, rfl⟩, ⟨_, rfl, rfl⟩, ?_, by decide, by decide, by decide, by decide,
    went_on _ _ rfl (by decide), ⟨rfl, went_on _ _ rfl fun g hg => ?_, by decide, by decide, wheelImage_valid⟩,
    rfl, paged_calm [], by decide, _, rfl, runEq (by decide)⟩
  case refine_2 => simp only [List.mem_cons, List.not_mem_nil, or_false] at hg; rcases hg with rfl | rfl | rfl | rfl <;> rfl
  have h : 128 + 256 * ((((withLs wheelImage).bytes 0 128).headD 0)).toNat = 16512 := by rw [withImage_head]; decide
  refine ⟨rfl, image_reaches.1, ?_, ?_, ?_, calm _ (by decide), by decide, ?_⟩
  · show headOk ((withLs wheelImage).bytes 0 128) = true
    rw [withImage_head]; decide
  · show (withLs wheelImage).Reaches _ 0 (128 + 256 * ((((withLs wheelImage).bytes 0 128).headD 0)).toNat : Nat) _ _ _ _ _ _
    rw [h]; exact image_reaches.2
  · show (wheelOf ((withLs wheelImage).bytes 0 (128 + 256 * ((((withLs wheelImage).bytes 0 128).headD 0)).toNat))).valid = true
    rw [h, withImage_bytes]; exact wheelImage_valid
  · show 0 < (wheelOf ((withLs wheelImage).bytes 0 (128 + 256 * ((((withLs wheelImage).bytes 0 128).headD 0)).toNat))).pi *
      (wheelOf ((withLs wheelImage).bytes 0 (128 + 256 * ((((withLs wheelImage).bytes 0 128).headD 0)).toNat))).po
    rw [h, withImage_bytes]; decide

theorem oneCore (x : Core) (h : x.wheel = []) (k : Nat) : ((withCore x).core k).wheel = [] := by
  show (SMap.get ({} : Core) [(0, x)] k).wheel = []
  unfold SMap.get; split
  · exact h
  · rfl

theorem witness_CoreQueueEvents :
    (let q := queued 0 true; let r := asked 8; let s := withCore { seq := [q, r], mem := [queued (hbmKey 8) true] }; let t := withCore { seq := [r] }
     (s.core 0).seq = q :: [r] ∧ isLs q.op.key = true ∧ q.op = .write [(0, 0x5A)] ∧ q.strong = false ∧ s.poison = [] ∧ s.upsets = [] ∧ q.lseg = false ∧
     q.dst = none ∧ coreOf q.who = 0 ∧ (t.core 0).seq = r :: [] ∧ r.op = .read [(8, 1)] ∧ r.strong = true ∧ t.runs r.who r.task = true ∧
     (s.core 0).mem = [] ++ queued (hbmKey 8) true :: [] ∧ isLs (hbmKey 8) = false ∧ isBank (hbmKey 8) = false) ∧
    (let q := queued (bankKey 0 0) true; let y := { q with who := 1, cycle := 0 }; let s := withCore { wheel := [q, y] }
     let rg := s.region (regionOf 0)
     (s.core 0).wheel = [] ++ q :: [y] ∧ isLs q.op.key = false ∧ isBank q.op.key = true ∧ q.isFar = false ∧ (s.core 0).met ≤ rg.clock ∧
     q.placed = true ∧ q.cycle ≤ rg.clock ∧ s.reqBank q = (rg.wheelAt rg.clock).bank (clusterOf 0 % 4) (rg.clock % (rg.wheelAt rg.clock).pi) (0 % 64) ∧
     ¬(y.cycle < q.cycle ∨ (y.cycle = q.cycle ∧ y.who < q.who))) ∧
    (let s := withCore {}; (s.core 0).met ≤ (s.region 0).clock ∧ (s.core 0).wheel = []) ∧
    (let s := withCore { met := 1 }; (s.region 0).clock < (s.core 0).met) ∧
    (let q := queued (bankKey 1 0) true
     let s : State := { withCore { far := [q] } with regions := [(0, { clock := 128 })] }; let rg := s.region (regionOf 0)
     isLs q.op.key = false ∧ isBank q.op.key = true ∧ q.isFar = true ∧ (s.core 0).far = [] ++ q :: [] ∧ (s.core 0).farMet ≤ rg.clock ∧
     (s.core 0).met ≤ rg.clock ∧ q.placed = true ∧ q.cycle ≤ rg.clock ∧
     rg.meets (clusterOf 0 % 4) (keyCluster q.op.key % 4) (0 % 64) (s.reqBank q) rg.clock = true) ∧
    (∀ k, ((withCore { far := [queued (bankKey 1 0) true] }).core k).wheel = []) ∧
    -- a far read of core 0 that meets in the cycle in which a near store of core 64 does
    (let q := { asked (bankKey 1 0) with placed := true }; let y := { queued (bankKey 1 0) true with who := 1024 }
     let s : State := { withCore { far := [q] } with cores := [(0, { far := [q] }), (64, { wheel := [y] })], regions := [(0, { clock := 128 })] }
     let rg := s.region 0
     (s.core 0).far = [q] ∧ q.isFar = true ∧ rg.meets 0 (keyCluster q.op.key % 4) 0 (s.reqBank q) rg.clock = true ∧ q.strong = true ∧
     s.runs q.who q.task = true ∧ regionOf 64 = 0 ∧ (s.core 64).wheel = [y] ∧ (s.core 64).met ≤ rg.clock ∧ y.placed = true ∧ y.cycle ≤ rg.clock ∧
     s.reqBank y = (rg.wheelAt rg.clock).bank (clusterOf 64 % 4) (rg.clock % (rg.wheelAt rg.clock).pi) (64 % 64) ∧ y.strong = false ∧
     coreOf y.who = 64 ∧ y.isFar = false) ∧
    (let q := queued (bankKey 0 0) false; let l := List.replicate 31 (queued (bankKey 0 0) true); let s := withCore { wheel := l ++ [q] }
     (s.core 0).wheel = l ++ q :: [] ∧ q.placed = false ∧ placedOf q.who (s.core 0).wheel < 32 ∧
     ∀ y ∈ l, ¬(y.placed = false ∧ placedOf y.who (s.core 0).wheel < 32)) ∧
    (let q := queued (bankKey 1 0) false; let s := withCore { wheel := [queued (bankKey 0 0) true], far := [q] }
     (s.core 0).far = [] ++ q :: [] ∧ q.placed = false ∧ placedOf q.who (s.core 0).far < 32 ∧
     ∀ y ∈ (s.core 0).wheel, ¬(y.placed = false ∧ placedOf y.who (s.core 0).wheel < 32)) ∧
    (let q : UnitCmd := { who := 0, task := 0, regs := [31] }; let m : MxCmd := { who := 0, task := 0, acc := 1 }
     let s := withCore { u := { sfq := [q], intake := [m] } }
     (s.core 0).u.sfq = q :: [] ∧ s.runs q.who q.task = true ∧ (s.core 0).u.intake = m :: [] ∧ m.joint = [] ∧ m.ready = true) ∧
    (let s : State := { withS [(1, 63)] with regions := [(0, { clock := 63 })] }; let g := s.region 0
     s.th.st ≠ .saving ∧ (s.rdS 1 + BitVec.ofInt 64 (0#12).toInt).toNat % g.wheel.pi = 63 ∧ g.clock + 8 ≤ 127 ∧ 127 % (g.wheelAt 127).pi = 63) :=
  ⟨by decide, by decide, by decide, by decide, by decide, oneCore _ rfl, by decide, by decide, by decide, by decide, by decide⟩

theorem witness_EndsAndFences :
    (let s : State := { withS [] with cur := 14 }
     s.slotNo ≠ 15 ∧ s.th.sp.act = false ∧ s.th.sp.role = .none ∧ s.workDone s.cur .all = true ∧
     s.th.is.deferred = [] ∧ s.th.en.gangN = 0 ∧ s.th.st ≠ .saving ∧ s.workDone s.cur .reads = true ∧ s.th.w.hostDirty = false ∧
     s.netQuiet s.cur = true) ∧
    (let s := withCore { seq := [queued 0 true] }
     s.workDone s.cur .all = false ∧ s.workDone s.cur .writes = false ∧ s.workDone s.cur .reads = true ∧ s.workDone s.cur .accesses = false ∧
     s.th.st ≠ .saving) ∧
    ((5#3).toNat < 6 ∧ (2#2) ≠ 3 ∧ (2#2) ≠ 0) ∧ (withS []).TrapsAlone ∧
    (let s : State := { withS [] with th := { st := .ready, w := { hostDirty := true, posted := 1 } } }
     s.th.sp.role = .none ∧ s.workDone s.cur .accesses = true ∧ s.th.w.hostDirty = true ∧ s.netQuiet s.cur = false ∧ s.th.st ≠ .saving) ∧
    (let s : State := { withCore { flush := [0] } with th := { st := .parked, w := { park := .hostFlush } } }
     (s.core 0).flush = [0] ∧ (s.getT 0).st = .parked ∧ (s.getT 0).w.park = .hostFlush) :=
  ⟨by decide, by decide, by decide, alone _ (by decide), by decide, by decide⟩

/-- A task of a launch with a GANG level of width 8. -/
def ganging : State := { withS [] with launches := [(0, { phase := 2, levels := [{ domain := 7, cores := true, width := 8 }] })] }

theorem witness_Gangs :
    (let s := ganging
     (s.launchOf s.cur).levels.any (fun l => l.domain = 7 && l.cores && l.width = (8#8).toNat) = true ∧
     s.slotNo ≠ 15 ∧ s.th.sp.act = false ∧ s.th.sp.role = .none ∧ s.th.en.gangN = 0 ∧ s.th.st ≠ .saving ∧
     (∀ u ∈ s.threadKeys, u ≠ s.cur → ∀ m, s.gangWait u = some m → m = 8) ∧
     (s.launchOf s.cur).levels.any (fun l => l.domain = 7 && l.cores && l.width = (2#8).toNat) = false) ∧
    ganging.TrapsAlone ∧ ¬((3#8) = 2 ∨ (3#8) = 4 ∨ (3#8) = 8) ∧
    -- every other member waits; and one waits with another width
    (let s : State := { ganging with threads := [1, 2, 3, 4, 5, 6, 7].map (fun c => (16 * c, { st := .parked, w := { park := .gang 8 } })) }
     ∀ m ∈ gangMembers s.cur 8, m ≠ s.cur → s.gangWait m = some 8) ∧
    (let s : State := { ganging with threads := [(16, { st := .parked, w := { park := .gang 2 } })] }
     16 ∈ s.threadKeys ∧ 16 ≠ s.cur ∧ s.gangWait 16 = some 2 ∧ 16 ∈ gangMembers s.cur 8) ∧
    (let s : State := { ganging with
      th := { st := .parked, w := { park := .gang 2 } }, threads := [(16, { st := .parked, w := { park := .gang 2 } })] }
     (∀ m ∈ gangMembers 0 2, s.gangWait m = some 2) ∧ 0 ∈ gangMembers 0 2) ∧
    (let s := follower
     s.th.sp.role = .none ∧ s.th.en.gangN ≠ 0 ∧ s.cur ∈ gangMembers s.cur s.th.en.gangN ∧
     (∀ m ∈ gangMembers s.cur s.th.en.gangN, m ≠ s.cur → (s.getT m).is.delivered = none) ∧
     ∀ m ∈ gangMembers s.cur s.th.en.gangN, (s.getT m).en.gangN = s.th.en.gangN ∧ (s.getT m).en.leader = s.th.en.leader) ∧
    (let s : State := { follower with threads := [(0, { (follower.getT 0) with is := { delivered := some 0 } })] }
     0 ∈ gangMembers s.cur s.th.en.gangN ∧ 0 ≠ s.cur ∧ (s.getT 0).is.delivered ≠ none) := by
  refine ⟨⟨by decide, by decide, rfl, rfl, rfl, by decide, ?_, by decide⟩, alone _ (by decide), by decide, by decide, by decide, by decide, by decide, by decide⟩
  intro u hu hn
  exact absurd (List.mem_singleton.1 hu) hn

/-- Core 0 is first of the default chain; here its buffer, and that of core 8's slot 0, hold entries. -/
theorem witness_HalyardForms :
    (let s := withS []
     s.halPos = 0 ∧ s.halFull s.halNext = false ∧ s.slotNo ≠ 15 ∧ s.Calm) ∧
    (let s : State := { withS [] with cur := 16 * 63 }
     s.halPos ≠ 0 ∧ s.halBuf s.cur = [] ∧ s.Calm) ∧
    (let s : State := { withS [] with cur := 16 * 56 }
     s.halPos = 63) ∧
    (let e : HalEntry := { kind := 2, data := 1, launch := 0 }
     let s : State := { withS [] with cur := 16, cores := [(1, { u := { hal := [(0, [e])] } }), (2, { u := { hal := [(0, [e, e, e, e])] } })] }
     s.halPos ≠ 0 ∧ s.halBuf s.cur = e :: [] ∧ s.halFull s.halNext = true ∧ s.Calm) ∧
    (let e : HalEntry := { kind := 2, data := 1, launch := 0 }
     let s : State := { withS [] with cur := 16, cores := [(1, { u := { hal := [(0, [e])] } }), (2, { u := { hal := [(0, [e, e, e])] } })] }
     s.halBuf s.cur = e :: [] ∧ s.halFull s.halNext = false ∧ s.Calm) ∧
    (let s : State := { withS [] with cur := 15 }
     s.slotNo = 15 ∧ s.TrapsAlone) ∧
    (let f : HalFlit := { dst := 16 }; let s : State := { withS [] with hal := [f] }
     s.hal[0]? = some f ∧ (s.region (regionOf (coreOf f.dst))).cut.going = false ∧ (s.getT f.dst).st = .empty) ∧
    (let f : HalFlit := { dst := 0 }; let s : State := { withS [] with hal := [f] }
     s.hal[0]? = some f ∧ taskKey (s.getT f.dst).id.task = f.entry.launch) :=
  ⟨⟨by decide, by decide, by decide, calm _ (by decide)⟩, ⟨by decide, by decide, calm _ (by decide)⟩, by decide,
   ⟨by decide, by decide, by decide, calmCore _ (by decide)⟩, ⟨by decide, by decide, calmCore _ (by decide)⟩,
   ⟨by decide, alone _ (by decide)⟩, by decide, by decide⟩

/-- Slot 0 of core 0 holds operand slot 7, accumulator 0 and sk; slot 1 holds operand slot 0. -/
def holding (l : SMap Word) (g : BitVec 256) : State :=
  { withG l g with cores := [(0, { u := { hold := [(0, 2), (7, 1), (8, 1), (10, 1)] } })] }

theorem witness_ClaimsAndOperandMoves :
    (let s := holding [] lsAll; let u := (s.core s.coreNo).u
     s.slotNo ≠ 15 ∧ s.th.sp.role = .none ∧ u.holder 7 = s.slotNo + 1 ∧ u.holder 0 ≠ 0 ∧ u.holder 0 ≠ s.slotNo + 1 ∧ u.holder 1 = 0 ∧
     u.holder 10 = s.slotNo + 1 ∧ s.TrapsAlone ∧ (∀ y < 1, u.holder y ≠ 0) ∧ (2#3).toNat < 3) ∧
    (let s := withCore { u := { hold := [(8, 1), (9, 16)] } }; let u := (s.core s.coreNo).u
     ∀ x, x < 2 → u.holder (8 + x) ≠ 0) ∧
    (let s := holding [(1, 188416)] lsAll
     s.Calm ∧ s.coreNo < 8192 ∧ s.holds s.cur (7#3).toNat = true ∧ (s.TrapsAlone ∧ s.holds s.cur (0#3).toNat = false) ∧
     ∃ l, (checkFill (s.rdS 1) ((63#6).toNat + 1) rR).run s = (.ok l, s) ∧ isLs (lsKey s.coreNo (segBase l.el.seg + l.el.eo)) = true) ∧
    (let s := holding [(1, 0x9180000000000000)] (segMake 0 256 0 0x30 192 0 0 0 0)
     s.Calm ∧ s.coreNo < 8192 ∧ s.holds s.cur (7#3).toNat = true ∧ ∃ l, (checkFill (s.rdS 1) ((0#6).toNat + 1) rW).run s = (.ok l, s) ∧
       isLs (lsKey s.coreNo (segBase l.el.seg + l.el.eo)) = true) :=
  ⟨⟨by decide, by decide, by decide, by decide, by decide, by decide, by decide, aloneCore _ (by decide), by decide, by decide⟩,
   by decide, ⟨calmCore _ (by decide), by decide, by decide, ⟨aloneCore _ (by decide), by decide⟩, ⟨_, rfl, by decide⟩⟩,
   ⟨calmCore _ (by decide), by decide, by decide, ⟨_, rfl, by decide⟩⟩⟩

theorem witness_OperandMoves_performed :
    ∀ op ∈ [Micro.fill (7#3).toNat 8 [(lsKey 0 0, 128 * ((63#6).toNat + 1))] [(lsKey 0 8192, 8 * ((63#6).toNat + 1))],
        .fill (0#3).toNat 0 [(lsKey 0 188416, 128 * ((0#6).toNat + 1))] [(lsKey 0 0, 0 * ((0#6).toNat + 1))], .drain [(0, 1)]],
      let q : RelReq := { who := 0, task := 0, no := 1, pc := 0, ptr := 0, lseg := false, strong := false, placed := true, cycle := 0, vec := false,
                          via := 0, dst := none, op := op }
      let s : State := withCore { seq := [q, q] }
      (s.core s.coreNo).seq = q :: [q] ∧ isLs q.op.key = true ∧ coreOf q.who = s.coreNo ∧ s.poison = [] ∧ s.upsets = [] ∧ q ∈ s.relReqs s.cur ∧
        q.task = s.groupTask s.cur := by decide

/-- Slot 0 of core 0 holds operand slots 0 and 1, accumulator 0 and sk. -/
def matrixHolder (l : SMap Word) (g : BitVec 256) : State :=
  { withG l g with cores := [(0, { u := { hold := [(0, 1), (1, 1), (8, 1), (10, 1)] } })] }
/-- The leader of a gang of cores 0 and 1, whose members hold their operand slots and accumulators. -/
def matrixLeader : State :=
  { withS [] with
    th := { st := .ready, en := { gangN := 2, leader := 0 } }
    threads := [(16, { st := .ready, en := { gangN := 2, leader := 0 } })]
    cores := [(0, { u := { hold := [(0, 1), (1, 1), (8, 1), (10, 1)] } }), (1, { u := { hold := [(1, 1), (8, 1), (10, 1)] } })] }

theorem witness_MatrixMultiplies :
    (let s := matrixHolder [] lsAll
     s.th.sp.role = .none ∧ mmaFmt 6 31 15 = some (.flt (.b8 false false 7) (.b8 true false 7) true) ∧ mmaFmt 2 0 0 = some (.int true) ∧
     s.mmaFails s.cur (.int true) false [8 + (0#1).toNat, (0#3).toNat, (1#3).toNat] = none ∧
     s.mmaFails s.cur (.flt .e2m1 .e2m1 true) true [8 + (0#1).toNat, (0#3).toNat, (1#3).toNat] = none) ∧
    (let s := matrixLeader; let ms := gangMembers s.cur s.th.en.gangN; let lead := coreOf s.th.en.leader
     s.th.en.gangN ≠ 0 ∧ s.cur ∈ ms ∧ s.th.en.leader ∈ ms ∧ s.cur < 2 ^ 16 ∧ (∀ sparse ∈ [false, true], ∀ m ∈ ms,
       s.mmaFails m (.int false) sparse (if coreOf m = lead then [8 + (0#1).toNat, (0#3).toNat, (1#3).toNat] else [8 + (0#1).toNat, (1#3).toNat]) = none) ∧
     16 ∈ ms ∧ 16 ≠ s.cur ∧ ¬(s.core (coreOf 16)).u.intake.any (fun q => q.who = 16 && !q.ready) = true) ∧
    (let s : State := { matrixLeader with
      cores := [(0, { u := { hold := [(0, 1), (1, 1), (8, 1), (10, 1)] } }),
                (1, { u := { hold := [(1, 1), (8, 1), (10, 1)], intake := [{ who := 16, task := 0, acc := 0, joint := [0, 1], ready := false }] } })] }
     ∀ m ∈ gangMembers s.cur s.th.en.gangN, m ≠ s.cur → (s.core (coreOf m)).u.intake.any (fun q => q.who = m && !q.ready) = true) ∧
    (let s : State := { matrixLeader with cores := [(0, { u := { hold := [(0, 1), (1, 1), (8, 1), (10, 1)] } })] }; let ms := gangMembers s.cur s.th.en.gangN
     16 ∈ ms ∧ s.mmaFails 16 (.int false) false [8 + (0#1).toNat, (1#3).toNat] ≠ none ∧ ∀ m ∈ ms, (s.getT m).st = .ready ∧ (s.getT m).sp.role = .none) :=
  ⟨⟨rfl, by decide, by decide, by decide, by decide⟩, ⟨by decide, by decide, by decide, by decide, by decide, by decide, by decide, by decide⟩, by decide, by decide⟩

theorem witness_Accumulators :
    (let s := matrixHolder [(1, 16384)] lsAll
     s.Calm ∧ s.holds s.cur (8 + (0#1).toNat) = true ∧ s.Reaches (s.rdS 1) 0 16384 32 rR only012 false 16384 s ∧ isLs 16384 = true ∧
     s.holds s.cur (8 + (1#1).toNat) = false ∧ s.TrapsAlone) ∧
    (let s := matrixHolder [(1, 16384)] (segMake 0 65536 1 0x3D 0 0 0 0 0)
     s.Calm ∧ s.Reaches (s.rdS 1) 0 16384 32 rR only012 false (bankKey 0 16384) s ∧ isBank (bankKey 0 16384) = true) ∧
    (let s := went (matrixHolder [] lsAll) [{ pieces := [(bankKey 0 0, 16384)] }, { bytes := List.replicate 16384 0 }]
     s.holds s.cur (8 + (0#1).toNat) = true ∧ s.WentOn [{ pieces := [(bankKey 0 0, 16384)] }, { bytes := List.replicate 16384 0 }] ∧
     (List.replicate 16384 (0 : Byte)).length = 16384) ∧
    -- FMT 0 (bytes), row pitch 256, to the end of the local store
    (let s := matrixHolder [(1, 180192), (2, 256)] (segMake 0 196576 0 0x3D 0 0 0 0 0); let p := s.rdS 1; let g := s.th.r.rdG (ptrSeg p)
     stFmt p = .copy ∧ s.Calm ∧ (256 : Nat) % 32 = 0 ∧ 32 * (StFmt.copy).nibbles ≤ 256 ∧ ptrBl p = 0 ∧ segRights g &&& rW = rW ∧
     only012 (segSpace g) = true ∧ s.limitOk s.clusterNo g (ptrOff p) (63 * 256 + 32 * 8) = true ∧ ptrOff p % 32 = 0) ∧
    (let s := matrixHolder [(1, 180192), (2, 256)] (segMake 0 196576 0 0x3D 0 0 0 0 0)
     let l : List Got := [{ pieces := [(180192, 16384)] }, { pieces := [(0, 1)] }, {}]
     let u := went s l
     { u with th.w.acc := {} }.Calm ∧ u.WentOn l ∧ isLs (lsKey 0 180192) = true) ∧
    -- the same in bank memory
    (let s := matrixHolder [(1, 0), (2, 256)] (segMake 0 196576 1 0x3D 0 0 0 0 0)
     let l : List Got := [{ pieces := [(bankKey 0 0, 16384)] }, { pieces := [(bankKey 0 0, 1)] }, {}]
     let u := went s l
     { u with th.w.acc := {} }.Calm ∧ u.WentOn l ∧ isBank (bankKey 0 0) = true ∧ (went s (l ++ [({} : Got)])).WentOn (l ++ [({} : Got)])) ∧
    -- E2M1 with BL 3, ROW: elements at 0, scales from 4096 on
    (let s := matrixHolder [(1, 0x3180000000000000)] (segMake 0 8192 0 0x3D 4096 0 0 0 0); let p := s.rdS 1
     let g := s.th.r.rdG (ptrSeg p)
     stFmt p = .flt .e2m1 ∧ ptrBl p = 3 ∧ (32 : Nat) % 32 = 0 ∧ s.limitOk s.clusterNo g (ptrOff p) (63 * 32 + 32) = true ∧
     ∀ b ∈ allBlocks 0, s.limitOk s.clusterNo g (scaleOffset 1 true 3 g (ptrOff p + cellAt 0 32 1 b.1 b.2 / 2)) 1 = true) :=
  ⟨⟨calmCore _ (by decide), by decide, ⟨_, rfl, rfl⟩, by decide, by decide, aloneCore _ (by decide)⟩,
   ⟨calmCore _ (by decide), ⟨_, rfl, rfl⟩, by decide⟩,
   ⟨by decide, went_on _ _ rfl (fun g hg => by simp only [List.mem_cons, List.not_mem_nil, or_false] at hg; rcases hg with rfl | rfl <;> rfl),
    List.length_replicate⟩,
   ⟨by decide, calmCore _ (by decide), by decide, by decide, by decide, by decide, by decide, by decide, by decide⟩,
   ⟨calmCore _ (by decide), went_on _ _ rfl (by decide), by decide⟩,
   ⟨calmCore _ (by decide), went_on _ _ rfl (by decide), by decide, went_on _ _ rfl (by decide)⟩,
   ⟨by decide, by decide, by decide, by decide, by decide⟩⟩

/-- A thread whose g0 is a segment of the local store of core 1, with some posted operations under way. -/
def remote (l : SMap Word) (posted : Nat) : State :=
  { State.reset with
    th := { st := .ready, r := { s := l, g := [(0, segMake 0 256 5 0x3D 0 1 0 0 0)] }, w := { posted := posted } }
    vfs := [(0, { regtab := [(0, 0x80)] })] }

theorem witness_RemoteOperations :
    (let s := remote [(1, 248)] 15
     s.Calm ∧ s.slotNo ≠ 15 ∧ s.th.w.posted < 16 ∧ s.TrapsAlone ∧ (∃ l, (check (s.rdS 1) 0 1 1 rW only5).run s = (.ok l, s)) ∧
     (∃ l, (check (s.rdS 1) ((0#8).toInt * (2 ^ (3#2).toNat : Nat)) 8 8 rW only5).run s = (.ok l, s)) ∧
     (∃ l, (check (s.rdS 1) ((0#8).toInt * (2 ^ (3#2).toNat : Nat)) 8 8 rR only5).run s = (.ok l, s)) ∧
     (∃ l, (check (s.rdS 1) 0 8 8 rA only5).run s = (.ok l, s)) ∧ (10#4).toNat < 11 ∧ ¬((10#4) = 10 ∧ (0#1) = 1) ∧ 11 ≤ (11#4).toNat) ∧
    (let s := remote [(1, 192)] 16
     16 ≤ s.th.w.posted ∧ (∃ l, (check (s.rdS 1) ((0#8).toInt * 64) 64 64 rW only5).run s = (.ok l, s))) :=
  ⟨⟨calm _ (by decide), by decide, by decide, alone _ (by decide), ⟨_, rfl⟩, ⟨_, rfl⟩, ⟨_, rfl⟩, ⟨_, rfl⟩, by decide, by decide, by decide⟩,
   by decide, ⟨_, rfl⟩⟩

/-- A flit on the network for core 1 of region 0, which function 0 owns; slot 0 of core 1 runs a task of the flit's launch. -/
def arriving (f : Flit) (x : Core) : State :=
  { withS [] with net := [f], regions := [(0, { own := { assigned := true } })], threads := [(16, { st := .ready })], cores := [(1, x)] }

theorem noRecv (s : State) (h : ∀ k ∈ s.threadKeys, (s.getT k).w.park = .none) : ∀ k ∈ s.threadKeys, ∀ d v, (s.getT k).w.park ≠ .recv d v :=
  fun k hk d v => by rw [h k hk]; exact fun e => Park.noConfusion e

theorem witness_MessageEvents :
    (let f : Flit := { dst := 1 }; let s := arriving f { u := { rxq := List.replicate 31 {} } }; let g := s.region (regionOf f.dst)
     s.net[0]? = some f ∧ g.own.phase = 0 ∧ g.own.gate = true ∧ g.own.assigned = true ∧ g.own.vf = taskVf f.task ∧ g.cut.going = false ∧
     f.kind = 0 ∧ s.holdsTask f.task f.dst = true ∧ (∀ k ∈ s.threadKeys, ∀ d v, (s.getT k).w.park ≠ .recv d v) ∧
     (s.core f.dst).u.rxq.length < 32) ∧
    (let f : Flit := { dst := 1 }; let s := arriving f { u := { rxq := List.replicate 32 {} } }
     32 ≤ (s.core f.dst).u.rxq.length ∧ s.holdsTask f.task f.dst = true) ∧
    (let f : Flit := { dst := 1 }; let s := withCore { u := { retry := [f] } }
     (s.core 0).u.retry = [f] ∧ (s.region (regionOf 0)).cut.going = false ∧ f.due ≤ (s.region (regionOf 0)).clock) ∧
    (let s := withCore { u := { retry := [{ dst := 1, due := 128 }] } }
     (s.region (regionOf 0)).cut.going = false ∧ ∀ x ∈ (s.core 0).u.retry, (s.region (regionOf 0)).clock < x.due) ∧
    (∀ f ∈ [({ kind := 1, size := 8 } : Flit), { kind := 2, size := 8, strong := true }, { kind := 3, size := 4 }],
      let s := withCore { u := { hq := [f] } }
      (s.core 0).u.hq = [f] ∧ (s.getT (16 * 0 + 15)).st = .empty ∧ f.dst = 0 ∧ (s.core 0).seq = [] ∧ s.poison = []) ∧
    (∀ n, ((withCore { u := { hq := [({ kind := 1 } : Flit)] } }).log n).mode = 0) ∧
    (let q : Reply := { dst := 0 }; let s : State := { withS [] with acks := [q] }
     s.acks[0]? = some q ∧ s.answers q = true ∧ (s.getT q.dst).st ≠ .parked) ∧
    (let q : Reply := { dst := 0, d := 31 }; let s : State := { withS [] with reps := [q], th := { st := .parked, w := { park := .reply } } }
     s.reps[0]? = some q ∧ s.answers q = true ∧ (s.getT q.dst).st = .parked ∧ (s.getT q.dst).w.park = .reply ∧ q.code = 0) :=
  ⟨⟨by decide, by decide, by decide, by decide, by decide, by decide, by decide, by decide, noRecv _ (by decide), by decide⟩, by decide,
   by decide, by decide, by decide, fun _ => rfl, by decide, by decide⟩

theorem witness_ReceivesAndHandlers :
    (let e : RxEntry := { header := 5 }; let o : RxEntry := { launch := 1 }
     let s := withCore { u := { rxq := [o] ++ e :: [] } }
     s.slotNo ≠ 15 ∧ s.Calm ∧ (s.core s.coreNo).u.rxq = [o] ++ e :: [] ∧ e.launch = taskKey s.th.id.task ∧
     ∀ u ∈ [o], u.launch ≠ taskKey s.th.id.task) ∧
    (let s := withCore { u := { rxq := [{ launch := 1 }] } }
     ∀ u ∈ (s.core s.coreNo).u.rxq, u.launch ≠ taskKey s.th.id.task) ∧
    (let f : Flit := { kind := 4 }; let s := withCore { u := { hq := [f] } }
     (s.core 0).u.hq = f :: [] ∧ f.kind = 4 ∧ (s.getT (16 * 0 + 15)).st = .empty) ∧
    ({ withS [] with cur := 15 } : State).slotNo = 15 ∧ ((withS []).slotNo ≠ 15 ∧ (withS []).TrapsAlone) :=
  ⟨⟨by decide, calmCore _ (by decide), by decide, by decide, by decide⟩, by decide, by decide, by decide, by decide, alone _ (by decide)⟩

/-- A copy of one 8-byte element from byte 128 to byte 256 of the local store (11, Table 11-8). -/
def copyBeats : List (BitVec 128) :=
  [1, 0x1400000000000100#64 ++ 0x1400000000000080#64, 0, 0x100001#64 ++ 0x0000000800000008#64]
def copyCmd : Cmd := { beats := copyBeats, segs := [(0, lsPlain)] }
/-- A thread with three beats of the copy collected, the fourth in s1 and s2. -/
def pushing (x : Core) : State :=
  { State.reset with
    th := { st := .ready, r := { s := [(1, 0x0000000800000008), (2, 0x100001)], g := [(0, lsPlain)] }, en := { asm := [(0, copyBeats.take 3)] } }
    cores := [(0, x)] }

theorem witness_EnginePorts :
    (let s := pushing { u := { fifoIn := [(0, List.replicate 3 {})], rsv := [(0, 15)] } }; let u := (s.core s.coreNo).u
     let beat : BitVec 128 := s.rdS 2 ++ s.rdS 1
     s.slotNo ≠ 15 ∧ s.Calm ∧ ((0 : Nat) ≠ 2 ∨ s.pkg.partC = false) ∧ 3 ≤ (SMap.get [] s.th.en.asm 0).length ∧
     s.makeCmd s.cur 0 (SMap.get [] s.th.en.asm 0 ++ [beat]) = .ok copyCmd ∧ (SMap.get [] u.fifoIn 0).length < 4 ∧ SMap.get 0 u.rsv 0 < 16 ∧
     (SMap.get [] s.th.en.asm 3).length < 3 ∧ SMap.get [] s.th.en.asm 3 = [] ∧ s.workDone s.cur .beat = true) ∧
    (let s := withCore { wheel := [queued (bankKey 0 0) true] }
     SMap.get [] s.th.en.asm 0 = [] ∧ s.workDone s.cur .beat = false) ∧
    (let s := pushing { u := { rsv := [(0, 16)] } }
     16 ≤ SMap.get 0 (s.core s.coreNo).u.rsv 0) ∧
    (let q : Result := { slot := 0, element := 7 }; let o : Result := { slot := 1 }
     let s := withCore { u := { fifoOut := [(3, [o] ++ q :: [])] } }; let u := (s.core s.coreNo).u; let task := s.groupTask s.cur
     SMap.get [] u.fifoOut 3 = [o] ++ q :: [] ∧ q.slot = s.slotNo ∧ q.task = task ∧ (∀ z ∈ [o], ¬(z.slot = s.slotNo ∧ z.task = task)) ∧
     ∀ z ∈ SMap.get [] u.fifoOut 0, ¬(z.slot = s.slotNo ∧ z.task = task)) ∧
    (((withS [(1, 1)]).rdS 1).toNat < 2 ∧ 2 ≤ ((withS [(1, 2)]).rdS 1).toNat ∧ (withS [(1, 2)]).TrapsAlone) :=
  ⟨⟨by decide, calmCore _ (by decide), by decide, by decide, by rfl, by decide, by decide, by decide⟩, by decide, by decide, by decide,
   by decide, by decide, alone _ (by decide)⟩

/-- Commands of a gather of two indices, an append of a row of 32 bytes, and a collective of two ranks (Tables 11-12 to 11-14). -/
def gatherCmd : Cmd :=
  { port := 1, beats := [0x01000002, 0x0000000000000100#64 ++ 0#64, 0x0000000000000400#64 ++ 0#64, 0x10020#64 ++ 0x0000000000001000#64],
    segs := [(0, lsPlain)], index := 1 }
def appendCmd : Cmd :=
  { port := 1, beats := [0x0000000000000800#64 ++ 3#64, 0x0000000000000100#64 ++ 0x2000000000000000#64, 0, 0x10020#64 ++ 0x0000000000001000#64],
    segs := [(0, lsPlain)] }
def a2aCmd : Cmd := { port := 2, beats := [0x01000004, 0x0000000000000100#64 ++ 0#64, 0, 64], segs := [(0, lsPlain)] }
def withEngine (e : Nat) (l : List Cmd) : State := { withS [] with engines := [(e, l)] }

theorem witness_CommandsTaken :
    -- a command taken from a FIFO, and one of the collective that is, or is not, in turn between two VFs
    (let s := withCore { u := { fifoIn := [(1, [copyCmd]), (3, [copyCmd])] } }
     SMap.get [] (s.core 0).u.fifoIn 1 = copyCmd :: [] ∧ (1 : Nat) ≠ 2 ∧ ((s.engine (engineOf 0 1)).filter (fun c => c.parent.isNone)).length < 8 ∧
     SMap.get [] (s.core 0).u.fifoIn 3 = copyCmd :: []) ∧
    (let other : Cmd := { copyCmd with task := 1#64 <<< 56 }
     let s : State := { withS [] with
       cores := [(0, { u := { fifoIn := [(2, [copyCmd])] } }), (1, { u := { fifoIn := [(2, [other])] } })], pkg := { linkwt := [(0, 1), (1, 1)] } }
     SMap.get [] (s.core 0).u.fifoIn 2 = copyCmd :: [] ∧ SMap.get [] (s.core 1).u.fifoIn 2 = other :: [] ∧
     (s.share (engineOf 0 2 - 160) 1 (s.a2aWaiting (engineOf 0 2 - 160)) copyCmd.vf).isNone = true ∧
     (s.share (engineOf 1 2 - 160) 1 (s.a2aWaiting (engineOf 1 2 - 160)) other.vf).isSome = true) :=
  ⟨by decide, by decide⟩

/-- A chunk starts, reads, writes and is counted. -/
theorem witness_ChunkStart :
    (let c := copyCmd; let s := withEngine 0 [c]
     let c1 := { c with last := true, started := some ({ no := c.next, phase := 1, bytes := c.chunkBytes c.next } : Chunk), next := c.next + 1 }
     (s.engine 0)[0]? = some c ∧ c.kind = 1 ∧ c.started = none ∧ c.sending = none ∧ s.starter 0 = some 0 ∧ s.oslOk c = true ∧ c.named = false ∧
     loggedSeg (c.seg (c.lowPtr 1)) = false ∧
     ∃ s' m, State.planReads c1 (c.lowPtr 1) (c.sources (c.positions c.next)) ((s.markLast 0 0).setCmd 0 0 c1) = (s', .ok m) ∧ decide (blockKeys m ≠ []) = true) :=
  ⟨by decide, by decide, by decide, by decide, by decide, by decide, by decide, by decide, okPair _ (by decide)⟩

theorem witness_EngineCommands :
    (let ch : Chunk := { want := [(128, 64)], left := [128, 160] }; let c : Cmd := { copyCmd with started := some ch }; let s := withEngine 0 [c]
     (s.engine 0)[0]? = some c ∧ c.kind = 1 ∧ c.sending = none ∧ c.named = false ∧ ch.phase = 2 ∧ ch.logR = [] ∧ s.poison = [] ∧ s.upsets = [] ∧
     isLs 160 = true ∧ ch.blocks[1]? = some 160 ∧ ch.left.erase 160 ≠ []) ∧
    (let ch : Chunk := { phase := 3, cells := [(256, 7)] }; let c : Cmd := { copyCmd with started := some ch }; let s := withEngine 0 [c]
     (s.engine 0)[0]? = some c ∧ c.kind ≠ 3 ∧ s.oslOk c = true ∧ c.named = false ∧ ch.phase = 3 ∧ ch.logW = [] ∧ s.poison = [] ∧ s.upsets = [] ∧
     isLs 256 = true ∧ ch.blocks[0]? = some 256) ∧
    (∀ n, ((withEngine 0 []).core n).seq = []) :=
  ⟨by decide, by decide, fun _ => rfl⟩

/-- A copy, and a collective, whose chunk has written its bytes. -/
def written (beat : BitVec 128) : Cmd := { beats := [beat], started := some { phase := 3, bytes := 8 } }

theorem witness_ChunkCounted :
    ((written 1).kind = 1 ∧ (withEngine 0 [written 1]).oslOk (written 1) = true ∧ (written 1).named = false) ∧
    ((written 4).kind = 4 ∧ (withEngine 0 [written 4]).oslOk (written 4) = true ∧ (written 4).named = false) :=
  ⟨⟨by decide, by decide, by decide⟩, by decide, by decide, by decide⟩

theorem witness_CommandEnd : ∀ quiet ∈ [false, true], let c : Cmd := { copyCmd with done := 1, next := 1, quiet := quiet }; let s := withEngine 0 [c]
    (s.engine 0)[0]? = some c ∧ c.ended = true ∧ c.status = none ∧ c.parent = none ∧ c.row = none ∧ c.rsv = true ∧ c.last = false ∧ c.quiet = quiet := by
  decide

/-- The region's cache of block tables holds entry 0 of the command's table. -/
def cached (c : Cmd) : State :=
  { withEngine 128 [c] with regions := [(0, { btc := [(0, (withS []).absAddr c (c.seg (c.highPtr 1)) (ptrOff (c.highPtr 1)), 0, 0)] })] }

/-- An index read: of a block out of range, in the cache, and not in it. -/
theorem witness_GatherIndex :
    (let c := gatherCmd; let s := withEngine 128 [c]
     (s.engine 128)[0]? = some c ∧ c.status = none ∧ c.kind = 2 ∧ c.busy = false ∧ c.started = none ∧ c.index < c.nidx ∧ s.mayStart c = true ∧
     s.gatherBlocked ((s.engine 128).take 0) c = false ∧ c.inv = false ∧ sext32i (leNat [0, 0, 0, 0]) < c.nblk ∧
     (c.nblk : Int) ≤ sext32i (leNat [1, 0, 0, 0]) ∧ sext32i (leNat [0xFF, 0xFF, 0xFF, 0xFF]) < 0 ∧ loggedSeg (c.seg (c.highPtr 1)) = false ∧
     (∃ s1 b, s.engineGet c (c.lowPtr 1) (4 * c.index) 4 = .ok s1 b ∧ (b = [0, 0, 0, 0] && (s1.btcGet c (c.highPtr 1) 0).isNone) = true) ∧
     ∃ s2 m, State.planReads c (c.highPtr 1) [(0, 4)] s = (s2, .ok m) ∧ true = true) ∧
    (let c := gatherCmd; let s := cached c
     (∃ s1 b, s.engineGet c (c.lowPtr 1) (4 * c.index) 4 = .ok s1 b ∧
       (b = [0, 0, 0, 0] && (s1.btcGet c (c.highPtr 1) 0).map (fun x => x.2) = some 0) = true) ∧
     s.limitOk (clusterOf c.core) (c.seg (c.lowPtr 3)) (ptrOff (c.lowPtr 3) + 0 * c.bb) c.bb = true) :=
  ⟨⟨by decide, by decide, by decide, by decide, by decide, by decide, by decide, by decide, by decide, by decide, by decide, by decide, by decide,
     okGet _ (by decide), okPair (fun _ => true) (by decide)⟩, okGet _ (by decide), by decide⟩

/-- An entry of the table read. -/
theorem witness_GatherLookup :
    let ch : Chunk := { want := [(256, 4)], left := [256], phase := 0 }; let c : Cmd := { gatherCmd with started := some ch }; let s := withEngine 128 [c]
    (s.engine 128)[0]? = some c ∧ (s.engine 128).length ≤ 0 + 1 ∧ c.kind = 2 ∧ c.busy = false ∧ ch.left = [256] ∧ ch.logR = [] ∧ isLs 256 = true ∧
    s.poison = [] ∧ s.upsets = [] ∧ engineOf c.core 0 ≠ 128 ∧
    let p := leNat (Chunk.bytesRead { ch with got := ch.got ++ [(256, s.bytes 256 32)] })
    s.limitOk (clusterOf c.core) (c.seg (c.lowPtr 3)) (ptrOff (c.lowPtr 3) + p * c.bb) c.bb = true := by decide

/-- An append, from its look-up to its count. -/
theorem witness_Append :
    (let c := appendCmd; let s := cached c
     (s.engine 128)[0]? = some c ∧ c.status = none ∧ c.kind = 3 ∧ c.done = 0 ∧ c.started = none ∧ c.tpos / 16 < c.nblk ∧
     (s.btcGet c (c.highPtr 1) (c.tpos / 16)).map (fun x => x.2) = some 0) ∧
    (let c : Cmd := { appendCmd with beats := [0x0000000000000800#64 ++ 3#64, 0, 0, 0x20#64 ++ 0#64] }; c.kind = 3 ∧ c.nblk ≤ c.tpos / 16) ∧
    (let ch : Chunk := { phase := 1 }; let c : Cmd := { appendCmd with started := some ch }; let s := withEngine 128 [appendCmd, c]
     (s.engine 128)[1]? = some c ∧ c.kind = 3 ∧ c.done = 0 ∧ ch.phase = 1 ∧ ∃ o ∈ (s.engine 128).take 1, o.kind = 3 ∧ o.status = none ∧ o.done = 0 ∧ o.started = none) ∧
    (let ch : Chunk := { phase := 3 }; let c : Cmd := { appendCmd with started := some ch }; let s := withEngine 128 [c]
     (s.engine 128)[0]? = some c ∧ c.kind = 3 ∧ c.done = 0 ∧ ch.phase = 3 ∧ c.named = false ∧ c.osl = false ∧ ch.cells = [] ∧ ch.bad = false) :=
  ⟨by decide, by decide, by decide, by decide⟩

theorem witness_AppendRow :
    let ch : Chunk := { phase := 2, left := [0], want := [(0, 32)] }; let c : Cmd := { appendCmd with started := some ch }; let s := withEngine 128 [c]
    (s.engine 128)[0]? = some c ∧ c.status = none ∧ c.kind = 3 ∧ c.done = 0 ∧ ch.phase = 2 ∧ c.named = false ∧ ch.left = [0] ∧ ch.logR = [] ∧ isLs 0 = true ∧
    s.poison = [] ∧ s.upsets = [] ∧ loggedSeg (c.seg (c.lowPtr 3)) = false ∧ loggedSeg (c.seg (c.highPtr 0)) = false ∧
    ∃ s1 x, s.layAppend c { ch with left := [], got := ch.got ++ [(0, s.bytes 0 32)] } = (s1, .ok x) ∧ true = true :=
  ⟨by decide, by decide, by decide, by decide, by decide, by decide, by decide, by decide, by decide, by decide, by decide, by decide, by decide,
   okPair (fun _ => true) (by decide)⟩

/-- A flit of a collective: for another package, with no port up and with one, and for this one. -/
theorem witness_Collective :
    (let f : A2AFlit := { pkg := 1 }; let s : State := { withS [] with a2a := [f] }
     s.a2a[0]? = some f ∧ f.pkg ≠ s.pkg.pkgid.toNat ∧ s.portFor f.pkg = none) ∧
    (let f : A2AFlit := { pkg := 1 }; let s : State := { withS [] with a2a := [f], pkg := { route := [(1, 4)], linkst := [(2, 1 <<< 63)] } }
     s.portFor f.pkg = some 2 ∧ SMap.get 0 s.pkg.linkwt f.vf = 0) ∧
    (let f : A2AFlit := { srcRank := 1, payload := List.replicate 64 7 }; let s : State := { withEngine 160 [a2aCmd] with a2a := [f] }; let c := a2aCmd
     s.a2a[0]? = some f ∧ f.pkg = s.pkg.pkgid.toNat ∧
     (s.engine (160 + f.die)).findIdx? (fun c => c.kind = 4 && c.vf = f.vf && c.cid = f.cid && c.rank = f.dstRank && c.status.isNone &&
       c.started.isNone) = some 0 ∧ (s.engine (160 + f.die))[0]? = some c ∧ loggedSeg (c.seg (c.highPtr 1)) = false ∧
     ∃ s1 cells, s.engineCells c (c.highPtr 1) (f.srcRank * c.dstStride + f.offset) f.payload = (s1, .ok cells) ∧ true = true) :=
  ⟨by decide, by decide, ⟨by decide, by decide, by decide, by decide, by decide, okPair (fun _ => true) (by decide)⟩⟩

/-- A thread of a launch whose kernel has a guess routine at word 5. -/
def guessing (l : SMap Word) : State := { withS l with launches := [(0, { kernel := { guess := [5, 0xFFFFFFFF] } })] }
/-- Slot 1 runs iteration 0 of the group that slot 0 owns; its SPECB of E = 3 stands at byte 100. -/
def iterating : State := { withS [] with
  cur := 1
  th := { st := .ready, r := { pc := 108 }, sp := { owner := 0, role := .iter 0 } }
  threads := [(0, { st := .parked, w := { park := .specIdle }, sp := { act := true, n := 4, width := 2, slots := [1, 2], specb := 3, specbPc := 100, winOpen := true } }),
    (2, { st := .parked, w := { park := .specIdle }, sp := { owner := 0, role := .slot } })] }
/-- A chain descriptor at the start of the local store (Table 11-13): TPOS 15 of one block, rows of 32 bytes of FP32. -/
def withDescriptor : State := { withG [] lsAll with mem := [(32, 15), (36, 1), (40, 32), (42, 8)] }

theorem witness_SpeculationForms :
    (∀ n ∈ [(0#5), 1], let s := guessing [(1, 0xFFFFFF), (2, 0x3F800000)]
     let free := ((List.range 15).map (fun i => 16 * s.coreNo + i)).filter (fun k => (s.getT k).st = .empty)
     s.slotNo ≠ 15 ∧ (2#2) ≠ 3 ∧ 2 ≤ (2#8).toNat ∧ s.th.sp.role = .none ∧ s.th.en.gangN = 0 ∧ s.th.sp.act = false ∧ (s.rdS n).toNat < 2 ^ 24 ∧
     ((s.launchOf s.cur).kernel.guess.drop (0#2).toNat).headD 0xFFFFFFFF ≠ 0xFFFFFFFF ∧ 2 ^ ((2#2).toNat + 1) ≤ free.length ∧
     s.workDone s.cur .all = true ∧ s.th.st = .ready) ∧
    (let s : State := { guessing [] with cores := [(0, { u := { vcq := [{ who := 0 }] } })] }; s.workDone s.cur .all = false) ∧
    (∃ neg c x, f32 (((guessing [(2, 0x3F800000)]).rdS 2).setWidth 32) = .fin neg c x ∧ (neg = true → c = 0)) ∧
    (let s : State := { withS [] with th := { st := .ready, sp := { act := true, n := 2, c := 2, slots := [1, 2] } } }
     s.th.sp.role = .none ∧ s.th.sp.act = true ∧ s.th.sp.n ≤ s.th.sp.c ∧ s.cur ∉ s.th.sp.slots) ∧
    (let s := iterating; let o := s.getT s.th.sp.owner
     s.slotNo ≠ 15 ∧ s.th.sp.role = .iter 0 ∧ s.th.st ≠ .saving ∧ s.th.r.pc + 4 = o.sp.specbPc + 4 * (o.sp.specb &&& 0xFF#64) ∧
     s.th.sp.owner ≠ s.cur ∧ 0 = o.sp.winW + o.sp.winA ∧ s.cur ∈ o.sp.slots ∧ s.th.sp.owner ∉ o.sp.slots) ∧
    (withS []).TrapsAlone ∧
    (let s := withDescriptor; let x := s.readLE 0 64; let rows := x / 2 ^ 320 % 2 ^ 16
     s.Calm ∧ (∃ l, (check (s.rdS 1) 0 64 64 (rR + rW) only0).run s = (.ok l, s)) ∧ formatOf (BitVec.ofNat 6 (x / 2 ^ 336 % 64)) = .flt .f32 ∧
     x / 2 ^ 342 % 4 = 0 ∧ rows % 32 = 0 ∧ 0 < rows ∧ rows ≤ 128 ∧ x / 2 ^ 348 % 8 = 0 ∧ x / 2 ^ 352 = 0 ∧
     x / 2 ^ 256 % 2 ^ 32 < 16 * (x / 2 ^ 288 % 2 ^ 32) ∧ s.appendCheck s.cur 0 = none) ∧
    ((withS []).th.sp.role = .none ∧ (4#8).toNat < 5) :=
  ⟨by decide, by decide, ⟨_, _, _, rfl, by decide⟩, by decide, by decide, alone _ (by decide),
   ⟨calm _ (by decide), ⟨_, rfl⟩, by decide, by decide, by decide, by decide, by decide, by decide, by decide, by decide, by decide⟩, by decide⟩

theorem witness_SpeculationEvents :
    (let s : State := { withS [] with th := { st := .parked, w := { park := .specIdle }, sp := { act := true, n := 2, c := 2 } } }
     let o := s.getT 0
     o.sp.act = true ∧ o.sp.winOpen = false ∧ o.st = .parked ∧ o.w.park = .specIdle ∧ o.sp.n ≤ o.sp.c) ∧
    (let s : State := { withS [] with th := { st := .parked, w := { park := .specIdle }, sp := { act := true, n := 3, c := 2, width := 2, slots := [1, 2] } } }
     let o := s.getT 0
     o.sp.c < o.sp.n ∧ o.sp.slots ≠ [] ∧ o.sp.slots.Nodup ∧ 0 ∉ o.sp.slots ∧ o.sp.inOwner = false ∧ o.sp.width ≤ o.sp.slots.length ∧ 1 ≤ o.sp.width) ∧
    (let s : State := { iterating with cur := 2, th := { st := .ready, r := { pc := 104 }, sp := { owner := 0, role := .guess 1 } } }
     (s.getT 2).sp.role = .guess 1 ∧ (s.getT 2).sp.owner = 0 ∧ 2 ≠ 0 ∧ (s.getT 2).st = .ready ∧ (s.getT 2).r.pc = (s.getT 0).sp.specbPc + 4 ∧
     1 ≠ (s.getT 0).sp.winA) ∧
    (let s : State := { iterating with th := { iterating.th with st := .parked, w := { park := .specDone } } }
     let o := s.getT 0; let x := o.sp.posKey 0 o.sp.winA
     o.sp.act = true ∧ o.sp.winOpen = true ∧ o.sp.winA < min (max o.sp.width 1) (o.sp.n - o.sp.winW) ∧ (s.getT x).sp.role = .iter 0 ∧
     (s.getT x).st = .parked ∧ (s.getT x).w.park = .specDone ∧ x ≠ 0 ∧ (s.getT x).sp.owner = 0 ∧ (s.getT x).sp.buf = [] ∧ (s.getT x).sp.app = []) ∧
    -- the window is decided: by its last commit, or by the squash of the next iteration
    (∀ a ∈ [1, 2], let s : State := { withS [] with
       th := { st := .parked, w := { park := .specIdle }, sp := { act := true, n := 3, c := a, width := 2, slots := [1, 2], winOpen := true, winA := a } }
       threads := [(1, { st := .parked, sp := { role := .slot } }), (2, { st := .parked, sp := { role := .slot } })] }
     let o := s.getT 0
     o.sp.act = true ∧ o.sp.winOpen = true ∧ (s.log (regionOf (coreOf 0))).mode = 0 ∧
     (min (max o.sp.width 1) (o.sp.n - o.sp.winW) ≤ o.sp.winA ∨ (s.getT (o.sp.posKey 0 o.sp.winA)).sp.role = .slot)) := by
  decide

/-- A region whose order log has a ring of 2048 records in the paged region memory of `paged`, in a mode. -/
def logging (l : SMap Word) (x : Log) : State := { State.privileged (withS l) with
  regions := [(0, { (paged []).region 0 with log := { x with ring := 16 } })] }

theorem witness_OrderLog :
    (let s := logging [(1, 1)] { mode := 1, head := 1984, tail := 0 }; let l := s.log s.regionNo
     s.th.sp.role = .none ∧ l.mode = 1 ∧ 64 ≤ l.free ∧ s.translate s.regionNo (l.recDva l.head) true = (s, .ok 0x2F800) ∧
     s.th.id.priv = true ∧ (∀ k ∈ s.threadKeys, (s.getT k).st ≠ .parked) ∧
     ((s.rdS 1).toNat < 2 ^ 32 ∧ l.tailOk ((s.rdS 1).setWidth 32) = true)) ∧
    (let s := logging [(1, 17), (2, 16), (3, 3)] { mode := 0 }; let l := s.log s.regionNo
     l.mode = 0 ∧ ringOk (s.rdS 2) = true ∧ ringOk (s.rdS 3) = false ∧ 2 < (s.rdS 3).toNat) ∧
    (let s := logging [(1, 1), (2, 2)] { mode := 2, head := 0, tail := 0 }; let l := s.log s.regionNo
     (s.rdS 1 = 1 ∧ l.mode = 2) ∧ l.mode ≠ 1 ∧ l.headOk ((s.rdS 1).setWidth 32) = true ∧ l.headOk 2049 = false ∧ l.tailOk 1 = false) ∧
    (let s := logging [] { mode := 1, head := 5, tail := 2 }
     (s.log 0).tailOk (((0x0000000500000000#64) >>> 32).setWidth 32) = true ∧ (s.log 0).tailOk 6 = false) ∧
    -- a presented record whose task has, or has no, live slot
    (∀ st ∈ [SlotSt.empty, .ready], let s : State := { logging [] { mode := 2, head := 2048, tail := 0 } with th := { st := st } }
     let x := s.log 0; let b := s.readRecord 0 x.tail
     x.mode = 2 ∧ x.stopped.contains (streamClass (recKind b), if streamClass (recKind b) = 1 then recObject b else recTask b) = false ∧
     (s.threadKeys.find? (fun k => (s.getT k).st ≠ .empty && (s.getT k).st ≠ .frozen && (s.getT k).id.task = recTask b) = if st = .empty then none else some 0) ∧
     (s.region 0).mailbox.length < 256 ∧ (s.core (256 * 0)).held = [] ∧ (s.getT 0).sp.role = .none ∧ (s.getT 0).sp.act = false ∧ (s.getT 0).en.gangN = 0 ∧
     s.pkg.trigsel = []) ∧
    ((logging [] { mode := 2, head := 2048, tail := 0 }).log 0).window.length = min 4096 ((logging [] { mode := 2, head := 2048, tail := 0 }).log 0).cap := by
  refine ⟨⟨rfl, rfl, by decide, by decide, rfl, by decide, by decide⟩, by decide, by decide, by decide, by decide, ?_⟩
  show (List.range (min 4096 ((2048 : Word32) - 0).toNat)).length = _
  rw [List.length_range]; decide

/-- A record with its CHECK (Table 18-1) in the first slot of queue 5's ring in host memory, and function 0 with weight on the host port. -/
def submitted (q : Queue) : State := { withS [] with
  queues := [(5, q)]
  regions := [(0, { own := { assigned := true } })]
  pkg := { linkwt := [(32, 1)] }
  mem := [(hostKey 0, 1), (hostKey 0xFC, 0xF2), (hostKey 0xFD, 0x6B), (hostKey 0xFE, 0x71), (hostKey 0xFF, 0xAD)] }

/-- A record of one PACKAGE level of one tile, and its kernel of one word in host memory (Tables 18-1, 18-2, 03-6). -/
def goodRecord : List Byte :=
  [0, 1, 0, 0, 0, 1, 0, 0] ++ [0, 0, 0, 0, 0, 0, 0, 0x80] ++ List.replicate 0x38 0#8 ++ [0xFF, 0xFF] ++ List.replicate 0xB6 0#8 ++
    [0, 0, 0, 0, 1] ++ List.replicate 0x17B 0#8
def checking (b : List Byte) : State := { withS [] with
  launches := [(0, { phase := 1, record := b })]
  regions := [(0, { ptroot := 1, own := { assigned := true } })]
  vfs := [(0, { regtab := [(0, 0x80)] })]
  mem := [(hostKey 0, 0x4B), (hostKey 1, 0x4A), (hostKey 2, 0x58), (hostKey 3, 0x50), (hostKey 4, 1), (hostKey 6, 1), (hostKey 8, 1)] ++
    (List.range 4).map (fun i => (hostKey (0x10 + i), 0xFF)) ++ (List.range 16).map (fun i => (hostKey (0x20 + i), 0xFF)) ++
    [(hostKey 0x48, 1), (hostKey 0x4C, 0xC0), (hostKey 0x91, 1)] }

/-- A thread with a record at the start of its local store that names a kernel of host memory, which g1 covers, and a queue. -/
def launching (l : SMap Word) (q : Queue) : State := { withS l with
  th := { st := .ready, r := { s := l, g := [(0, lsAll), (1, segMake 0 4096 6 0x3F 0 0 0 0 0)] } }
  queues := [(16383, q)]
  mem := [(15, 0x80)] }

theorem witness_Submission :
    (let s := submitted { qctl := 0xA000000000000000, tail := 0, head := 0 }; let x := s.queue 5
     s.vfSubmits x.vf = true ∧ ((1#64).setWidth 32 - x.head).toNat ≤ 2 ^ x.l2n) ∧
    ((0x000C0000#64).toNat / 2 ^ 16 % 16 ≤ 12 ∧ 12 < (0x000D0000#64).toNat / 2 ^ 16 % 16 ∧ ({ qctl := 0 } : Queue).en = false ∧
      ({ qctl := 0x8000000000000000 } : Queue).en = true) ∧
    (∀ backoff ∈ [0, 256], let s := submitted { qbase := 0x8000000000000000, qctl := 0xA000000000000000, tail := 1, backoff := backoff }
     let x := s.queue 5; let b := s.bytes (hostKey (x.slotAddr x.head.toNat)) 640
     x.backoff = backoff ∧ s.fetchable? 5 = true ∧ x.qbase.getLsbD 63 = true ∧ fieldAt b 0 1 = x.phaseOf x.head.toNat ∧ recCheckOk b = true ∧
     s.numberFree x.vf = true) ∧
    ((checking goodRecord).launch (launchKey 0 0)).phase = 1 ∧ (∃ l s1, (checkLaunch 0 (launchKey 0 0)).run (checking goodRecord) = (.ok l, s1)) ∧
    (∃ s1, (checkLaunch 0 (launchKey 0 0)).run (checking []) = (.error 1, s1)) ∧
    (∃ s1, (checkLaunch 0 (launchKey 0 0)).run (checking (goodRecord.set 15 0)) = (.error 0, s1)) ∧
    (let s := launching [(1, 16384), (2, 16383)] {}
     s.slotNo ≠ 15 ∧ s.th.sp.role = .none ∧ s.workDone s.cur .accesses = true ∧ (∃ l, (check (s.rdS 3) 0 640 64 rR anySpace).run s = (.ok l, s)) ∧ 2 ^ 14 ≤ (s.rdS 1).toNat ∧
     (s.rdS 2).toNat < 2 ^ 14 ∧ (s.queue (s.rdS 2).toNat).en = false) ∧
    (let s := launching [(2, 16383)] { qctl := 0xA000000000000000, tail := 1 }; let x := s.queue 16383
     x.vf = taskVf s.th.id.task ∧ x.en = true ∧ x.qctl.getLsbD 61 = true ∧ x.qctl.getLsbD 62 = false ∧ 2 ^ x.l2n ≤ (x.tail - x.head).toNat) ∧
    (let s := launching [(2, 16383)] { qbase := 0x8000000000000000, qctl := 0xA000000000000000 }; let x := s.queue 16383
     ¬2 ^ x.l2n ≤ (x.tail - x.head).toNat ∧ x.qbase.getLsbD 63 = true) ∧
    (let s := went (launching [(2, 16383)] {}) [{ pieces := [(0, 640)] }, { bytes := (launching [] {}).bytes 0 640 },
       { pieces := [(hostKey 0, 160)] }, { bytes := List.replicate 160 0 }]
     ∃ l, (check (s.rdS 3) 0 640 64 rR anySpace).run s = (.ok l, s) ∧ ∃ o s1, (readM l 640).run s = (.ok o, s1) ∧ (match o with
       | some b => decide (b.length = 640) && ((((List.range 8).foldlM (fun (ok : Bool) (i : Nat) =>
         if ok then (pure true : M Bool) else kernelCovered (fieldAt b 0x08 8) (s1.th.r.rdG i) i) false).run s1).1 matches .ok true)
       | none => false) = true) ∧
    (let s : State := { launching [] {} with cores := [(0, { wheel := [queued (bankKey 0 0) true] })] }
     s.workDone s.cur .accesses = false ∧ s.th.st ≠ .saving) := by
  refine ⟨by decide, by decide, by decide +kernel, by decide, okRun (by decide +kernel), ?_, ?_, ?_, by decide, by decide, ?_, by decide⟩
  · exact ⟨_, rfl⟩
  · exact ⟨_, rfl⟩
  · exact ⟨by decide, by decide, by decide, ⟨_, rfl⟩, by decide, by decide, by decide⟩
  · exact ⟨_, rfl, okRunThen _ (by decide +kernel)⟩

theorem witness_PrivilegedForms : (withS []).th.id.priv = false ∧ (withS []).TrapsAlone := ⟨rfl, alone _ (by decide)⟩

/-- A privileged thread, with a thread in another slot. -/
def watching (k : Nat) (t : Thread) : State := { State.privileged (withS []) with threads := [(k, t)] }
/-- A thread with a save area at DVA 1024 of its region's paged memory, one area in the pool, and some contexts. -/
def saving (l : SMap Word) (ts : SMap Thread) (pool : BitVec 16) (cs : List Saved) : State :=
  { State.privileged (paged l) with
    threads := ts
    launches := [(0, { lsWin := [(0, 0)] })]
    regions := [(0, { (paged []).region 0 with poolBase := 1024, poolCount := pool, contexts := cs, own := { assigned := true } })] }
def savedAt (home : Nat) (bound auto : Bool) : Saved :=
  { area := 1024, task := 0, home := home, scope := 3, frozen := false, auto := auto, unrec := false, bound := bound, saves := 1, spec := none,
    hostDirty := false, deferred := [], kept := none }

theorem witness_Contexts_waking :
    (let s := watching 1 { st := .frozen }
     s.th.id.priv = true ∧ 1 ≠ s.cur ∧ (s.taskThreads (s.rdS 1)).find? (fun k => decide ((s.getT k).st = .frozen)) = some 1 ∧ 1 % 16 ≠ 15 ∧
     (s.getT 1).sp.role = .none ∧ s.cur ∉ (s.getT 1).sp.slots ∧ 1 ∉ (s.getT 1).sp.slots ∧ (s.getT 1).en.gangN = 0 ∧
     (s.taskThreads (s.rdS 1)).find? (fun k => (s.getT k).st = .parked && (match (s.getT k).w.park with
       | .pageFault _ _ => true
       | _ => false)) = none) ∧
    (let s := watching 15 { st := .frozen }
     (s.taskThreads (s.rdS 1)).find? (fun k => decide ((s.getT k).st = .frozen)) = some 15 ∧ 15 % 16 = 15) ∧
    (let s := watching 1 { st := .parked, w := { park := .pageFault 0 0 } }
     (s.taskThreads (s.rdS 1)).find? (fun k => (s.getT k).st = .parked && (match (s.getT k).w.park with
       | .pageFault _ _ => true
       | _ => false)) = some 1 ∧ (s.taskThreads (s.rdS 1)).find? (fun k => decide ((s.getT k).st = .frozen)) = none) ∧
    -- a gang of cores 0 to 7, two of whose members are parked on one fault
    (let u : Thread := { st := .parked, w := { park := .pageFault 0 0 }, en := { gangN := 8 } }
     let s : State := { watching 1 u with threads := [(1, u), (17, { u with id := { task := 1 } })] }; let m := gangMembers 1 8
     (s.taskThreads (s.rdS 1)).find? (fun k => (s.getT k).st = .parked && (match (s.getT k).w.park with
       | .pageFault _ _ => true
       | _ => false)) = some 1 ∧ 17 ∈ m ∧ (s.getT 17).en.gangN = 8 ∧ (s.getT 17).w.park = (s.getT 1).w.park ∧ 17 ≠ s.cur) := by
  decide

theorem witness_Contexts_saving :
    (let s := saving [] [(1, { st := .ready })] 1 []
     s.th.id.priv = true ∧ s.slotNo ≠ 15 ∧ s.rdS 1 = 0 ∧ 16 * s.coreNo + (0#4).toNat = s.cur ∧
     ¬(16 * s.coreNo + (1#4).toNat = s.cur ∨ (1#4) = 15 ∨ (s.getT 1).st = .empty ∨ (s.getT 1).st = .saving) ∧ (s.getT 1).sp.role = .none ∧
     (s.getT 1).en.gangN = 0 ∧ (s.getT 1).sp.act = false ∧ s.th.st ≠ .saving ∧ s.poolArea s.regionNo = some 1024 ∧
     ∃ l s2, (translatePieces s.regionNo true 1 0 (pagePieces 1024 5120)).run s = (.ok l, s2) ∧ decide (s2.getT 1 = s.getT 1) = true) ∧
    (let s := saving [(1, 1024)] [(1, { st := .ready, sp := { role := .slot, owner := 2 } })] 0 []
     s.rdS 1 ≠ 0 ∧ (∃ x s1, (areaOperand (s.rdS 1)).run s = (.ok x, s1) ∧ decide (x = 1024) = true) ∧ s.poolArea s.regionNo = none ∧
     (s.getT 1).sp.role ≠ .none ∧ (s.getT 1).sp.owner ≠ 1) ∧
    (let j : SaveJob := { area := 1024, kind := 8, frozen := false, spec := none, auto := true, unrec := false }
     let s := saving [] [(1, { st := .saving, en := { save := some j } }), (2, { st := .parked, w := { park := .ctxsave 31 1 0 } })] 1 []
     (s.getT 1).st = .saving ∧ (s.getT 1).en.save = some j ∧ s.quiesced 1 = true ∧ (∃ s1, s.finishSave 1 j = some s1) ∧
     2 ≠ 1 ∧ coreOf 2 = coreOf 1 ∧ (s.getT 2).st = .parked ∧ (s.getT 2).w.park = .ctxsave 31 (slotOf 1) 0) :=
  ⟨⟨by decide, by decide, by decide, by decide, by decide, by decide, by decide, by decide, by decide, by decide, okRunThen _ (by decide)⟩,
   ⟨by decide, okRunThen _ (by decide), by decide, by decide, by decide⟩,
   ⟨by decide, by decide, by decide, isSome (by decide), by decide, by decide, by decide, by decide⟩⟩

/-- A context of which the area, its bytes zero, tells the home core 0, and no unit or result that binds it there. -/
theorem witness_Contexts_loading :
    (let s := saving [(1, 1024)] [] 1 []
     (∃ x s1, (areaOperand (s.rdS 1)).run s = (.ok x, s1) ∧ decide (x = 1024) = true) ∧ s.contextAt s.regionNo 1024 = none) ∧
    (let c := savedAt 0 false false; let s := saving [(1, 1024)] [] 1 [c]
     s.contextAt s.regionNo 1024 = some (0, c) ∧ (s.emptySlots s.coreNo).head? = some 1 ∧ s.ctxAdmits 0 c s.coreNo = true ∧
     ¬(s.launch (taskKey c.task)).kernel.slots ≤ s.residentOn (taskKey c.task) s.coreNo ∧ s.needWindow (taskKey c.task) s.coreNo ≠ none) ∧
    (let c := savedAt 0 false false; let s := saving [] ((List.range 14).map (fun i => (i + 1, ({ st := .ready } : Thread)))) 1 [c]
     s.emptySlots s.coreNo = []) ∧
    (let c : Saved := { savedAt 0 false false with scope := 5 }; let s : State := { saving [] [] 1 [c] with cur := 16 }
     s.ctxAdmits 0 c s.coreNo = false) ∧
    (let c := savedAt 0 false false
     let s : State := { saving [] [] 1 [c] with launches := [(0, { record := List.replicate 42 0 ++ [4, 0] })] }
     s.needWindow (taskKey c.task) s.coreNo = none) ∧
    (let c := savedAt 0 false true; let s := saving [] [] 1 [c]
     (List.range 32).findSome? (fun r => ((s.region r).contexts.find? (fun c => c.area = 1024 && s.resumable r c &&
        s.regionUp (taskVf c.task) (regionOf (coreOf 1)) && s.ctxAdmits r c (coreOf 1) &&
        (!c.unrec || (s.log (regionOf c.home)).mode ≠ 2 || coreOf 1 = c.home))).map (fun c => (r, c))) = some (0, c) ∧
     (s.getT 1).st = .empty ∧ slotOf 1 ≠ 15 ∧ s.keptFor 1 = none ∧ s.residentOn (taskKey c.task) 0 < (s.launch (taskKey c.task)).kernel.slots ∧
     (∃ s1, s.flushContext (areaKey 0 c.area) = some s1) ∧
     (s.log (regionOf (coreOf 1))).mode = 0 ∧ (s.launch (taskKey c.task)).window (coreOf 1) = some 0) :=
  ⟨⟨okRunThen _ (by decide), by decide⟩, by decide, by decide, by decide, by decide,
   ⟨by decide, by decide, by decide, by decide, by decide, isSome (by decide), by decide, by decide⟩⟩

/-- The area read whole, and a context in it with a result still on its way. -/
theorem witness_Contexts_area : let s := saving [] [] 1 [savedAt 0 false true];
    ∃ s1, s.flushContext (areaKey 0 1024) = some s1 ∧ (match s1.readDva 0 1024 5120 with
      | (u, some b) =>
        decide (b.length = 5120 ∧ (u.log 0).mode = 0 ∧ (u.launch 0).window 0 = some 0)
      | _ => false) = true := by
  obtain ⟨s1, h⟩ := isSome (x := ((saving [] [] 1 [savedAt 0 false true]).flushContext (areaKey 0 1024)).filter (fun s1 => match s1.readDva 0 1024 5120 with
    | (u, some b) => decide (b.length = 5120 ∧ (u.log 0).mode = 0 ∧ (u.launch 0).window 0 = some 0)
    | _ => false)) (by decide +kernel)
  exact ⟨s1, (Option.filter_eq_some_iff.1 h).1, (Option.filter_eq_some_iff.1 h).2⟩

theorem witness_Contexts_image : (threadOfImage (List.replicate 5120 0)).sp.act = false ∧ (threadOfImage (List.replicate 5120 0)).en.repush = [] ∧
    bit (fieldAt (List.replicate 5120 0) 0x120C 1) 1 = false ∧ fieldAt (List.replicate 5120 0) 0x1204 4 = 0 ∧
    fieldAt (List.replicate 0x1204 0 ++ [1] ++ List.replicate 507 0) 0x1204 4 ≠ 0 := by
  decide +kernel

/-- A thread of a launch whose code, eight words of zero, stands in host memory. -/
def fetching (t : Thread) : State := { withS [] with th := t, launches := [(0, { kernel := { host := true, words := 8 } })] }

theorem witness_FetchesAndStops :
    (let s := fetching { st := .ready, r := { pc := 28 } }
     s.th.r.rep.needed ≤ s.th.is.frame.length ∧ (∃ w s1, (fetchAt s.th.r.pc).run s = (.ok w, s1)) ∧ (s.launchOf s.cur).kernel.host = true) ∧
    (let s := fetching { st := .ready, r := { pc := 4, rep := { act := true, pass := 1, idx := 1, lenm1 := 1, nm1 := 2 } } }
     s.th.is.frame.length < s.th.r.rep.needed ∧
     ∃ f s1, (fetchFrame (s.th.r.pc - BitVec.ofNat 64 (4 * s.th.r.rep.idx)) s.th.r.rep.needed).run s = (.ok f, s1)) ∧
    (let s := fetching { st := .ready, r := { pc := 32 } }
     4 * (s.launchOf s.cur).kernel.words ≤ s.th.r.pc.toNat ∧ s.TrapsAlone) ∧
    (let q : Deferred := { code := 0x20, pc := 4, ptr := 8 }; let s := fetching { st := .ready, is := { deferred := [q] } }
     s.TrapsAlone ∧ s.th.is.deferred = q :: []) ∧
    (let s : State := { fetching { st := .ready, r := { pc := 28 } } with pkg := { bp := [(31, 0x800000000000001C)] } }
     s.TrapsAlone ∧ s.bpTested = true ∧ s.bpHit = some 15) ∧
    (let p : Packet := { code := 9 }; let s := withCore { held := [p] }
     (s.core 0).held = p :: []) :=
  ⟨⟨by decide, okRun (by decide), by decide⟩, ⟨by decide, okRun (by decide)⟩, ⟨by decide, alone _ (by decide)⟩, ⟨alone _ (by decide), by decide⟩,
   ⟨aloneCore _ (by decide), by decide, by decide⟩, by decide⟩

theorem witness_DebugEvents :
    (15 < 16 ∧ 1 < 2 ∧ (0x6000000000000000#64).toNat / 2 ^ 61 % 4 = 3 ∧ ¬(1 = 1 ∧ (0x4000000000000000#64).toNat / 2 ^ 61 % 4 = 3)) ∧
    (let s : State := { withS [] with regions := [(3, { clock := 9, pulses := [(55, 9)], proftrig := 0x8000000000000037 })] }
     (s.region 3).pulses = [(55, 9)] ∧ 9 ≤ (s.region 3).clock ∧
     (∀ p ∈ s.regions, p.1 ≠ 3 → p.1 / 4 = 3 / 4 → p.2.pulses = [])) ∧
    (let s : State := { withS [] with pkg := { trigsel := [(55, 0x8000000000000106)] } }
     s.pkg.trigsel = [(55, 0x8000000000000106)] ∧ trigMatches 0x8000000000000106 6 1 0 = true) := by
  decide

theorem witness_PagingEvents :
    (let s : State := { withS [] with
      regions := [(0, { ptroot := 1 })]
      mem := [(hbmKey 0, 0x09), (hbmKey 1, 0x02), (hbmKey 512, 0x0F)] }
     (s.region 0).ptroot.getLsbD 0 = true ∧ (∀ e ∈ (s.region 0).tcache, e.base ≠ (0 : Nat) / 2 ^ e.shift * 2 ^ e.shift) ∧
     (match (s.walk 0 0 true walkLevels 0).2 with
      | .leaf shift page w _ _ _ => w && decide ((page + 0 % 2 ^ shift) / 2 ^ 35 % 32 = 0)
      | _ => false) = true) ∧
    ((withS []).region 0).ptroot.getLsbD 0 = false ∧
    (let q : FaultReq := { task := 0, core := 0, slot := 1, dva := 0x10000, kind := 2 }
     let s : State := { withS [] with regions := [(0, { faults := [q] })], threads := [(1, { st := .parked, w := { park := .pageFault 0 0x10000 } })] }
     let u := s.getT 1; let home := s.region (regionOf q.core)
     (s.region 0).faults = q :: [] ∧ q.kind ≠ 4 ∧ u.st = .parked ∧ u.w.park = .pageFault 0 q.dva ∧ u.id.task = q.task ∧ q.slot < 16 ∧
     u.sp.role = .none ∧ u.en.gangN = 0 ∧ s.pkg.trigsel = [] ∧ home.mailbox.length < 256 ∧ (s.core q.core).held = []) ∧
    (let u : Thread := { st := .parked, w := { park := .pageFault 0 0x10000 }, sp := { role := .guess 1, owner := 0 } }
     u.isGuess = true ∧ u.en.gangN = 0 ∧ u.st = .parked ∧ u.w.park = .pageFault 0 0x10000) ∧
    (let q : FaultReq := { task := 0, core := 0, slot := 0, dva := 0, kind := 4 }
     let s : State := { withS [] with regions := [(0, { faults := [q] })] }
     (s.region 0).faults = q :: [] ∧ q.kind = 4) :=
  ⟨by decide, by decide, by decide, by decide, by decide⟩

/-- Function 0 with region 0, and a launch of one task of one core that is ready to dispatch. -/
def oneTask : Launch := { phase := 2, tiles := 1, levels := [{ domain := 5, scope := 4, extent := 1, first := 0 }] }
def scheduling (t : Thread) (ts : SMap Thread) (ls : SMap Launch) : State :=
  { paged [] with
    th := t
    threads := ts
    launches := ls
    vfs := [(0, { regtab := [(0, 0x80)], weights := [(0, 1)] })]
    regions := [(0, { (paged []).region 0 with clock := 65536, poolBase := 1024, poolCount := 1, own := { assigned := true } })] }

theorem witness_Dispatching :
    let s := scheduling {} [] [(0, oneTask)]; let n := launchKey 0 0; let l := s.launch n
    s.readyLaunch 0 0 = true ∧ s.regionUp 0 (regionOf 0) = true ∧ l.window 0 = none ∧ (∃ w, s.lsFit n 0 = some w) ∧
    (∃ i < l.tiles, l.dispatched.contains i = false ∧ (l.place (s.vfTable 0) i 0).isSome = true) ∧
    (∀ m ∈ s.launchesOf 0, m = 0) ∧ l.dispatched = [] ∧
    ∃ s1 s2, s.spend 0 (s.procOf n) (coGroup l.levels 0).2 = some s1 ∧ s1.dispatch 0 0 0 14 = some s2 := by
  refine ⟨by decide, by decide, by decide, isSome (by decide +kernel), ⟨0, by decide, by decide, by decide⟩, by decide, by decide, ?_⟩
  obtain ⟨t, h⟩ := isSome (x := ((scheduling {} [] [(0, oneTask)]).spend 0 ((scheduling {} [] [(0, oneTask)]).procOf (launchKey 0 0)) 1).bind
    (fun s => s.dispatch 0 0 0 14)) (by decide +kernel)
  obtain ⟨s1, h1, h2⟩ := Option.bind_eq_some_iff.1 h
  exact ⟨s1, t, h1, h2⟩

/-- A record with its DONEP and its vector (Table 18-1). -/
def doneRecord (donep : List Byte) : List Byte := List.replicate 0x38 0 ++ donep ++ List.replicate 8 0 ++ [63, 0]

theorem witness_Completion :
    (∀ holes ∈ [[], [((0 : Nat), 32)]],
     let l : Launch := { phase := 3, status := 9, record := doneRecord [0, 0, 0, 0, 0, 0, 0, 0x80] }
     let s : State := { scheduling {} [] [(0, l)] with pkg := { hostHoles := holes } }
     let a := recDonep l.record
     s.launchOver (launchKey 0 0) = true ∧ l.replicas = [] ∧ l.status < 256 ∧ a % 16 = 0 ∧ addrOk a = true ∧ bit a 63 = true ∧
     s.pkg.refuses (a % 2 ^ 56) 16 = decide (holes ≠ []) ∧ 32 ≤ recMsix l.record ∧ recMsix l.record ≤ 63) ∧
    (let l : Launch := { oneTask with dispatched := [0], ended := 1, record := doneRecord [1, 0, 0, 0, 0, 0, 0, 0x80] }
     let s := scheduling {} [] [(0, l)]
     s.launchOver (launchKey 0 0) = true ∧ l.replicas = [] ∧ recDonep l.record % 16 ≠ 0) := by
  decide

/-- Core 0 with the fifteen tasks of a launch of priority 0, and a launch of priority 5 that needs the core. -/
def crowded : State := scheduling { st := .ready } ((List.range 14).map (fun i => (i + 1, ({ st := .ready } : Thread))))
  [(0, { oneTask with tiles := 15, dispatched := List.range 15, levels := [{ domain := 6, extent := 15 }] }), (1, { oneTask with prio := 5 })]
/-- A launch with one task parked in RECV for 65536 cycles, and one that no slot takes. -/
def stuckLaunch : Launch :=
  { phase := 2, tiles := 2, dispatched := [0], kernel := { slots := 1 },
    levels := [{ domain := 5, scope := 4, extent := 1, first := 0 }, { domain := 6, extent := 2 }] }
def starved : State := scheduling { st := .parked, w := { park := .recv 1 0, since := 0 } } [] [(0, stuckLaunch)]

/-- A task in slot 0 of a region in replay, for which a record of a kind is presented (Table 16-3). -/
def directed (kind : BitVec 8) : State := let s := scheduling { st := .ready } [] [(0, oneTask)]
  { s with regions := [(0, { s.region 0 with log := { mode := 2, head := 1, ring := 16 } })], mem := [(hbmKey 0x20004, kind)] }

theorem witness_Preemption :
    (let s := crowded; let own := s.threadKeys.filter (fun k => taskKey (s.getT k).id.task = launchKey 0 1)
     s.directedTo 13 own = none ∧ s.readyLaunch 0 1 = true ∧ s.nextTile 0 1 = none ∧ (∀ j ∈ s.threadKeys, (s.getT j).st ≠ .saving) ∧
     s.worst (s.victims 0 1) = some 14 ∧ (∃ s1, s.schedSave 14 13 false = some s1) ∧ (s.getT 14).sp.act = false ∧ (s.getT 14).en.gangN = 0) ∧
    (let s := starved
     (s.log 0).mode ≠ 2 ∧ s.launches.find? (fun p => s.stuck (p.1 / 2 ^ 24) (p.1 % 2 ^ 24) 0) = some (0, stuckLaunch) ∧
     s.oldestParked (s.residents 0 0) = some 0 ∧
     (∃ s1, s.schedSave 0 8 false = some s1) ∧ (s.getT 0).sp.act = false ∧ (s.getT 0).en.gangN = 0) ∧
    (let s := directed 13; let own := s.threadKeys.filter (fun k => taskKey (s.getT k).id.task = launchKey 0 0)
     s.directedTo 13 own = some 0 ∧ ∃ s1, s.schedSave 0 13 false = some s1) ∧
    (let s := directed 8; let here := s.threadKeys.filter (fun k => regionOf (coreOf k) = 0)
     (s.log 0).mode = 2 ∧ s.directedTo 8 here = some 0 ∧ ∃ s1, s.schedSave 0 8 false = some s1) :=
  ⟨⟨by decide, by decide, by decide +kernel, by decide, by decide, isSome (by decide), by decide, by decide⟩,
   ⟨by decide, by decide +kernel, by decide, isSome (by decide), by decide, by decide⟩,
   ⟨by decide, isSome (by decide)⟩, ⟨by decide, by decide, isSome (by decide)⟩⟩

/-- Core 0 with five READY threads by its load table, 4096 cycles after its interval began. -/
def loaded (slots : Nat) (scope : Nat) (l : SMap Word) : State := { withS l with
  th := { st := .ready, r := { s := l }, id := { scope := scope } }
  cores := [(0, { own := 5, loadSince := 0 })]
  clusters := [(0, { load := [(0, 5)] })]
  regions := [(0, { clock := 4096 })]
  launches := [(0, { kernel := { slots := slots } })] }

theorem witness_Migration :
    (let s := loaded 15 3 []; let g := s.cluster (clusterOf 0)
     g.migEn = true ∧ (g.load.map (fun p => p.2)).foldl (· + ·) 0 / 64 < (s.core 0).own ∧ (s.core 0).loadSince + g.migInt.toNat ≤ s.clockAt 0 ∧
     (s.log (regionOf 0)).mode ≠ 2 ∧
     ((List.range 15).map (fun j => 16 * 0 + j)).find? (fun k => s.migratable k && !(s.getT k).id.nomig) = some 0 ∧
     SMap.get 0 g.load (idlePort g.load 64) + 1 < (s.core 0).own ∧ s.takesTask (taskKey (s.getT 0).id.task) (64 * clusterOf 0 + idlePort g.load 64) = true) ∧
    (let s := loaded 15 3 [(1, 64), (2, 63)]
     s.slotNo ≠ 15 ∧ s.th.sp.role = .none ∧ ¬(s.rdS 1).toNat / 64 = s.clusterNo ∧ (s.rdS 2).toNat / 64 = s.clusterNo ∧
     (s.rdS 3).toNat = s.coreNo ∧ (s.rdS 2).toNat ≠ s.coreNo ∧ s.migratable s.cur = true ∧ s.migrationRecorded s.cur 63 = true ∧
     s.takesTask (taskKey s.th.id.task) 63 = true) ∧
    ((loaded 15 4 []).migratable 0 = false ∧ (loaded 0 3 []).takesTask 0 63 = false) ∧
    (let m : MigrMsg := { thread := { st := .ready }, dst := 63 }; let s : State := { loaded 15 3 [] with migr := [m] }
     s.migr[0]? = some m ∧ (s.emptySlots m.dst).head? = some 1008 ∧
     s.residentOn (taskKey m.thread.id.task) m.dst < (s.launch (taskKey m.thread.id.task)).kernel.slots ∧ s.placement m.thread.id.task m.thread.en.logN 7 m.dst false = some s ∧
     ∃ p, s.needWindow (taskKey m.thread.id.task) m.dst = some p) :=
  ⟨by decide, by decide, by decide, ⟨by decide, by decide, by decide, by decide, isSome (by decide)⟩⟩

theorem witness_Resets :
    (let s : State := { withS [] with regions := [(31, { own := { assigned := true, vf := 31 } })] }; let o := (s.region 31).own
     (0x8000000000000000#64).getLsbD 63 = true ∧ o.phase = 0 ∧ (0x8000000000000000#64).getLsbD 62 = false ∧ o.assigned = true ∧
     (0xC000000000000025#64).getLsbD 62 = true ∧ ((0xC000000000000025#64).getLsbD 5, (0xC000000000000025#64).toNat % 32) ≠ (o.assigned, o.vf) ∧
     (s.regions.map (fun p => p.1)).Nodup ∧ s.engines = [] ∧ ∀ c ∈ s.cores, c.2.mem = []) ∧
    (∀ cause ∈ [1, 6], let s : State := { withS [] with regions := [(0, { own := { phase := 6, gate := false, cause := cause } })] }
     (s.region 0).own.phase = 6 ∧ (s.region 0).own.cause = cause) := by
  decide

theorem witness_WindowsAndCuts :
    ((∀ c ∈ (withS []).cores, c.2.mem = []) ∧ ∀ e ∈ (withS []).engines, ∀ c ∈ e.2, (withS []).overWindow 0 c = false) ∧ (3 < 4 ∧ 1 < 2) ∧ (0x8000000000000001#64).getLsbD 63 = true ∧
    (let s : State := { withS [] with vfs := [(0, { regtab := [(0, 0x80)] })], regions := [(0, { cut := { going := true, col := true } })] }
     (s.vfRegions 0).Nodup ∧ 0 ∈ s.vfRegions 0 ∧ (s.region 0).cut.going = true ∧ s.cutDiff (s.vfRegions 0) (s.region 0).cut.col = 0 ∧
     (s.region 0).cut.closed = false) ∧
    (let f : Flit := { dst := 1 }
     let s : State := { withS [] with threads := [(16, { st := .ready })], regions := [(0, { own := { assigned := true }, cut := { saved := [f] } })] }
     let g := s.region 0
     g.cut.saved = [f] ∧ f.kind = 0 ∧ g.own.phase = 0 ∧ g.own.gate = true ∧ g.own.assigned = true ∧ g.own.vf = taskVf f.task ∧
     s.holdsTask f.task f.dst = true ∧ (s.core f.dst).u.rxq.length < 32 ∧ (∀ k ∈ s.threadKeys, ∀ d v, (s.getT k).w.park ≠ .recv d v)) :=
  ⟨by decide, by decide, by decide, by decide, ⟨by decide, by decide, by decide, by decide, by decide, by decide, by decide, by decide, noRecv _ (by decide)⟩⟩

theorem witness_Edges :
    (let s : State := { withS [] with
      regions := [(0, { clk := { pending := some (550, 0) } }), (1, { clk := { pending := some (549, 15) } }), (2, { clk := { busy := true } }), (3, { own := { phase := 6 } })] }
     (s.region 0).clk.pending = some (550, 0) ∧ (s.region 0).clk.busy = false ∧ s.clockStatus 0 550 0 = 0 ∧ s.clockStatus 1 549 15 ≠ 0 ∧
     s.clockStatus 0 550 14 = 1 ∧ s.clockStatus 0 750 14 ≠ 3 ∧ (s.region 2).clk.busy = true ∧ (s.region 3).own.phase ≠ 0 ∧ (s.region 0).own.phase = 0) ∧
    (let s : State := { withS [] with pkg := { linkctl := [(15, true)] } }
     15 < 16 ∧ (Config.cap2 s.pkg.partC).getLsbD 15 = true ∧ SMap.get false s.pkg.linkctl 15 = true ∧ (SMap.get 0 s.pkg.linkst 15).getLsbD 62 = false ∧
     (Config.cap2 true).getLsbD 15 = false) ∧
    (let s : State := { withS [] with regions := [(0, { own := { phase := 6 } })] }
     (s.fnRegions 32).any (fun r => (s.region r).own.phase ≠ 0) = true ∧ ((withS []).fnRegions 32).any (fun r => ((withS []).region r).own.phase ≠ 0) = false ∧
     (withS []).measAt 32 0 = none ∧ (withS []).measAt 32 34 = some 33) := by
  decide

theorem witness_RegisterWrites :
    0x120 ∉ [0x110, 0x200, 0x300, 0x308, 0x410, 0x810, 0x900, 0x908, 0x910] ∧ 0x50 ≠ 0x40 ∧ (0x1F200 % 8 = 0 ∧ 0x1F200 % 0x2000 = 0x1200 ∧ 0x1F200 < 0x20000) ∧
    (let s : State := { withS [] with threads := [(15, { st := .frozen })] }
     (s.getT (16 * 0 + 0x1E0F8 / 0x2000)).st = .frozen ∧ 0x1E0F8 < 0x20000 ∧ 0x1E0F8 % 0x2000 < 4608 ∧ 0x1E0F8 % 8 = 0 ∧ 0x1E0F8 % 0x2000 = 8 * 31 ∧
     (s.getT (16 * 0 + 0xF8 / 0x2000)).st ≠ .frozen) := by
  decide

theorem witness_IssueTurns :
    (let s := withCore { last := 0 }; let x := s.core 0; let now := (s.region (regionOf 0)).clock
     x.turn ≤ now ∧ (∀ i < 16, (s.getT (16 * 0 + i)).st ≠ .parked ∧ (s.getT (16 * 0 + i)).st ≠ .saving) ∧ x.prof.en = false ∧ x.u.hq = [] ∧
     s.eligible (16 * 0 + (x.last + 1 + 15) % 16) now = true ∧ ∀ i < 15, ¬s.eligible (16 * 0 + (x.last + 1 + i) % 16) now = true) ∧
    (let s : State := { withCore { last := 0 } with th := {} }; let x := s.core 0; let now := (s.region (regionOf 0)).clock
     (∀ i < 16, (s.getT (16 * 0 + i)).st ≠ .parked ∧ (s.getT (16 * 0 + i)).st ≠ .saving) ∧
     ∀ j < 16, ¬s.eligible (16 * 0 + (x.last + 1 + j) % 16) now = true) ∧
    (∀ p ∈ [Park.access, .relaxed, .work .all, .probe 0 0],
     let s : State := { withCore { last := 0 } with th := {}, threads := [(3, { st := .parked, w := { park := p } })] }
     (s.core 0).turn ≤ (s.region (regionOf 0)).clock ∧ (∀ i < 16, (s.getT (16 * 0 + i)).st ≠ .parked ∨ (s.getT (16 * 0 + i)).w.park = p) ∧
     (∀ i < 3, s.due (16 * 0 + i) = false) ∧ s.due (16 * 0 + 3) = true) ∧
    (let q : Cmd := { thread := 1 }; let o : Cmd := {}
     let s : State := { withS [] with regions := [(0, { port3 := [o, q] })] }
     (s.region 0).port3[1]? = some q ∧ q.thread = 16 * 0 + 1 ∧ ∀ y ∈ (s.region 0).port3.take 1, y.thread ≠ 16 * 0 + 1) := by
  decide

theorem witness_DecodeAndEncodeAgree :
    (Instr.fence 5 2).unitsOk false = none ∧ (Instr.fence 5 2).wellFormed false = true ∧ decode 0xAC000052#32 = .ok (.fence 5 2) :=
  ⟨rfl, by decide, okEq (by decide)⟩

theorem witness_DecodedWords : (0x03FFFFFF#32).toNat / 2 ^ 26 = 0 ∧ (0xFC000000#32).toNat / 2 ^ 26 = 0x3F := by decide

/-- A granted turn at ADD s4, s5, s6. -/
def granted (t : Thread) : State := { fetching t with
  issuing := true, mem := [(hostKey 1, 0x30), (hostKey 2, 0x85), (hostKey 3, 0x04)] }

theorem witness_StepRunsTheDecodedWord :
    (∀ t ∈ [({ st := .ready, is := { delivered := some 0x04853000#32 } } : Thread), { st := .ready, is := { ibuf := [(0, 0x04853000#32)] } },
        { st := .ready, r := { rep := { act := true, pass := 1, idx := 0 } }, is := { frame := [0x04853000#32] } },
        { st := .ready, r := { rep := { act := true } }, is := { ibuf := [(0, 0x04853000#32)] } }, { st := .ready }],
      let s := granted t; let t := s.th
      s.issuing = true ∧ t.st = .ready ∧ t.is.deferred = [] ∧ s.guessDone = false ∧ s.bpHit = none ∧ t.is.rlx = false ∧
      s.nextOk s.cur (.add 4 5 6) = true ∧ (t.is.delivered = some 0x04853000#32 ∨ t.is.delivered = none ∧
        (t.mustFetch = false ∧ t.r.rep.act = false ∧ t.buffered = some 0x04853000#32 ∨
         t.mustFetch = false ∧ t.r.rep.act = true ∧ t.r.rep.pass ≠ 0 ∧ t.is.frame[t.r.rep.idx]? = some 0x04853000#32 ∨
         t.mustFetch = false ∧ t.r.rep.act = true ∧ t.r.rep.pass = 0 ∧ t.buffered = some 0x04853000#32 ∧ capturable 0x04853000#32 = true ∨
         t.r.rep.act = false ∧ t.buffered = none ∧ (s.launchOf s.cur).kernel.host = true ∧ t.r.pc.toNat % 4 = 0 ∧
           t.r.pc.toNat < 4 * (s.launchOf s.cur).kernel.words ∧
           0x04853000#32 = patchWord (s.launchOf s.cur).params (s.launchOf s.cur).kernel.patches (t.r.pc.toNat / 4)
             (BitVec.ofNat 32 (s.readLE (hostKey ((s.launchOf s.cur).kernel.code + t.r.pc.toNat)) 4))))) ∧
    (∃ u, exec .codeFetch (granted { st := .ready }).endTurn = .next u ∧ u.bpHit = none ∧ u.th.is.rlx = false ∧ u.nextOk u.cur (.add 4 5 6) = true ∧
      renameWord u.th.r.rep 0x04853000#32 = 0x04853000#32) ∧
    decode 0x04853000#32 = .ok (.add 4 5 6) ∧
    (let s := went (granted { st := .ready }) [{}]; s.issuing = true ∧ s.th.w.acc.redo = true ∧ (renameWord s.th.r.rep 0x04853000#32) = 0x04853000#32) ∧
    (let s := granted { st := .ready, is := { rlx := true } }
     markable 0x60000000#32 = true ∧ rlxOk (.ldD 0 2 1) = true ∧ rlxOk (.stD 5 2 1) = true ∧ s.th.is.rlx = true) ∧
    (let s : State := { withS [] with inputs := [.linkUp 15 0], pkg := { partC := true } }
     s.issuing = false ∧ (Instr.linkUp 15 0).canHappen s.pkg.partC = false) ∧
    (let s : State := { withS [] with inputs := [.issueTurn 8191] }
     s.issuing = false ∧ s.inputs = .issueTurn 8191 :: [] ∧ (Instr.issueTurn 8191).canHappen s.pkg.partC = true) := by
  refine ⟨by decide, ⟨_, rfl, by decide, by decide, by decide, by decide⟩, okEq (by decide), by decide, by decide, by decide, by decide⟩

theorem witness_MemoryStaysCanonical : State.reset.Inv ∧ ∃ t, step State.reset = .next t := ⟨⟨rfl, rfl, rfl, rfl⟩, _, rfl⟩

theorem witness_AccessChecks :
    (let s := withG [(1, 0)] (segMake 0 256 0 0x10 0 0 0 0 0)
     s.TrapsAlone ∧ segRights (s.th.r.rdG (ptrSeg (s.rdS 1))) &&& rR ≠ rR) ∧
    (let s := withG [(1, 249)] (segMake 0 256 0 0x30 0 0 0 0 0); let g := s.th.r.rdG (ptrSeg (s.rdS 1))
     s.TrapsAlone ∧ segRights g &&& rR = rR ∧ anySpace (segSpace g) = true ∧ s.lregionOk (taskVf s.th.id.task) g = true ∧
     ¬s.limitOk s.clusterNo g (ptrOff (s.rdS 1) + (0#12).toInt * 8) 8 = true ∧
     s.limitOk s.clusterNo g (ptrOff (s.rdS 1) + (-1#12).toInt * 8) 8 = true ∧ ((ptrOff (s.rdS 1) : Int) + (-1#12).toInt * 8) % 8 ≠ 0) :=
  ⟨⟨alone _ (by decide), by decide⟩, ⟨alone _ (by decide), by decide, by decide, by decide, by decide, by decide, by decide⟩⟩

/-! Further clauses of the same statements, at the bounds of theirs. -/

/-- Aligned places of stores, and a converting store whose element and scale byte lie in different pieces of 128 bytes. -/
theorem witness_LoadsAndStores_pieces :
    (196592 % 8 = 0 ∧ 255 % 1 = 0 ∧ hbmKey 0x2FFF8 % 8 = 0 ∧ hbmKey 8 % 1 = 0 ∧ onePiece [(135, 1), (255, 1)] = true) ∧
    (let s := withG [(1, 0x918000000000000F#64)] (segOf 0); let p := s.rdS 1; let f := formatOf (ptrFmt p); let n := f.size
     (∃ g, f = .flt g) ∧ ptrBl p ≠ 0 ∧ s.Calm ∧ onePiece [(128, 1), (15, n)] ≠ true ∧
     ∃ l, let so := scaleOffset n (decide (f = .flt .e2m1)) (ptrBl p) (s.th.r.rdG (ptrSeg p)) l.eo
      (check p ((0#12).toInt * n) n n (rR + rW) anySpace).run s = (.ok l, s) ∧ l.eo = ((ptrOff p : Int) + (0#12).toInt * n).toNat ∧
        s.limitOk s.clusterNo (s.th.r.rdG (ptrSeg p)) so 1 = true ∧ (placeOf l n rW true).run s = (.ok [(15, n)], s) ∧
        (placeOf { seg := s.th.r.rdG (ptrSeg p), eo := so, ptr := l.ptr } 1 rR false).run s = (.ok [(128, 1)], s)) :=
  ⟨by decide, ⟨_, rfl⟩, by decide, calm _ (by decide), by decide, _, rfl, rfl, by decide, rfl, rfl⟩

/-- A sync word of bank memory, and the places of the forms on words. -/
theorem witness_Synchronisation_bank :
    isLs 196600 = true ∧ isLs 196592 = true ∧
    (let s := withG [(1, 224)] (segOf 1)
     s.Calm ∧ isBank (bankKey 0 224) = true ∧ s.Reaches (s.rdS 1) ((0#12).toInt * 16) 16 16 (rR + rW) only012 true (bankKey 0 224) s ∧
     s.Reaches (s.rdS 1) ((0#12).toInt * 16) 16 16 rR only012 true (bankKey 0 224) s) ∧
    (went (withG [] (segOf 1)) [{ pieces := [(bankKey 0 224, 16)] }, { value := 5 }]).WentOn [{ pieces := [(bankKey 0 224, 16)] }, { value := 5 }] :=
  ⟨by decide, by decide, ⟨calm _ (by decide), by decide, ⟨_, rfl, rfl⟩, ⟨_, rfl, rfl⟩⟩, went_on _ _ rfl (by decide)⟩

theorem witness_VectorMemory_places :
    (∀ e < 32, (128 + 4 * e) % 4 = 0 ∧ isLs (128 + 4 * e) = true) ∧ keyCluster (bankKey 0 188) = 0 ∧ bankKey 0 188 % 4 = 0 := by decide

/-- WHEELSET goes on with the head of an image and then with the rest of it. -/
theorem witness_BankMemory_rest :
    hbmKey 0x20000 % 128 = 0 ∧
    (let v : Got := { bytes := imageHead }; let w : Got := { bytes := wheelImage.drop 128 }; let n := 128 + 256 * (v.bytes.headD 0).toNat
     let l : List Got := [{ pieces := [(0, 128)] }, v, { pieces := [(128, 16384)] }, w]
     let s := went (State.privileged (withG [] lsAll)) l
     s.th.id.priv = true ∧ s.WentOn l ∧ headOk v.bytes = true ∧
     s.limitOk s.clusterNo (s.th.r.rdG (ptrSeg (s.rdS 1))) (ptrOff (s.rdS 1)) n = true ∧ (wheelOf (v.bytes ++ w.bytes)).valid = true) := by
  refine ⟨by decide, rfl, went_on _ _ rfl fun g hg => ?_, by decide, by decide, ?_⟩
  · simp only [List.mem_cons, List.not_mem_nil, or_false] at hg; rcases hg with rfl | rfl | rfl | rfl <;> rfl
  · show (wheelOf (imageHead ++ wheelImage.drop 128)).valid = true
    rw [← wheelImage_head, List.take_append_drop]; exact wheelImage_valid

theorem witness_CoreQueueEvents_alone :
    (let q := queued 0 true; let r := queued (hbmKey 8) true
     q.cvt = none ∧ (∀ z ∈ ([q].takeWhile (fun z => decide (z ≠ q))), z.who = q.who → z.clash q = false) ∧ (asked 8).cvt = none ∧
     ∀ y ∈ ([] : List RelReq), y.who = r.who → y.clash r = false) ∧
    -- a request behind another of its thread, to other bytes
    (let y := queued (hbmKey 64) true; let q := queued (hbmKey 8) true; let s := withCore { mem := [y, q] }
     (s.core 0).mem = [y] ++ q :: [] ∧ q ∉ [y] ∧ y.who = q.who ∧ y.clash q = false ∧ 65536 % 2 ^ 16 = 0 ∧ 65536 / 2 ^ 16 = [y].length) := by
  decide

theorem witness_Accumulators_places :
    bankKey 0 16384 % 2 ^ 23 + 16384 ≤ 2 ^ 23 ∧
    (let s := matrixHolder [(1, 180192), (2, 256)] (segMake 0 196576 0 0x3D 0 0 0 0 0); let g := s.th.r.rdG (ptrSeg (s.rdS 1))
     segSpace g = 0 ∧ lsKey s.coreNo (segBase g + segLimit g) ≤ 2 ^ 31) ∧
    (let s := matrixHolder [(1, 0), (2, 256)] (segMake 0 196576 1 0x3D 0 0 0 0 0); segSpace (s.th.r.rdG (ptrSeg (s.rdS 1))) ≠ 0) := by
  decide

/-- A collective's flit before its back-off is over; with no port up, its sender's command ends; with no command of its rank here; with one that has a
chunk under way; and with one that takes it. A command with flits still to leave does not end. -/
theorem witness_Collective_waits :
    (let f : A2AFlit := { pkg := 1, due := 64 }; let s : State := { withS [] with a2a := [f] }
     s.a2a[0]? = some f ∧ (s.region f.src).clock < f.due) ∧
    (let f : A2AFlit := { pkg := 1, cid := 0, srcRank := 0 }; let s : State := { withEngine 160 [a2aCmd] with a2a := [f] }
     s.a2a[0]? = some f ∧ f.due ≤ (s.region f.src).clock ∧ f.pkg ≠ s.pkg.pkgid.toNat ∧ s.portFor f.pkg = none ∧ 160 = 160 + f.src / 4 ∧ a2aCmd.kind = 4 ∧
     a2aCmd.vf = f.vf ∧ a2aCmd.cid = f.cid ∧ a2aCmd.rank = f.srcRank ∧ a2aCmd.status = none) ∧
    (let f : A2AFlit := { dstRank := 1 }; let s : State := { withEngine 160 [a2aCmd] with a2a := [f] }
     f.due ≤ (s.region f.src).clock ∧ ¬f.pkg ≠ s.pkg.pkgid.toNat ∧ ∀ o ∈ s.engine (160 + f.die), o.rank ≠ f.dstRank) ∧
    (let f : A2AFlit := { srcRank := 1 }; let c : Cmd := { a2aCmd with started := some {} }; let s : State := { withEngine 160 [c] with a2a := [f] }
     s.engine (160 + f.die) = [] ++ c :: [] ∧ c.kind = 4 ∧ c.vf = f.vf ∧ c.cid = f.cid ∧ c.rank = f.dstRank ∧ c.status = none ∧ c.started ≠ none) ∧
    (let f : A2AFlit := { srcRank := 1, payload := List.replicate 64 7 }; let c := a2aCmd; let s : State := { withEngine 160 [c] with a2a := [f] }
     s.engine (160 + f.die) = [] ++ c :: [] ∧ c.kind = 4 ∧ c.vf = f.vf ∧ c.cid = f.cid ∧ c.rank = f.dstRank ∧ c.status = none ∧ c.started = none ∧
     s.a2aBlocked [] c f.srcRank f.offset = false) ∧
    -- an earlier command of the engine still to fill the same place
    (let f : A2AFlit := { srcRank := 1, payload := List.replicate 64 7 }; let c : Cmd := { a2aCmd with beats := a2aCmd.beats.set 0 0x10001000004 }; let o := a2aCmd
     let s : State := { withEngine 160 [o, c] with a2a := [{ f with cid := c.cid }] }
     s.engine (160 + f.die) = [o] ++ c :: [] ∧ c.cid ≠ o.cid ∧ c.vf = f.vf ∧ c.rank = f.dstRank ∧ s.a2aBlocked [o] c f.srcRank f.offset = true) ∧
    (let c : Cmd := { copyCmd with done := 1, next := 1 }; (withEngine 0 [c]).sendsOut 0 c = false) := by
  decide

/-- A slot that is kept for an evicted launch's next task is not free; the descriptor of an append lies aligned in the local store. -/
theorem witness_SpeculationForms_free :
    (let s := guessing []
     2 ^ ((2#2).toNat + 1) ≤ ((((List.range 15).map (fun i => 16 * s.coreNo + i)).filter (fun k => (s.getT k).st = .empty)).filter
       (fun k => (s.keptFor k).isNone)).length) ∧
    isLs (lsKey 0 0) = true ∧ lsKey 0 0 % 64 = 0 := by decide

/-- The oldest iteration, retired, while the next guess routine runs; with a buffered store; and with its request on the way. -/
theorem witness_SpeculationEvents_commit :
    (let s : State := { iterating with
       th := { iterating.th with st := .parked, w := { park := .specDone } }
       threads := [(0, { st := .parked, w := { park := .specIdle }, sp := { act := true, n := 4, width := 2, slots := [1, 2], specb := 3, specbPc := 100, winOpen := true } }),
         (2, { st := .ready, sp := { owner := 0, role := .guess 1 } })] }
     s.guessRuns 0 = true ∧ (s.getT ((s.getT 0).sp.posKey 0 (s.getT 0).sp.winA)).sp.role = .iter 0) ∧
    (let e : StoreEntry := { block := 0, bytes := [(0, some 7)], ptr := 0, key := 0, vias := [] }
     ∀ n ∈ [0, 1], let q : RelReq := { queued 0 true with who := 1, no := 1, strong := true }
     let s : State := { iterating with
       th := { iterating.th with st := .parked, w := { park := .specDone }, sp := { iterating.th.sp with buf := [e], flush := n } }
       cores := [(0, { seq := [q] })] }
     let x := (s.getT 0).sp.posKey 0 (s.getT 0).sp.winA
     s.guessRuns 0 = false ∧ (s.getT x).sp.buf = e :: [] ∧ (s.getT x).sp.flush = n ∧ q ∈ s.relReqs x ∧ q.no = 1 ∧ x ≠ 0 ∧ (s.getT x).sp.owner = 0 ∧
     (s.getT x).st = .parked ∧ (s.getT x).w.park = .specDone) := by
  decide

/-- A queue that waits for its back-off, and one whose back-off is over. -/
theorem witness_Submission_backoff :
    (let s := submitted { qctl := 0xA000000000000000, tail := 1, backoff := 256, due := 256 }; let x := s.queue 5
     x.backoff ≠ 0 ∧ (s.region (s.region0 x.vf)).clock < x.due) ∧
    (let s := submitted { qctl := 0xA000000000000000, tail := 1, backoff := 256 }; let x := s.queue 5
     x.due ≤ (s.region (s.region0 x.vf)).clock ∧ s.pkg.refuses (x.slotAddr x.head.toNat) 640 = false) := by
  decide

/-- A frozen owner whose windows go on, and one with commands to push again. -/
theorem witness_Contexts_windows :
    (∀ l ∈ [([] : List (List (BitVec 128))), [copyBeats]], let s := watching 1 { st := .frozen, sp := { act := true, n := 2, c := 1 }, en := { repush := l } }; let u := s.getT 1
     (s.taskThreads (s.rdS 1)).find? (fun k => decide ((s.getT k).st = .frozen)) = some 1 ∧ u.sp.act = true ∧ u.sp.abort = false ∧ u.sp.c < u.sp.n ∧
     u.sp.role = .none ∧ u.en.repush = l) ∧
    (let s := saving [(1, 1024)] [] 1 [savedAt 0 false false]
     (s.contextAt s.regionNo 1024).isSome = true ∧ (s.openSlots s.coreNo).head? = some 1 ∧ s.keptFor 1 = none) ∧
    (let s := saving [(1, 1024)] [] 1 []
     (s.contextAt s.regionNo 1024).isSome = false ∧ (s.adoptCopy s.regionNo 1024).contextAt 0 1024 = none) := by
  decide

theorem someThen {α : Type} {x : Option α} (p : α → Bool) (h : x.any p = true) : ∃ a, x = some a ∧ p a = true := by
  cases x with
  | none => exact absurd h Bool.false_ne_true
  | some a => exact ⟨a, rfl, h⟩

/-- Two launches of the kind of `stuckLaunch`, each with its task parked, and two areas in the pool. -/
def starvedTwice : State :=
  let s := scheduling { st := .parked, w := { park := .recv 1 0, since := 0 } }
    [(1, { st := .parked, id := { task := 1#64 <<< 32 }, w := { park := .recv 1 0, since := 0 } })] [(0, stuckLaunch), (1, stuckLaunch)]
  { s with regions := [(0, { s.region 0 with poolCount := 2 })] }

/-- A stuck launch behind one that is not, and two stuck launches. -/
theorem witness_Preemption_each :
    (let s := starved
     s.launches.map (fun p => p.1) = [] ++ 0 :: [] ∧ s.stuck 0 0 0 = true ∧ s.oldestParked (s.residents 0 0) = some 0) ∧
    (let s := scheduling { st := .parked, w := { park := .recv 1 0, since := 0 } } [] [(0, oneTask), (1, stuckLaunch)]
     s.launches.map (fun p => p.1) = [0] ++ 1 :: [] ∧ s.stuck (0 / 2 ^ 24) (0 % 2 ^ 24) 0 = false) ∧
    (let s := starvedTwice
     s.launches.map (fun p => p.1) = [] ++ 0 :: [1] ∧ s.stuck 0 0 0 = true ∧ s.oldestParked (s.residents 0 0) = some 0 ∧
     ∃ s1, s.schedSave 0 8 false = some s1 ∧ (s1.stuck 0 1 0 && decide (s1.oldestParked (s1.residents 1 0) = some 1) &&
       (s1.schedSave 1 8 false).isSome) = true) := by
  exact ⟨by decide +kernel, by decide +kernel, by decide +kernel, by decide +kernel, by decide +kernel, someThen (fun (s1 : State) => s1.stuck 0 1 0 &&
    decide (s1.oldestParked (s1.residents 1 0) = some 1) && (s1.schedSave 1 8 false).isSome) (by decide +kernel)⟩

theorem witness_Migration_slots :
    let m : MigrMsg := { thread := { st := .ready }, dst := 63 }; let s : State := { loaded 15 3 [] with migr := [m] }
    (s.openSlots m.dst).head? = some 1008 := by decide

/-- The owner of region 31 resets it in its own window; another function, or one with no own entry, does not. -/
theorem witness_Resets_owner :
    (let s : State := { withS [] with regions := [(31, { own := { assigned := true, vf := 31 } })], vfs := [(31, { regtab := [(0, 0x9F)] })] }
     (0x8000000000000000#64).getLsbD 62 = false ∧ s.answersVf 31 31 = true) ∧
    (let s : State := { withS [] with regions := [(31, { own := { assigned := true, vf := 31 } })] }
     s.answersVf 31 31 = false) ∧
    (let s : State := { withS [] with regions := [(0, { own := { phase := 6, gate := false, cause := 1 } })] }
     (s.region 0).own.phase = 6 ∧ (s.region 0).own.cause ≠ 6) := by decide

theorem witness_WindowsAndCuts_ring :
    (((withS []).region 0).winPend = [] ∧ (withS []).bufferedVia 0 = false) ∧ 4 ≤ 4 ∧
    (let s : State := { withS [] with regions := [(0, { cut := { saved := [{ dst := 1 }], ringUsed := true } })] }; (s.region 0).cut.ringUsed = true) := by
  decide

/-- A step down in frequency, one of voltage alone, and one up whose ramp is over; and each VF's requests. -/
theorem witness_Edges_steps :
    (let c : Clk := { busy := true, stepV := 700, stepF := 10 }
     c.stepF < c.fcur ∧ ¬(c.fcur ≤ c.stepF ∧ c.vcur = c.stepV) ∧ floorMv c.fcur ≤ c.vcur ∧ floorMv c.stepF ≤ c.stepV ∧ c.held = true) ∧
    (let c : Clk := { busy := true, stepV := 750, stepF := 14, vcur := 600, fcur := 0 }
     c.fcur ≤ c.stepF ∧ c.vcur < c.stepV ∧ floorMv c.fcur ≤ c.vcur ∧ floorMv c.stepF ≤ c.stepV ∧ c.held = false) ∧
    (let c : Clk := { busy := true, stepV := 750, stepF := 14, vcur := 750, fcur := 0 }
     c.fcur < c.stepF ∧ c.vcur = c.stepV ∧ c.fcur ≤ c.stepF ∧ c.held = true ∧ regionOf 255 = 0) ∧
    ((Config.cap2 true).getLsbD 15 = false ∧ 15 < 16 ∧ (0#64).getLsbD 63 = false) ∧
    ((withS []).vfEnabled 31 = false ∧ 31 < 32) ∧
    (let s : State := { withS [] with regions := [(0, { own := { assigned := true } })], pkg := { fwReady := true } }
     s.vfEnabled 0 = true ∧ (s.fnRegions 0).any (fun r => (s.region r).own.phase ≠ 0) = false) ∧
    (let im : FirmwareImage := { magic := 0x57464A4B, kind := 2, svn := 0, digest := 0, reservedZero := true, rsaSig := 0, slhSig := 0, payload := [] }
     im.magic = 0x57464A4B#32 ∧ im.kind = 2 ∧ im.reservedZero = true ∧ ¬({ im with kind := 1 } : FirmwareImage).kind = 2) := by
  decide

theorem witness_RegisterWrites_functions :
    (let s : State := { withS [] with queues := [(5, { qctl := 0xA100000000000000#64 })], regions := [(0, { own := { assigned := true, vf := 1 } })] }
     let r := Config.queues + 5
     let x := s.queue (r % Config.queues)
     x.vf = r / Config.queues ∧ s.vfEnabled x.vf = true ∧ (s.queue 5).vf ≠ 5 / Config.queues ∧ s.vfEnabled 2 = false) ∧
    0x101 % 8 ≠ 0 ∧ 32 ≤ 32 ∧ 0x20000 ≤ 0x20000 := by
  decide

theorem witness_IssueTurns_calm :
    (let s := withCore { last := 0 }; (s.region (regionOf 0)).clk.held = false ∧ (s.log (regionOf 0)).mode ≠ 2) := by decide

/-- Words that the spec prints (03, 04, 07, 09, 12, 19). -/
theorem test_decode_printed : decodes [
    (0x04853000#32, .add 4 5 6), (0x20E2BEEF#32, .limmh 7 2 0xBEEF), (0x4C090001#32, .blr 9), (0xC08531C2#32, .ffma 4 5 6 7 0),
    (0xC1042604#32, .fcvt 8 4 4 24 0), (0x5803002A#32, .trap 3 0x2A), (0x58000105#32, .brk 5), (0x83004434#32, .vfma 0 0 1 2 3 2 0),
    (0x90610002#32, .kand 3 1 2), (0xBCA91003#32, .ctxsave 5 9 3)] = true := by decide

/-- Words with a reserved field that is not zero, a reserved opcode or a reserved major decode to nothing (R56). -/
theorem test_decode_reserved :
    [0x00000000#32, 0xFC000000#32, 0x04853040#32, 0x04853009#32, 0x34000002#32].all (fun w => match decode w with | .ok _ => false | .error _ => true) = true := by
  decide

/-! Single steps. What each gives is computed by hand from the rule it names. -/

/-- What a register holds after an instruction. -/
def sAfter (i : Instr) (s : State) (d : BitVec 5) : Option Word := match exec i s with
  | .next t => some (t.rdS d)
  | _ => none
/-- What some view of the state is after an instruction. -/
def after {α : Type} (i : Instr) (s : State) (f : State → α) : Option α := match exec i s with
  | .next t => some (f t)
  | _ => none

/-- Table 04-6: sums wrap, the high half of a signed product is that of the exact product. -/
theorem test_add_wraps : sAfter (.add 3 1 2) (withS [(1, 0xFFFFFFFFFFFFFFFF), (2, 2)]) 3 = some 1 := by decide
theorem test_add_zeroRegister : sAfter (.add 0 1 2) (withS [(1, 1), (2, 2)]) 0 = some 0 := by decide
theorem test_sub_borrows : sAfter (.sub 1 1 2) (withS [(1, 0), (2, 1)]) 1 = some 0xFFFFFFFFFFFFFFFF := by decide
theorem test_mulh_signs : sAfter (.mulh 3 1 2) (withS [(1, 0xFFFFFFFFFFFFFFFF), (2, 2)]) 3 = some 0xFFFFFFFFFFFFFFFF := by decide
theorem test_mulhu_big : sAfter (.mulhu 3 1 2) (withS [(1, 0xFFFFFFFFFFFFFFFF), (2, 2)]) 3 = some 1 := by decide
/-- Table 04-7. -/
theorem test_div_byZero : sAfter (.div 3 1 2) (withS [(1, 5)]) 3 = some 0xFFFFFFFFFFFFFFFF := by decide
theorem test_div_truncates : sAfter (.div 3 1 2) (withS [(1, 0xFFFFFFFFFFFFFFF9), (2, 2)]) 3 = some 0xFFFFFFFFFFFFFFFD := by decide
theorem test_rem_sign : sAfter (.rem 3 1 2) (withS [(1, 0xFFFFFFFFFFFFFFF9), (2, 2)]) 3 = some 0xFFFFFFFFFFFFFFFF := by decide
theorem test_rem_overflow : sAfter (.rem 3 1 2) (withS [(1, 0x8000000000000000), (2, 0xFFFFFFFFFFFFFFFF)]) 3 = some 0 := by decide
/-- R90: ANDI extends the sign, ORI zeros. -/
theorem test_andi_signExtends : sAfter (.andi 3 1 0x8000) (withS [(1, 0xFFFFFFFFFFFFFFFF)]) 3 = some 0xFFFFFFFFFFFF8000 := by decide
theorem test_ori_zeroExtends : sAfter (.ori 3 1 0x8000) (withS [(1, 1)]) 3 = some 0x8001 := by decide
theorem test_shl_mod64 : sAfter (.shl 3 1 2) (withS [(1, 1), (2, 65)]) 3 = some 2 := by decide
theorem test_sar_sign : sAfter (.sar 3 1 2) (withS [(1, 0x8000000000000000), (2, 63)]) 3 = some 0xFFFFFFFFFFFFFFFF := by decide
theorem test_rol_around : sAfter (.rol 3 1 2) (withS [(1, 0x8000000000000001), (2, 1)]) 3 = some 3 := by decide
theorem test_clz_zero : sAfter (.clz 3 1) (withS []) 3 = some 64 := by decide
theorem test_ctz_top : sAfter (.ctz 3 1) (withS [(1, 0x8000000000000000)]) 3 = some 63 := by decide
theorem test_bswap : sAfter (.bswap 3 1) (withS [(1, 0x0102030405060708)]) 3 = some 0x0807060504030201 := by decide
/-- R91: a width past the top is cut, a width of 0 gives 0, and BINS keeps the rest of sd. -/
theorem test_bext_top : sAfter (.bext 3 1 127 60) (withS [(1, 0xF000000000000000)]) 3 = some 0xF := by decide
theorem test_bins_middle : sAfter (.bins 3 1 8 8) (withS [(1, 0xAB), (3, 0xFFFFFFFFFFFFFFFF)]) 3 = some 0xFFFFFFFFFFFFABFF := by decide
theorem test_limm_negative : sAfter (.limm 3 0x100000) (withS []) 3 = some 0xFFFFFFFFFFF00000 := by decide
theorem test_limmh_lane : sAfter (.limmh 7 1 0xBEEF) (withS [(7, 0x1111222233334444)]) 7 = some 0x11112222BEEF4444 := by decide
theorem test_cmplt_signed : sAfter (.cmplt 3 1 2) (withS [(1, 0xFFFFFFFFFFFFFFFF), (2, 0)]) 3 = some 1 := by decide
theorem test_cmpltu_unsigned : sAfter (.cmpltu 3 1 2) (withS [(1, 0xFFFFFFFFFFFFFFFF), (2, 0)]) 3 = some 0 := by decide
/-- R98 to R100: 1 + 2^-24 ties to even and is inexact; 1 / 0 aside, a sum of opposite infinities is invalid; -0 equals +0. -/
theorem test_fadd_ties : after (.fadd 3 1 2 0) (withS [(1, 0x3F800000), (2, 0x33800000)]) (fun t => (t.rdS 3, decide (t.th.r.fp = 0))) = some (0x3F800000, false) := by
  decide
theorem test_fadd_invalid : sAfter (.fadd 3 1 2 0) (withS [(1, 0x7F800000), (2, 0xFF800000)]) 3 = some 0x7FC00000 := by decide
theorem test_fmul_exact : after (.fmul 3 1 2 0) (withS [(1, 0x40400000), (2, 0xC0000000)]) (fun t => (t.rdS 3, t.th.r.fp)) = some (0xC0C00000, 0) := by decide
theorem test_ffma_fused : sAfter (.ffma 3 1 2 4 0) (withS [(1, 0x3F800001), (2, 0x3F800001), (4, 0xBF800002)]) 3 = some 0x28800000 := by decide
theorem test_fcmp_zeros : sAfter (.fcmp 3 1 2 0) (withS [(1, 0x80000000)]) 3 = some 1 := by decide
theorem test_fcmp_nan : sAfter (.fcmp 3 1 2 2) (withS [(1, 0x7FC00000)]) 3 = some 0 := by decide
/-- R93: a branch counts from its own word, and BLR reads sa before s31 is written. -/
theorem test_beq_back : after (.beq 1 2 0x1FFF) (withS []) (fun t => t.th.r.pc) = some 0xFFFFFFFFFFFFFFFC := by decide
theorem test_blr_link : after (.blr 31) (withS [(31, 64)]) (fun t => (t.th.r.pc, t.rdS 31)) = some (64, 4) := by decide
theorem test_br_misaligned : after (.br 1) (withS [(1, 6)]) (fun t => (t.th.st, t.lastCode t.cur, t.th.r.pc)) = some (.frozen, tMisalign, 0) := by decide
/-- R112: PADD leaves the fields above the offset. -/
theorem test_padd_keepsFields : sAfter (.paddImm 3 1 0xFF) (withS [(1, 0x9180000000000001)]) 3 = some 0x9180000000000000 := by decide
theorem test_padd_traps : after (.paddImm 3 1 0xFF) (withS []) (fun t => t.lastCode t.cur) = some tSegLimit := by decide
/-- R135: little-endian bytes, and the sign. -/
theorem test_stW_bytes : after (.stW 2 1 0) (withG [(2, 0x11223344)] lsAll) (fun t => t.bytes 0 5) = some [0x44, 0x33, 0x22, 0x11, 0] := by decide
theorem test_ldHs_sign : sAfter (.ldHs 3 1 0) { withG [] lsAll with mem := [(1, 0x80)] } 3 = some 0xFFFFFFFFFFFF8000 := by decide
/-- Table 06-4: LDF of an empty word parks; STFF fills it. -/
theorem test_ldf_parks : after (.ldf 3 1 0) (withG [] lsAll) (fun t => t.th.st) = some .parked := by decide
theorem test_stff_fills : after (.stff 2 1 0) (withG [(2, 7)] lsAll) (fun t => (t.isFull 0, t.byte 0)) = some (true, 7) := by decide
/-- Table 06-7: the old value of a 32-bit atomic is sign-extended. -/
theorem test_amoAdd_old : after (.amoAdd 3 1 2 0) { withG [(2, 1)] lsAll with mem := [(0, 0xFF), (1, 0xFF), (2, 0xFF), (3, 0xFF)] }
    (fun t => (t.rdS 3, t.readLE 0 8)) = some (0xFFFFFFFFFFFFFFFF, 0) := by decide
theorem test_amoMinu_unsigned : after (.amoMinu 3 1 2 1) { withG [(2, 0xFFFFFFFFFFFFFFFF)] lsAll with mem := [(0, 5)] }
    (fun t => (t.rdS 3, t.readLE 0 8)) = some (5, 5) := by decide
/-- R387: TRAP retires and then freezes its slot after itself; its packet names the word. -/
theorem test_trap_packet : after (.trap 1 0x2A) (withS [(1, 9)])
    (fun t => (t.th.r.pc, (t.region 0).mailbox.map (fun p => (p.code, p.addr, p.info, p.pc)))) = some (4, [(0x09, 9, 0x2A, 0)]) := by decide
/-- R210: a kd of 0 is discarded; KPOP counts. -/
theorem test_kand_k0 : after (.kand 0 1 2) { withS [] with th := { st := .ready, r := { k := [(1, 0)] } } } (fun t => t.rdK 0) = some 0xFFFFFFFF := by decide
theorem test_kpop_all : sAfter (.kpop 3 0) (withS []) 3 = some 32 := by decide
/-- R227: with no unit free OCLAIM answers all ones. -/
theorem test_oclaim_taken : sAfter (.oclaim 3 0 0) (withCore { u := { hold := [(0, 2)] } }) 3 = some 0xFFFFFFFFFFFFFFFF := by decide
/-- R85: MFS of COREID-like registers is by the slot; a reserved number traps. -/
theorem test_mts_readOnly : after (.mts 1 0x00) (withS []) (fun t => t.lastCode t.cur) = some tIllegal := by decide


end Sys2Proof.Tests
end

section
/-! SUPPORT. Sparse maps read after entries are dropped by their keys, changed all alike, or dropped where they are the default. -/

namespace Sys2Proof.Machine

variable {α : Type}

/-- Dropping entries by their keys. -/
theorem SMap.get_filter_key (d : α) (f : Nat → Bool) (m : SMap α) (k : Nat) :
    SMap.get d (m.filter (fun p => f p.1)) k = if f k = true then SMap.get d m k else d := by
  induction m with
  | nil => simp
  | cons p r ih =>
    obtain ⟨j, v⟩ := p
    by_cases hj : f j = true
    · rw [List.filter_cons_of_pos (by exact hj), SMap.get_cons, SMap.get_cons, ih]
      split
      · subst_vars; rw [if_pos hj]
      · rfl
    · rw [List.filter_cons_of_neg (by exact hj), ih, SMap.get_cons]
      split
      · rw [if_neg (by rintro rfl; exact hj ‹_›)]
      · rfl

/-- Changing every entry, where the change leaves what an unlisted key reads as. -/
theorem SMap.get_map_entries (d : α) (f : Nat → α → α) (m : SMap α) (k : Nat) (hd : f k d = d) :
    SMap.get d (m.map (fun p => (p.1, f p.1 p.2))) k = f k (SMap.get d m k) := by
  induction m with
  | nil => exact hd.symm
  | cons p r ih =>
    obtain ⟨j, v⟩ := p
    rw [List.map_cons, SMap.get_cons, SMap.get_cons, ih]
    split
    · subst_vars; rfl
    · rfl

theorem SMap.get_of_not_mem (d : α) (m : SMap α) (k : Nat) (h : k ∉ m.map (fun p => p.1)) : SMap.get d m k = d := by
  induction m with
  | nil => rfl
  | cons p r ih =>
    simp only [List.map_cons, List.mem_cons, not_or] at h
    obtain ⟨j, v⟩ := p
    rw [SMap.get_cons, if_neg (Ne.symm h.1), ih h.2]

/-- Dropping the entries that equal the default changes no reading where no key is listed twice. -/
theorem SMap.get_filter_ne_default [DecidableEq α] (d : α) (m : SMap α) (k : Nat) (h : (m.map (fun p => p.1)).Nodup) :
    SMap.get d (m.filter (fun p => p.2 ≠ d)) k = SMap.get d m k := by
  induction m with
  | nil => rfl
  | cons p r ih =>
    obtain ⟨j, v⟩ := p
    simp only [List.map_cons, List.nodup_cons] at h
    obtain ⟨hj, hr⟩ := h
    by_cases hv : v = d
    · rw [List.filter_cons_of_neg (by simp [hv]), ih hr, SMap.get_cons]
      split
      · subst_vars; exact SMap.get_of_not_mem _ r _ hj
      · rfl
    · rw [List.filter_cons_of_pos (by simp [hv]), SMap.get_cons, SMap.get_cons, ih hr]

/-- An entry that a map reads is listed, or is what an unlisted key reads as. -/
theorem SMap.get_mem_or_default (d : α) (m : SMap α) (k : Nat) : (k, SMap.get d m k) ∈ m ∨ SMap.get d m k = d := by
  induction m with
  | nil => exact .inr rfl
  | cons p r ih =>
    obtain ⟨j, v⟩ := p
    rw [SMap.get_cons]
    split
    · subst_vars; exact .inl List.mem_cons_self
    · exact ih.imp_left (List.mem_cons_of_mem _)

end Sys2Proof.Machine
end

section
/-! PROOF. The state right after reset (01, R16, R77, R84, R191). -/

namespace Sys2Proof.Machine

theorem State.getT_reset (k : Nat) : State.reset.getT k = {} := by
  unfold State.getT; split <;> rfl

theorem slotState_empty (k : Nat) : slotState k {} = if k % 16 = 15 then .idle else .empty := by
  simp [slotState]

theorem Regs.rdS_empty (n : Nat) : Regs.rdS {} n = 0 := by unfold Regs.rdS; split <;> rfl
theorem Regs.rdK_empty (n : Nat) : Regs.rdK {} n = 0xFFFFFFFF#32 := by unfold Regs.rdK; split <;> rfl

/-- Settles O56: reset lists nothing, so every memory, slot, core and region reads as the default of its map. -/
theorem resetState : Obligations.ResetState := by
  unfold Obligations.ResetState
  refine ⟨State.memOk_reset, fun _ => rfl, fun _ => rfl, rfl, rfl, fun k => ?_, fun _ => rfl, fun k n => ?_, fun _ => ⟨rfl, rfl, rfl⟩,
    rfl, rfl, rfl, rfl⟩
  · rw [State.getT_reset, slotState_empty]
  · rw [State.getT_reset]
    exact ⟨Regs.rdS_empty n, rfl, Regs.rdK_empty n⟩

end Sys2Proof.Machine
end

section
/-! SUPPORT. What the shared operations leave of a region. Each of them changes regions and package registers alone (`State.Notes`), or leaves a
region as it is but for its mailbox, its trigger pulses, its black box and contexts that it loses (`State.KeepsRegion`). -/

namespace Sys2Proof.Machine

variable {x : Nat} {s t u : State}

/-- `t` is `s` but for what its regions and the package's own registers hold. -/
def State.Notes (s t : State) : Prop := ∃ g p, t = { s with regions := g, pkg := p }

theorem State.Notes.refl (s : State) : s.Notes s := ⟨_, _, rfl⟩

theorem State.Notes.trans {s t u : State} : s.Notes t → t.Notes u → s.Notes u := by
  rintro ⟨_, _, rfl⟩ ⟨g, p, rfl⟩
  exact ⟨g, p, rfl⟩

theorem State.Notes.foldl {β : Type} {f : State → β → State} (h : ∀ s a, State.Notes s (f s a)) (l : List β) :
    ∀ s, State.Notes s (l.foldl f s) := by
  induction l with
  | nil => exact State.Notes.refl
  | cons a r ih => exact fun s => (h s a).trans (ih (f s a))

theorem State.notes_updRegion (s : State) (r : Nat) (f : Region → Region) : s.Notes (s.updRegion r f) := ⟨_, _, rfl⟩
theorem State.notes_blackBox (s : State) (r k a : Nat) (d t : Word) : s.Notes (s.blackBox r k a d t) := ⟨_, _, rfl⟩

theorem State.notes_pulse (s : State) (die line : Nat) : s.Notes (s.pulse die line) := by
  unfold State.pulse
  dsimp only
  refine State.Notes.trans ?_ (State.Notes.foldl (fun s d => State.Notes.foldl (fun s i => s.notes_updRegion _ _) _ s) _ _)
  split <;> exact ⟨_, _, rfl⟩

theorem State.notes_fire (s : State) (die kind arg rgn : Nat) : s.Notes (s.fire die kind arg rgn) :=
  State.Notes.foldl (fun s _ => iteInduction (fun _ => s.notes_pulse _ _) (fun _ => State.Notes.refl s)) _ s

/-- A region but for what it has been told and has noted (its mailbox, trigger pulses and black box) and the contexts that it holds. -/
def Region.standing (g : Region) : Region := { g with mailbox := [], pulses := [], box := [], bbcnt := 0, contexts := [] }

/-- What looks at no more of a region than `Region.standing` shows is the same of regions that show the same. -/
theorem Region.eq_of_standing {α : Type} {a b : Region} (p : Region → α) (h : a.standing = b.standing)
    (hp : ∀ g, p g.standing = p g := by intro g; rfl) : p a = p b := by
  rw [← hp a, h, hp]

/-- Region `x` is in `t` as in `s`, but for what it has been told and has noted, and contexts that it has lost. -/
def State.KeepsRegion (x : Nat) (s t : State) : Prop :=
  (t.region x).standing = (s.region x).standing ∧ (t.region x).contexts ⊆ (s.region x).contexts

theorem State.KeepsRegion.refl (s : State) : s.KeepsRegion x s := ⟨rfl, List.Subset.refl _⟩

theorem State.KeepsRegion.trans (h : KeepsRegion x s t) (g : KeepsRegion x t u) : KeepsRegion x s u :=
  ⟨g.1.trans h.1, List.Subset.trans g.2 h.2⟩

theorem State.KeepsRegion.foldl {β : Type} {f : State → β → State} (h : ∀ s a, KeepsRegion x s (f s a)) (l : List β) :
    ∀ s, KeepsRegion x s (l.foldl f s) := by
  induction l with
  | nil => exact State.KeepsRegion.refl
  | cons a r ih => exact fun s => (h s a).trans (ih (f s a))

theorem State.keepsRegion_of_regions (h : t.regions = s.regions) : KeepsRegion x s t := by
  unfold State.KeepsRegion State.region
  rw [h]
  exact ⟨rfl, List.Subset.refl _⟩

theorem State.region_updRegion (s : State) (r x : Nat) (f : Region → Region) :
    (s.updRegion r f).region x = if x = r then f (s.region r) else s.region x := State.region_setRegion s r x _

theorem State.keepsRegion_updRegion_ne {r : Nat} (h : x ≠ r) (f : Region → Region) : KeepsRegion x s (s.updRegion r f) := by
  unfold State.KeepsRegion
  rw [State.region_updRegion, if_neg h]
  exact ⟨rfl, List.Subset.refl _⟩

theorem State.keepsRegion_updRegion (s : State) (r : Nat) {f : Region → Region} (hs : ∀ g, (f g).standing = g.standing)
    (hc : ∀ g, (f g).contexts = g.contexts) : KeepsRegion x s (s.updRegion r f) := by
  by_cases h : x = r
  · subst h
    unfold State.KeepsRegion
    rw [State.region_updRegion, if_pos rfl, hs, hc]
    exact ⟨rfl, List.Subset.refl _⟩
  · exact State.keepsRegion_updRegion_ne h f

theorem State.keepsRegion_blackBox (s : State) (r k a : Nat) (d w : Word) : KeepsRegion x s (s.blackBox r k a d w) :=
  State.keepsRegion_updRegion { s with pkg := _ } r (fun _ => rfl) (fun _ => rfl)

theorem State.keepsRegion_pulse (s : State) (die line : Nat) : KeepsRegion x s (s.pulse die line) := by
  unfold State.pulse
  dsimp only
  refine State.KeepsRegion.trans ?_ (State.KeepsRegion.foldl (fun s d => State.KeepsRegion.foldl (fun s i =>
    s.keepsRegion_updRegion _ (fun g => ?_) (fun g => ?_)) _ s) _ _)
  · split <;> exact State.keepsRegion_of_regions rfl
  · split <;> rfl
  · split <;> rfl

theorem State.keepsRegion_fire (s : State) (die kind arg rgn : Nat) : KeepsRegion x s (s.fire die kind arg rgn) :=
  State.KeepsRegion.foldl (fun s _ =>
    iteInduction (fun _ => s.keepsRegion_pulse _ _) (fun _ => State.KeepsRegion.refl s)) _ s

/-! Slots and cores are no part of a region. -/

@[simp] theorem State.setT_regions (s : State) (k : Nat) (t : Thread) : (s.setT k t).regions = s.regions := by
  unfold State.setT; split <;> rfl
@[simp] theorem State.updT_regions (s : State) (k : Nat) (f : Thread → Thread) : (s.updT k f).regions = s.regions := s.setT_regions k _
@[simp] theorem State.updCore_regions (s : State) (c : Nat) (f : Core → Core) : (s.updCore c f).regions = s.regions := rfl
@[simp] theorem State.switchTo_regions (s : State) (k : Nat) : (s.switchTo k).regions = s.regions := by
  unfold State.switchTo; split <;> rfl

theorem State.keepsRegion_disbandGang (s : State) (k : Nat) : KeepsRegion x s (s.disbandGang k) := by
  unfold State.disbandGang
  dsimp only
  split
  · exact State.KeepsRegion.refl s
  · refine State.KeepsRegion.foldl (fun s m => ?_) _ s
    split
    · exact State.keepsRegion_of_regions (by simp)
    · exact State.KeepsRegion.refl s

theorem State.keepsRegion_squashFrom (s : State) (o p : Nat) : KeepsRegion x s (s.squashFrom o p) := by
  unfold State.squashFrom
  refine State.KeepsRegion.foldl (fun t k => ?_) _ s
  split
  · split
    · exact State.keepsRegion_of_regions (by simp [State.squash])
    · exact State.KeepsRegion.refl t
  · exact State.KeepsRegion.refl t

theorem State.keepsRegion_sendPacket (s : State) (p : Packet) : KeepsRegion x s (s.sendPacket p) := by
  unfold State.sendPacket
  dsimp only
  split
  · exact s.keepsRegion_updRegion (regionOf p.core) (f := fun g => { g with mailbox := g.mailbox ++ [p] }) (fun _ => rfl) (fun _ => rfl)
  · exact (State.keepsRegion_of_regions (State.updCore_regions ..)).trans (State.keepsRegion_blackBox ..)

/-- Freezing a slot touches its region's mailbox, trigger lines and black box at most. -/
theorem State.keepsRegion_freeze (s : State) (k : Nat) (code : BitVec 8) (addr info pc : Word) (d st : Bool) (rep : List Byte) :
    KeepsRegion x s (s.freeze k code addr info pc d st rep) := by
  unfold State.freeze
  dsimp only
  refine State.KeepsRegion.trans ?_ (State.keepsRegion_sendPacket _ _)
  refine State.KeepsRegion.trans ?_ (State.keepsRegion_fire _ _ _ _ _)
  refine State.KeepsRegion.trans ?_ (State.keepsRegion_of_regions (State.updCore_regions ..))
  refine State.KeepsRegion.trans ?_ (State.keepsRegion_of_regions (State.updT_regions ..))
  refine State.KeepsRegion.trans ?_ (State.keepsRegion_disbandGang _ _)
  split
  · split
    · exact State.keepsRegion_squashFrom _ _ _
    · exact State.KeepsRegion.refl s
  · exact State.KeepsRegion.refl s

theorem State.keepsRegion_takeTrap (s : State) (code : BitVec 8) (addr info : Word) : KeepsRegion x s (s.takeTrap code addr info) := by
  have h (t : Thread) : KeepsRegion x s { s with th := t } := State.keepsRegion_of_regions rfl
  unfold State.takeTrap
  dsimp only
  split
  · exact h _
  · split
    · exact (h _).trans (State.keepsRegion_freeze ..)
    · exact h _
  · exact (h _).trans (State.keepsRegion_freeze ..)

/-! Steps 2 to 4 of a reset (Table 21-4). -/

theorem State.keepsRegion_refuseReq (s : State) (q : RelReq) : KeepsRegion x s (s.refuseReq q) := by
  unfold State.refuseReq
  dsimp only
  split
  · exact State.KeepsRegion.refl s
  split
  · exact State.keepsRegion_of_regions (State.updT_regions ..)
  split
  · exact State.KeepsRegion.refl s
  · exact (State.keepsRegion_of_regions (by simp)).trans (State.keepsRegion_takeTrap ..)

theorem State.keepsRegion_refuseMem (s : State) (r c : Nat) : KeepsRegion x s (s.refuseMem r c) := by
  unfold State.refuseMem
  dsimp only
  split
  · exact State.KeepsRegion.refl s
  · exact (State.keepsRegion_of_regions (State.updCore_regions ..)).trans
      (State.KeepsRegion.foldl (fun s q => s.keepsRegion_refuseReq q) _ _)

theorem State.refuse_regions (s : State) (f : Flit) (code : BitVec 8) : (s.refuse f code).regions = s.regions := by
  unfold State.refuse State.answer; split <;> rfl

theorem State.keepsRegion_refuseFlits (s : State) (r : Nat) : KeepsRegion x s (s.refuseFlits r) := by
  unfold State.refuseFlits State.wakeAll
  dsimp only
  refine State.KeepsRegion.trans ?_ (State.KeepsRegion.foldl (fun s k => State.keepsRegion_of_regions (State.updT_regions ..)) _ _)
  refine State.KeepsRegion.trans ?_ (State.KeepsRegion.foldl (fun s k => State.keepsRegion_of_regions (State.updT_regions ..)) _ _)
  refine State.KeepsRegion.trans ?_ (State.KeepsRegion.foldl (fun s c => s.keepsRegion_refuseMem r c) _ _)
  refine State.KeepsRegion.trans ?_ (State.KeepsRegion.foldl (fun s f => State.keepsRegion_of_regions (s.refuse_regions f _)) _ _)
  exact State.keepsRegion_of_regions rfl

theorem State.foldl_setEngine_eq (g : State → Nat → List Cmd) (l : List Nat) : ∀ s : State,
    ∃ e, l.foldl (fun s k => s.setEngine k (g s k)) s = { s with engines := e } := by
  induction l with
  | nil => exact fun s => ⟨s.engines, rfl⟩
  | cons k r ih => intro s; obtain ⟨e, h⟩ := ih (s.setEngine k (g s k)); exact ⟨e, h⟩

/-- Step 3 changes the engines' commands and their collectives' flits, and nothing else. -/
theorem State.abortEngines_eq (s : State) (r : Nat) : ∃ a e, s.abortEngines r = { s with a2a := a, engines := e } := by
  obtain ⟨e, h⟩ := State.foldl_setEngine_eq _ _ { s with a2a := _ }
  exact ⟨_, e, h⟩

/-- Step 4 takes from each region the contexts that the reset loses (R418). -/
theorem State.region_loseTasks (s : State) (r x : Nat) :
    (s.loseTasks r).region x = { s.region x with contexts := (s.region x).contexts.filter (fun c => !s.loses r x c) } := by
  have h := SMap.get_map_entries ({} : Region) (fun p g => { g with contexts := g.contexts.filter (fun c => !s.loses r p c) }) s.regions x rfl
  unfold State.loseTasks
  dsimp only
  split <;> exact h

/-- Step 4 empties the slots of its region (R418). -/
theorem State.getT_loseTasks (s : State) (r k : Nat) : (s.loseTasks r).getT k = if regionOf (coreOf k) = r then {} else s.getT k := by
  have hcur : s.regionNo = regionOf (coreOf s.cur) := rfl
  have hother := SMap.get_filter_key ({} : Thread) (fun j => decide (regionOf (coreOf j) ≠ r)) s.threads k
  simp only [decide_eq_true_eq, ite_not] at hother
  unfold State.loseTasks State.getT
  dsimp only
  by_cases hr : s.regionNo = r
  · rw [if_pos hr]
    by_cases hk : k = s.cur
    · rw [if_pos hk, hk, ← hcur, if_pos hr]
    · rw [if_neg hk, if_neg hk]
      exact hother
  · rw [if_neg hr]
    by_cases hk : k = s.cur
    · rw [if_pos hk, if_pos hk, hk, ← hcur, if_neg hr]
    · rw [if_neg hk, if_neg hk]
      exact hother

theorem State.keepsRegion_loseTasks (s : State) (r : Nat) : KeepsRegion x s (s.loseTasks r) := by
  unfold State.KeepsRegion
  rw [State.region_loseTasks]
  exact ⟨rfl, fun _ h => (List.mem_filter.mp h).1⟩

end Sys2Proof.Machine
end

section
/-! SUPPORT. What the first four steps of a reset leave of slots, cores and memory where no core has an access on its way to a controller
(`State.Quiet`): only slots parked on a fault or on the log change, and none that holds nothing. -/

namespace Sys2Proof.Machine

variable {x r : Nat} {s t u : State}

/-- No core has an access on its way to a memory controller or the host port. -/
def State.Quiet (s : State) : Prop := ∀ c ∈ s.cores, c.2.mem = []

theorem State.Quiet.core_mem (h : s.Quiet) (c : Nat) : (s.core c).mem = [] := by
  rcases SMap.get_mem_or_default ({} : Core) s.cores c with hc | hc
  · exact h _ hc
  · show (SMap.get {} s.cores c).mem = []
    rw [hc]

/-- Memory and the cores are as before, and no slot that held nothing holds anything. -/
structure State.SparesUnits (s t : State) : Prop where
  mem : t.mem = s.mem
  cores : t.cores = s.cores
  slot : ∀ k, s.getT k = {} → t.getT k = {}

theorem State.SparesUnits.refl (s : State) : s.SparesUnits s := ⟨rfl, rfl, fun _ h => h⟩

theorem State.SparesUnits.trans (h : s.SparesUnits t) (g : t.SparesUnits u) : s.SparesUnits u :=
  ⟨g.mem.trans h.mem, g.cores.trans h.cores, fun k hk => g.slot k (h.slot k hk)⟩

theorem State.SparesUnits.quiet (h : s.SparesUnits t) (hs : s.Quiet) : t.Quiet := by
  unfold State.Quiet
  rw [h.cores]
  exact hs

theorem State.Notes.sparesUnits (h : s.Notes t) : s.SparesUnits t := by
  obtain ⟨g, p, rfl⟩ := h
  exact ⟨rfl, rfl, fun _ h => h⟩

/-! Waiters. -/

theorem mem_insertBy (key : Nat → Nat × Nat) (x y : Nat) (l : List Nat) : y ∈ insertBy key x l ↔ y = x ∨ y ∈ l := by
  induction l with
  | nil => simp [insertBy]
  | cons z r ih =>
    unfold insertBy
    split
    · exact List.mem_cons
    · rw [List.mem_cons, ih, List.mem_cons]
      exact or_left_comm

theorem mem_foldl_insertBy (key : Nat → Nat × Nat) (y : Nat) (l : List Nat) : ∀ m : List Nat,
    y ∈ l.foldl (fun m k => insertBy key k m) m → y ∈ l ∨ y ∈ m := by
  induction l with
  | nil => exact fun _ => .inr
  | cons z r ih =>
    intro m h
    rcases ih _ h with h | h
    · exact .inl (List.mem_cons_of_mem _ h)
    · rcases (mem_insertBy key z y m).mp h with rfl | h
      · exact .inl List.mem_cons_self
      · exact .inr h

theorem State.parked_of_mem_waiters {f : Park → Bool} {k : Nat} (h : k ∈ s.waiters f) : (s.getT k).st = .parked := by
  rcases mem_foldl_insertBy _ _ _ _ h with h | h
  · have hk := (List.mem_filter.mp h).2
    simp only [Bool.and_eq_true, decide_eq_true_eq] at hk
    exact hk.1
  · exact absurd h List.not_mem_nil

theorem State.getT_foldl_updT_of_not_mem (f : Thread → Thread) (k : Nat) (l : List Nat) (h : k ∉ l) : ∀ s : State,
    (l.foldl (fun s j => s.updT j f) s).getT k = s.getT k := by
  induction l with
  | nil => exact fun _ => rfl
  | cons j r ih =>
    simp only [List.mem_cons, not_or] at h
    obtain ⟨hj, hr⟩ := h
    intro s
    rw [List.foldl_cons, ih hr]
    exact (s.getT_setT j k _).trans (if_neg hj)

theorem State.setT_mem (s : State) (k : Nat) (t : Thread) : (s.setT k t).mem = s.mem := (s.sameMem_setT k t).1
theorem State.setT_cores (s : State) (k : Nat) (t : Thread) : (s.setT k t).cores = s.cores := by
  unfold State.setT; split <;> rfl

theorem State.foldl_updT_mem (f : Thread → Thread) (l : List Nat) : ∀ s : State, (l.foldl (fun s j => s.updT j f) s).mem = s.mem := by
  induction l with
  | nil => exact fun _ => rfl
  | cons j r ih => exact fun s => (ih _).trans (s.setT_mem j _)

theorem State.foldl_updT_cores (f : Thread → Thread) (l : List Nat) : ∀ s : State,
    (l.foldl (fun s j => s.updT j f) s).cores = s.cores := by
  induction l with
  | nil => exact fun _ => rfl
  | cons j r ih => exact fun s => (ih _).trans (s.setT_cores j _)

/-- What a change of the slots parked on a cause spares: a slot that holds nothing is parked on none. -/
theorem State.sparesUnits_waiters (s : State) (p : Park → Bool) (f : Thread → Thread) :
    s.SparesUnits ((s.waiters p).foldl (fun s k => s.updT k f) s) where
  mem := State.foldl_updT_mem f _ s
  cores := State.foldl_updT_cores f _ s
  slot k hk := by
    rw [State.getT_foldl_updT_of_not_mem f k _ (fun h => ?_) s, hk]
    have hp := State.parked_of_mem_waiters h
    rw [hk] at hp
    cases hp

theorem State.sparesUnits_refuse (s : State) (f : Flit) (code : BitVec 8) : s.SparesUnits (s.refuse f code) := by
  unfold State.refuse State.answer
  split <;> exact ⟨rfl, rfl, fun _ h => h⟩

theorem State.sparesUnits_foldl_refuse (code : BitVec 8) (l : List Flit) : ∀ s : State,
    s.SparesUnits (l.foldl (fun s f => s.refuse f code) s) := by
  induction l with
  | nil => exact State.SparesUnits.refl
  | cons f r ih => exact fun s => (s.sparesUnits_refuse f code).trans (ih _)

/-- With no access on its way to memory there is none to refuse. -/
theorem State.sparesUnits_foldl_refuseMem (h : s.SparesUnits t) (hs : s.Quiet) (r : Nat) (l : List Nat) :
    s.SparesUnits (l.foldl (fun s c => s.refuseMem r c) t) := by
  induction l with
  | nil => exact h
  | cons c l ih =>
    have hc : t.refuseMem r c = t := by
      unfold State.refuseMem
      rw [(h.quiet hs).core_mem c]
      rfl
    rw [List.foldl_cons, hc]
    exact ih

theorem State.sparesUnits_refuseFlits (h : s.Quiet) (r : Nat) : s.SparesUnits (s.refuseFlits r) := by
  unfold State.refuseFlits State.wakeAll
  dsimp only
  refine State.SparesUnits.trans ?_ (State.sparesUnits_waiters _ _ _)
  refine State.SparesUnits.trans ?_ (State.sparesUnits_waiters _ _ _)
  refine State.sparesUnits_foldl_refuseMem ?_ h r _
  refine State.SparesUnits.trans ?_ (State.sparesUnits_foldl_refuse _ _ _)
  exact ⟨rfl, rfl, fun _ h => h⟩

theorem State.sparesUnits_abortEngines (s : State) (r : Nat) : s.SparesUnits (s.abortEngines r) := by
  obtain ⟨a, e, h⟩ := s.abortEngines_eq r
  rw [h]
  exact ⟨rfl, rfl, fun _ h => h⟩

theorem State.keepsRegion_abortEngines (s : State) (r : Nat) : KeepsRegion x s (s.abortEngines r) := by
  obtain ⟨a, e, h⟩ := s.abortEngines_eq r
  rw [h]
  exact State.keepsRegion_of_regions rfl

theorem State.sparesUnits_loseTasks (s : State) (r : Nat) : s.SparesUnits (s.loseTasks r) where
  mem := by unfold State.loseTasks; dsimp only; split <;> rfl
  cores := by unfold State.loseTasks; dsimp only; split <;> rfl
  slot k hk := by rw [State.getT_loseTasks, hk, ite_self]

end Sys2Proof.Machine
end

section
/-! SUPPORT. A reset step by step, as a change of its own region (`State.Remakes`): the phase begins, the gate closes, the region is cleared. -/

namespace Sys2Proof.Machine

variable {x r : Nat} {s t u : State} {f g : Region → Region}

/-- A change of a region that sees and changes no more than `Region.standing` shows. -/
structure Region.Plain (f : Region → Region) : Prop where
  standing : ∀ g, (f g).standing = (f g.standing).standing
  contexts : ∀ g, (f g).contexts = g.contexts

/-- `t` is `s` with region `r` changed by `f`, but for what regions have been told and have noted, and contexts that they have lost. -/
def State.Remakes (r : Nat) (f : Region → Region) (s t : State) : Prop := ∀ x, KeepsRegion x (s.updRegion r f) t

theorem State.Remakes.at (h : Remakes r f s t) : (t.region r).standing = (f (s.region r)).standing := by
  have := (h r).1
  rwa [State.region_updRegion, if_pos rfl] at this

theorem State.Remakes.other (h : Remakes r f s t) (hx : x ≠ r) : KeepsRegion x s t :=
  (State.keepsRegion_updRegion_ne hx f).trans (h x)

theorem State.Remakes.contexts (h : Remakes r f s t) (hf : Region.Plain f) (x : Nat) : (t.region x).contexts ⊆ (s.region x).contexts := by
  have := (h x).2
  rw [State.region_updRegion] at this
  split at this
  · subst_vars; rwa [hf.contexts] at this
  · exact this

theorem State.Remakes.keeps (h : Remakes r f s t) (k : ∀ x, KeepsRegion x t u) : Remakes r f s u := fun x => (h x).trans (k x)

theorem State.Remakes.trans (h : Remakes r f s t) (k : Remakes r g t u) (hg : Region.Plain g) : Remakes r (fun a => g (f a)) s u := by
  intro x
  by_cases hx : x = r
  · subst hx
    have hc := (k x).2
    have hd := (h x).2
    rw [State.region_updRegion, if_pos rfl] at hc hd
    rw [hg.contexts] at hc
    constructor
    · rw [k.at, hg.standing, h.at, ← hg.standing, State.region_updRegion, if_pos rfl]
    · rw [State.region_updRegion, if_pos rfl, hg.contexts]
      exact List.Subset.trans hc hd
  · have := (h.other hx).trans (k.other hx)
    unfold State.KeepsRegion at this ⊢
    rwa [State.region_updRegion, if_neg hx]

theorem State.remakes_updRegion (s : State) (r : Nat) (f : Region → Region) : Remakes r f s (s.updRegion r f) :=
  fun _ => State.KeepsRegion.refl _

/-- PHASE set. -/
def Region.inPhase (n : Nat) (g : Region) : Region := { g with own := { g.own with phase := n } }

/-- A step of a reset begins: its phase is set (R417), and its trigger and record are notes. -/
theorem State.remakes_beginStep (s : State) (r n : Nat) : Remakes r (Region.inPhase n) s (s.beginStep r n) := by
  intro x
  refine (State.keepsRegion_fire (s.updRegion r (Region.inPhase n)) (r / 4) 4 n (r % 4)).trans ?_
  unfold State.beginStep
  exact iteInduction (fun _ => State.keepsRegion_blackBox ..) (fun _ => State.KeepsRegion.refl _)

theorem State.notes_beginStep (s : State) (r n : Nat) : s.Notes (s.beginStep r n) := by
  refine (s.notes_updRegion r (Region.inPhase n)).trans ((State.notes_fire _ (r / 4) 4 n (r % 4)).trans ?_)
  unfold State.beginStep
  exact iteInduction (fun _ => State.notes_blackBox ..) (fun _ => State.Notes.refl _)

/-! Step 1: the gate and the windows. -/

theorem State.notes_setWindow (s : State) (r n w : Nat) (v : BitVec 64) : s.Notes (s.setWindow r n w v) :=
  (s.notes_updRegion r _).trans (State.notes_blackBox ..)

theorem State.notes_windowsSet (s : State) (r : Nat) : s.Notes (s.windowsSet r) := by
  unfold State.windowsSet
  refine (s.notes_updRegion r (fun g => { g with winPend := [] })).trans ?_
  refine State.Notes.foldl (fun s q => ?_) _ _
  exact s.notes_setWindow r q.1 q.2.1 q.2.2

theorem State.notes_closeGate (s : State) (r : Nat) : s.Notes (s.closeGate r) :=
  (s.notes_windowsSet r).trans ((State.notes_updRegion _ r _).trans (State.notes_blackBox ..))

/-- The windows of a region replaced. -/
def Region.withWins (w : SMap Win) (g : Region) : Region := { g with win := w }

theorem State.remakes_foldl_setWindow (r : Nat) (l : List (Nat × Nat × Word)) : ∀ s : State,
    ∃ w, Remakes r (Region.withWins w) s (l.foldl (fun s q => s.setWindow r q.1 q.2.1 q.2.2) s) := by
  induction l with
  | nil =>
    intro s
    refine ⟨(s.region r).win, fun x => ?_⟩
    unfold State.KeepsRegion
    rw [State.region_updRegion]
    split
    · subst_vars; exact ⟨rfl, List.Subset.refl _⟩
    · exact ⟨rfl, List.Subset.refl _⟩
  | cons q l ih =>
    intro s
    obtain ⟨w, h⟩ := ih (s.setWindow r q.1 q.2.1 q.2.2)
    have h1 : Remakes r (Region.withWins _) s (s.setWindow r q.1 q.2.1 q.2.2) :=
      (s.remakes_updRegion r (Region.withWins _)).keeps (fun _ => State.keepsRegion_blackBox ..)
    exact ⟨w, h1.trans h ⟨fun _ => rfl, fun _ => rfl⟩⟩

/-- A window lost: GONE set and VALID clear (R417). -/
def Win.lost (w : Win) : Win := { w with w0 := (w.w0 &&& 0x3FFFFFFFFFFFFFFF#64) ||| 0x4000000000000000#64 }

theorem Win.lost_gone (w : Win) : w.lost.w0.getLsbD 62 = true := by
  simp [Win.lost]

theorem Win.lost_valid (w : Win) : w.lost.w0.getLsbD 63 = false := by
  simp [Win.lost]

/-- Every window of a region lost. -/
def lostWins (w : SMap Win) : SMap Win := (List.range 4).foldl (fun m n => SMap.set {} m n (SMap.get {} m n).lost) w

theorem get_lostWins (w : SMap Win) (n : Nat) (h : n < 4) : SMap.get {} (lostWins w) n = (SMap.get {} w n).lost := by
  show SMap.get {} ([0, 1, 2, 3].foldl (fun m n => SMap.set {} m n (SMap.get {} m n).lost) w) n = _
  simp only [List.foldl_cons, List.foldl_nil, SMap.get_set]
  obtain rfl | rfl | rfl | rfl : n = 0 ∨ n = 1 ∨ n = 2 ∨ n = 3 := by omega
  all_goals rfl

/-- What step 1 leaves of a region. -/
def Region.shut (w : SMap Win) (g : Region) : Region := { g with own := { g.own with gate := false }, win := lostWins w, winPend := [] }

/-- Step 1 closes the gate and loses the windows, whatever writes of them were waiting. -/
theorem State.remakes_closeGate (s : State) (r : Nat) : ∃ w, Remakes r (Region.shut w) s (s.closeGate r) := by
  have h0 := s.remakes_updRegion r (fun g => { g with winPend := [] })
  obtain ⟨w, h1⟩ := State.remakes_foldl_setWindow r (s.region r).winPend (s.updRegion r (fun g => { g with winPend := [] }))
  have h2 : Remakes r (fun g => { g with own := { g.own with gate := false }, win := lostWins g.win }) (s.windowsSet r) (s.closeGate r) :=
    (State.remakes_updRegion _ r _).keeps (fun _ => State.keepsRegion_blackBox ..)
  exact ⟨w, (h0.trans h1 ⟨fun _ => rfl, fun _ => rfl⟩).trans h2 ⟨fun _ => rfl, fun _ => rfl⟩⟩

/-! Step 5. -/

/-- The owner after a reset: the one that it applies, or the old one (R413). -/
def Own.owner (o : Own) (new : Option (Bool × Nat)) : Bool × Nat := new.getD (o.assigned, o.vf)

/-- Whether a reset zeroises region memory too: its owner changes, or a stack has failed (R417, R419). -/
def Own.wipes (o : Own) (cause : Nat) (new : Option (Bool × Nat)) : Bool :=
  decide (o.owner new ≠ (o.assigned, o.vf)) || decide (cause = 5)

theorem State.mem_clearRegion (s : State) (r cause : Nat) (new : Option (Bool × Nat)) :
    (s.clearRegion r cause new).mem =
      s.mem.filter (fun p => !(inSram r p.1 || ((s.region r).own.wipes cause new && isHbm p.1 && keyRegion p.1 32 = r))) := by
  unfold State.clearRegion
  dsimp only
  split <;> split <;> rfl

/-- What a byte reads as after step 5 (R16, R417). -/
theorem State.byte_clearRegion (s : State) (r cause : Nat) (new : Option (Bool × Nat)) (k : Nat) :
    (s.clearRegion r cause new).byte k =
      if inSram r k || ((s.region r).own.wipes cause new && isHbm k && keyRegion k 32 = r) then 0 else s.byte k := by
  unfold State.byte
  rw [State.mem_clearRegion, SMap.get_filter_key memDefault (fun k => !(inSram r k ||
    ((s.region r).own.wipes cause new && isHbm k && keyRegion k 32 = r)))]
  simp only [Bool.not_eq_true', ← Bool.not_eq_true, ite_not]
  rfl

theorem State.cores_clearRegion (s : State) (r cause : Nat) (new : Option (Bool × Nat)) :
    (s.clearRegion r cause new).cores = s.cores.filter (fun p => regionOf p.1 ≠ r) := by
  unfold State.clearRegion
  dsimp only
  split <;> split <;> rfl

theorem State.getT_clearRegion (s : State) (r cause : Nat) (new : Option (Bool × Nat)) (k : Nat) :
    (s.clearRegion r cause new).getT k = s.getT k := by
  unfold State.clearRegion
  dsimp only
  split <;> split <;> rfl

/-- A region given to an owner. -/
def Region.ownedBy (o : Bool × Nat) (g : Region) : Region := { g with own := { g.own with assigned := o.1, vf := o.2 } }

theorem Region.plain_renewed (o : Bool × Nat) : Region.Plain (fun g => g.cleared.ownedBy o) := ⟨fun _ => rfl, fun _ => rfl⟩

/-- The end of step 5: the region's registers are cleared and its owner is applied. -/
def State.giveRegion (s : State) (r : Nat) (o : Bool × Nat) (fresh changed : Bool) : State :=
  let s := (s.updRegion r Region.cleared).updRegion r (Region.ownedBy o)
  let s := if fresh then s.setVf o.2 { s.vf o.2 with nextLaunch := 0 } else s
  if changed then s.blackBox r 12 o.2 0 0 else s

theorem State.clearRegion_eq (s : State) (r cause : Nat) (new : Option (Bool × Nat)) : ∃ m f p u c d fresh changed,
    s.clearRegion r cause new = State.giveRegion { s with mem := m, full := f, poison := p, upsets := u, cores := c, clusters := d } r
      ((s.region r).own.owner new) fresh changed := ⟨_, _, _, _, _, _, _, _, rfl⟩

theorem State.remakes_giveRegion (s : State) (r : Nat) (o : Bool × Nat) (fresh changed : Bool) :
    Remakes r (fun g => g.cleared.ownedBy o) s (s.giveRegion r o fresh changed) := by
  have h : Remakes r (fun g => g.cleared.ownedBy o) s ((s.updRegion r Region.cleared).updRegion r (Region.ownedBy o)) :=
    (s.remakes_updRegion r Region.cleared).trans (State.remakes_updRegion _ r _) ⟨fun _ => rfl, fun _ => rfl⟩
  refine h.keeps (fun x => ?_)
  unfold State.giveRegion
  dsimp only
  refine State.KeepsRegion.trans ?_
    (iteInduction (fun _ => State.keepsRegion_blackBox ..) (fun _ => State.KeepsRegion.refl _))
  exact iteInduction (fun _ => State.keepsRegion_of_regions rfl) (fun _ => State.KeepsRegion.refl _)

/-- Step 5 clears a region and applies its owner, and leaves every other region as it is. -/
theorem State.remakes_clearRegion (s : State) (r cause : Nat) (new : Option (Bool × Nat)) :
    Remakes r (fun g => g.cleared.ownedBy ((s.region r).own.owner new)) s (s.clearRegion r cause new) := by
  obtain ⟨m, f, p, u, c, d, fresh, changed, h⟩ := s.clearRegion_eq r cause new
  rw [h]
  exact State.remakes_giveRegion { s with mem := m, full := f, poison := p, upsets := u, cores := c, clusters := d } r _ fresh changed

end Sys2Proof.Machine
end

section
/-! SUPPORT. The whole reset of a region (R417): what it leaves of the region itself, and the contexts that outlive it. -/

namespace Sys2Proof.Machine

variable {x r : Nat} {s t u : State} {f : Region → Region}

/-- The cause of a reset set. -/
def Region.blamed (cause : Nat) (g : Region) : Region := { g with own := { g.own with cause := cause } }

/-- A reset up to step 4, before the tasks of its region are lost. -/
def State.beforeTasks (s : State) (r cause : Nat) : State :=
  let s := s.updRegion r (Region.blamed cause)
  let s := (s.beginStep r 1).closeGate r
  let s := (s.beginStep r 2).refuseFlits r
  ((s.beginStep r 3).abortEngines r).beginStep r 4

/-- A reset up to step 5, before its region is cleared. -/
def State.beforeClear (s : State) (r cause : Nat) : State := ((s.beforeTasks r cause).loseTasks r).beginStep r 5

theorem State.resetRegion_eq (s : State) (r cause : Nat) (new : Option (Bool × Nat)) : ∃ p,
    s.resetRegion r cause new = { ((s.beforeClear r cause).clearRegion r cause new).beginStep r 6 with pkg := p } := ⟨_, rfl⟩

/-- What the steps up to step `n` leave of a region that they do not clear. -/
def Region.closed (cause n : Nat) (w : SMap Win) (g : Region) : Region :=
  { g with own := { g.own with cause := cause, gate := false, phase := n }, win := lostWins w, winPend := [] }

theorem Region.plain_inPhase (n : Nat) : Region.Plain (Region.inPhase n) := ⟨fun _ => rfl, fun _ => rfl⟩
theorem Region.plain_shut (w : SMap Win) : Region.Plain (Region.shut w) := ⟨fun _ => rfl, fun _ => rfl⟩
theorem Region.plain_closed (cause n : Nat) (w : SMap Win) : Region.Plain (Region.closed cause n w) := ⟨fun _ => rfl, fun _ => rfl⟩

theorem Region.inPhase_shut (cause m n : Nat) (w : SMap Win) (g : Region) :
    ((Region.blamed cause g).inPhase m |>.shut w).inPhase n = g.closed cause n w := by
  simp only [Region.inPhase, Region.shut, Region.blamed, Region.closed]

theorem Region.inPhase_closed (cause m n : Nat) (w : SMap Win) (g : Region) : (g.closed cause m w).inPhase n = g.closed cause n w := by
  simp only [Region.inPhase, Region.closed]

/-- A region that is already closed passes to the next step. -/
theorem State.Remakes.nextStep {cause m : Nat} {w : SMap Win} (h : Remakes r (Region.closed cause m w) s t) (n : Nat) :
    Remakes r (Region.closed cause n w) s (t.beginStep r n) := by
  have := h.trans (t.remakes_beginStep r n) (Region.plain_inPhase n)
  simpa only [Region.inPhase_closed] using this

/-- Steps 1 to 4 close the region, and leave every other region as it is. -/
theorem State.remakes_beforeTasks (s : State) (r cause : Nat) : ∃ w, Remakes r (Region.closed cause 4 w) s (s.beforeTasks r cause) := by
  have h1 := (s.remakes_updRegion r (Region.blamed cause)).trans (State.remakes_beginStep _ r 1) (Region.plain_inPhase 1)
  obtain ⟨w, hw⟩ := State.remakes_closeGate ((s.updRegion r (Region.blamed cause)).beginStep r 1) r
  have h2 := (h1.trans hw (Region.plain_shut w)).trans (State.remakes_beginStep _ r 2) (Region.plain_inPhase 2)
  simp only [Region.inPhase_shut] at h2
  have h3 := (h2.keeps (fun _ => State.keepsRegion_refuseFlits _ r)).nextStep 3
  exact ⟨w, (h3.keeps (fun _ => State.keepsRegion_abortEngines _ r)).nextStep 4⟩

theorem State.remakes_beforeClear (s : State) (r cause : Nat) : ∃ w, Remakes r (Region.closed cause 5 w) s (s.beforeClear r cause) := by
  obtain ⟨w, h⟩ := s.remakes_beforeTasks r cause
  exact ⟨w, (h.keeps (fun _ => State.keepsRegion_loseTasks _ r)).nextStep 5⟩

/-- Before the region is cleared its owner is still the old one. -/
theorem State.owner_beforeClear (s : State) (r cause : Nat) (new : Option (Bool × Nat)) :
    ((s.beforeClear r cause).region r).own.owner new = (s.region r).own.owner new := by
  obtain ⟨w, h⟩ := s.remakes_beforeClear r cause
  rw [Region.eq_of_standing Region.own h.at]
  rfl

theorem State.wipes_beforeClear (s : State) (r cause : Nat) (new : Option (Bool × Nat)) :
    ((s.beforeClear r cause).region r).own.wipes cause new = (s.region r).own.wipes cause new := by
  obtain ⟨w, h⟩ := s.remakes_beforeClear r cause
  rw [Region.eq_of_standing Region.own h.at]
  rfl

/-- What a reset leaves of its region (R417): in step 6, closed, with its windows lost, its registers cleared and its owner applied. -/
def Region.reset (cause : Nat) (w : SMap Win) (o : Bool × Nat) (g : Region) : Region :=
  ((Region.closed cause 5 w g).cleared.ownedBy o).inPhase 6

/-- A reset changes its own region, and every other one only by what it is told and by contexts that it loses. -/
theorem State.remakes_resetRegion (s : State) (r cause : Nat) (new : Option (Bool × Nat)) :
    ∃ w, Remakes r (Region.reset cause w ((s.region r).own.owner new)) s (s.resetRegion r cause new) := by
  obtain ⟨p, hp⟩ := s.resetRegion_eq r cause new
  obtain ⟨w, h5⟩ := s.remakes_beforeClear r cause
  have h6 := (h5.trans (State.remakes_clearRegion _ r cause new) (Region.plain_renewed _)).trans
    (State.remakes_beginStep _ r 6) (Region.plain_inPhase 6)
  rw [State.owner_beforeClear] at h6
  rw [hp]
  exact ⟨w, h6.keeps (fun _ => State.keepsRegion_of_regions rfl)⟩

/-- Steps 1 to 4 touch no core, but for step 2, which refuses what is on its way to the region's memory. -/
theorem State.sparesUnits_beforeTasks (h : s.Quiet) (r cause : Nat) : s.SparesUnits (s.beforeTasks r cause) := by
  have h2 := (((s.notes_updRegion r (Region.blamed cause)).trans (State.notes_beginStep _ r 1)).trans
    ((State.notes_closeGate _ r).trans (State.notes_beginStep _ r 2))).sparesUnits
  have h3 := h2.trans (State.sparesUnits_refuseFlits (h2.quiet h) r)
  exact ((h3.trans (State.notes_beginStep _ r 3).sparesUnits).trans (State.sparesUnits_abortEngines _ r)).trans
    (State.notes_beginStep _ r 4).sparesUnits

theorem State.sparesUnits_beforeClear (h : s.Quiet) (r cause : Nat) : s.SparesUnits (s.beforeClear r cause) :=
  ((State.sparesUnits_beforeTasks h r cause).trans (State.sparesUnits_loseTasks _ r)).trans (State.notes_beginStep _ r 5).sparesUnits

theorem State.cores_resetRegion (s : State) (r cause : Nat) (new : Option (Bool × Nat)) :
    (s.resetRegion r cause new).cores = (s.beforeClear r cause).cores.filter (fun p => regionOf p.1 ≠ r) := by
  obtain ⟨p, hp⟩ := s.resetRegion_eq r cause new
  rw [hp, ← State.cores_clearRegion _ r cause new]
  exact (State.notes_beginStep _ r 6).sparesUnits.cores

theorem State.core_resetRegion (s : State) (r cause : Nat) (new : Option (Bool × Nat)) (c : Nat) :
    (s.resetRegion r cause new).core c = if regionOf c = r then {} else (s.beforeClear r cause).core c := by
  unfold State.core
  rw [State.cores_resetRegion, SMap.get_filter_key ({} : Core) (fun c => decide (regionOf c ≠ r))]
  simp only [decide_eq_true_eq, ite_not]

theorem State.byte_resetRegion (s : State) (r cause : Nat) (new : Option (Bool × Nat)) (k : Nat) :
    (s.resetRegion r cause new).byte k =
      if inSram r k || ((s.region r).own.wipes cause new && isHbm k && keyRegion k 32 = r) then 0 else (s.beforeClear r cause).byte k := by
  obtain ⟨p, hp⟩ := s.resetRegion_eq r cause new
  rw [← State.wipes_beforeClear s r cause new, ← State.byte_clearRegion, hp]
  exact congrArg (SMap.get memDefault · k) (State.notes_beginStep _ r 6).sparesUnits.mem

theorem State.Notes.getT (h : s.Notes t) (k : Nat) : t.getT k = s.getT k := by
  obtain ⟨g, p, rfl⟩ := h
  rfl

theorem State.getT_resetRegion (s : State) (r cause : Nat) (new : Option (Bool × Nat)) (k : Nat) :
    (s.resetRegion r cause new).getT k = if regionOf (coreOf k) = r then {} else (s.beforeTasks r cause).getT k := by
  obtain ⟨p, hp⟩ := s.resetRegion_eq r cause new
  calc (s.resetRegion r cause new).getT k
      = (((s.beforeClear r cause).clearRegion r cause new).beginStep r 6).getT k := by rw [hp]; rfl
    _ = (s.beforeClear r cause).getT k := by rw [(State.notes_beginStep _ r 6).getT, State.getT_clearRegion]
    _ = ((s.beforeTasks r cause).loseTasks r).getT k := (State.notes_beginStep _ r 5).getT k
    _ = _ := State.getT_loseTasks _ r k

/-! The contexts that outlive a reset (R418). -/

/-- What a walk that sets no A bit depends on: memory, and of each region its root and its owner (R119). -/
structure State.SameTables (s t : State) : Prop where
  mem : t.mem = s.mem
  root : ∀ x, (t.region x).ptroot = (s.region x).ptroot
  assigned : ∀ x, (t.region x).own.assigned = (s.region x).own.assigned
  vf : ∀ x, (t.region x).own.vf = (s.region x).own.vf

theorem State.SameTables.readLE (h : s.SameTables t) (k n : Nat) : t.readLE k n = s.readLE k n := by
  unfold State.readLE
  rw [State.bytes_congr (fun j _ _ => congrArg (SMap.get memDefault · j) h.mem)]

theorem State.SameTables.pteFatal (h : s.SameTables t) (r level shift e : Nat) : t.pteFatal r level shift e = s.pteFatal r level shift e := by
  unfold State.pteFatal
  simp only [h.assigned, h.vf]

/-- A walk that sets no A bit changes nothing, so it finds the same by the same tables. -/
theorem State.SameTables.walk (h : s.SameTables t) (r dva : Nat) (levels : List (Nat × Nat × Nat)) : ∀ table : Nat,
    (t.walk r dva false levels table).2 = (s.walk r dva false levels table).2 := by
  induction levels with
  | nil => exact fun _ => rfl
  | cons l rest ih =>
    intro table
    obtain ⟨level, shift, bits⟩ := l
    simp only [State.walk, h.readLE, h.pteFatal, Bool.false_and, Bool.false_eq_true, if_false]
    split
    · rfl
    split
    · rfl
    split
    · rfl
    · exact ih _

theorem State.SameTables.pageOf (h : s.SameTables t) (r dva : Nat) : t.pageOf r dva = s.pageOf r dva := by
  unfold State.pageOf
  rw [h.root]
  split
  · rfl
  · have := h.walk r dva walkLevels ((s.region r).ptroot.toNat / 2 ^ 13 % 2 ^ 27 * 2 ^ 13)
    generalize State.walk t _ _ _ _ _ = a at this ⊢
    generalize State.walk s _ _ _ _ _ = b at this ⊢
    obtain ⟨a, w⟩ := a
    obtain ⟨b, w'⟩ := b
    subst this
    cases w <;> rfl

theorem State.Remakes.own_other (h : Remakes r f s t) (hx : x ≠ r) : (t.region x).own = (s.region x).own :=
  Region.eq_of_standing Region.own (h.other hx).1

theorem State.sameTables_beforeTasks (hs : s.Quiet) (r cause : Nat) : s.SameTables (s.beforeTasks r cause) := by
  obtain ⟨w, h⟩ := s.remakes_beforeTasks r cause
  have tables {α : Type} (p : Region → α) (hp : ∀ g, p g.standing = p g) (hc : ∀ g, p (g.closed cause 4 w) = p g) (x : Nat) :
      p ((s.beforeTasks r cause).region x) = p (s.region x) := by
    by_cases hx : x = r
    · subst hx
      rw [Region.eq_of_standing p h.at hp, hc]
    · exact Region.eq_of_standing p (h.other hx).1 hp
  exact ⟨(State.sparesUnits_beforeTasks hs r cause).mem, tables Region.ptroot (fun _ => rfl) (fun _ => rfl),
    tables (fun g => g.own.assigned) (fun _ => rfl) (fun _ => rfl), tables (fun g => g.own.vf) (fun _ => rfl) (fun _ => rfl)⟩

theorem State.contexts_resetRegion (s : State) (r cause : Nat) (new : Option (Bool × Nat)) (x : Nat) :
    ((s.resetRegion r cause new).region x).contexts ⊆ (((s.beforeTasks r cause).loseTasks r).region x).contexts := by
  obtain ⟨p, hp⟩ := s.resetRegion_eq r cause new
  have h5 := (State.remakes_beginStep ((s.beforeTasks r cause).loseTasks r) r 5).contexts (Region.plain_inPhase 5) x
  have hc := (State.remakes_clearRegion (s.beforeClear r cause) r cause new).contexts (Region.plain_renewed _) x
  have h6 := (State.remakes_beginStep ((s.beforeClear r cause).clearRegion r cause new) r 6).contexts (Region.plain_inPhase 6) x
  rw [hp]
  show ((((s.beforeClear r cause).clearRegion r cause new).beginStep r 6).region x).contexts ⊆ _
  exact List.Subset.trans h6 (List.Subset.trans hc h5)

/-- A context with a page of its area in a region is lost with it (R418). -/
theorem State.loses_of_page {x pa : Nat} {w : Bool} {e : Saved} {q : Nat × Nat} (hq : q ∈ pagePieces e.area 5120)
    (hp : s.pageOf x q.1 = some (pa, w)) (hr : pa / 2 ^ 35 = r) : s.loses r x e = true := by
  unfold State.loses
  rw [Bool.or_eq_true, List.any_eq_true]
  exact .inr ⟨q, hq, by rw [hp]; exact decide_eq_true hr⟩

theorem State.contexts_loseTasks (s : State) (r x : Nat) :
    ((s.loseTasks r).region x).contexts = (s.region x).contexts.filter (fun c => !s.loses r x c) := by
  rw [State.region_loseTasks]

/-- A context that outlives a reset was there before, and no page of its area lies in the region (R418). -/
theorem State.kept_contexts (hs : s.Quiet) (r cause : Nat) (new : Option (Bool × Nat)) (x : Nat) :
    ∀ e ∈ ((s.resetRegion r cause new).region x).contexts, e ∈ (s.region x).contexts ∧
      ∀ q ∈ pagePieces e.area 5120, ∀ pa w, s.pageOf x q.1 = some (pa, w) → pa / 2 ^ 35 ≠ r := by
  intro e he
  obtain ⟨w, h⟩ := s.remakes_beforeTasks r cause
  have hl := s.contexts_resetRegion r cause new x he
  rw [State.contexts_loseTasks] at hl
  obtain ⟨hu, hn⟩ := List.mem_filter.mp hl
  refine ⟨h.contexts (Region.plain_closed cause 4 w) x hu, fun q hq pa w' hp hr => ?_⟩
  rw [← (State.sameTables_beforeTasks hs r cause).pageOf] at hp
  rw [State.loses_of_page hq hp hr] at hn
  cases hn

/-! The region after its reset. -/

/-- Region `r` waits for its firmware in step 6, and holds nothing on its chip (R16, R417). -/
def State.Down (t : State) (r cause : Nat) : Prop :=
  (t.region r).own.phase = 6 ∧ (t.region r).own.gate = false ∧ (t.region r).own.cause = cause ∧
  (∀ n < 4, (SMap.get {} (t.region r).win n).w0.getLsbD 62 = true ∧ (SMap.get {} (t.region r).win n).w0.getLsbD 63 = false) ∧
  (∀ c, regionOf c = r → t.core c = {}) ∧ (∀ k, regionOf (coreOf k) = r → t.getT k = {}) ∧
  (t.region r).tcache = [] ∧ (t.region r).log = {} ∧ ∀ k, inSram r k = true → t.byte k = 0

/-- Region memory of `r` reads zero. -/
def State.Wiped (t : State) (r : Nat) : Prop := ∀ k, isHbm k = true → keyRegion k 32 = r → t.byte k = 0

/-- Every reset brings its region down, whatever the state it begins in. -/
theorem State.down_resetRegion (s : State) (r cause : Nat) (new : Option (Bool × Nat)) : (s.resetRegion r cause new).Down r cause := by
  obtain ⟨w, h⟩ := s.remakes_resetRegion r cause new
  have hg := h.at
  have hown : ((s.resetRegion r cause new).region r).own = _ := Region.eq_of_standing Region.own hg
  have hwin : ((s.resetRegion r cause new).region r).win = lostWins w := Region.eq_of_standing Region.win hg
  refine ⟨by rw [hown]; rfl, by rw [hown]; rfl, by rw [hown]; rfl, fun n hn => ?_, fun c hc => ?_, fun k hk => ?_,
    Region.eq_of_standing Region.tcache hg, Region.eq_of_standing Region.log hg, fun k hk => ?_⟩
  · rw [hwin, get_lostWins w n hn]
    exact ⟨Win.lost_gone _, Win.lost_valid _⟩
  · rw [State.core_resetRegion, if_pos hc]
  · rw [State.getT_resetRegion, if_pos hk]
  · rw [State.byte_resetRegion, if_pos (by rw [hk, Bool.true_or])]

/-- The owner is the one applied, or the old one (R413). -/
theorem State.owner_resetRegion (s : State) (r cause : Nat) (new : Option (Bool × Nat)) :
    ((s.resetRegion r cause new).region r).own.assigned = ((s.region r).own.owner new).1 ∧
      ((s.resetRegion r cause new).region r).own.vf = ((s.region r).own.owner new).2 := by
  obtain ⟨w, h⟩ := s.remakes_resetRegion r cause new
  rw [Region.eq_of_standing Region.own h.at]
  exact ⟨rfl, rfl⟩

theorem State.wiped_resetRegion {cause : Nat} {new : Option (Bool × Nat)} (h : (s.region r).own.wipes cause new = true) :
    (s.resetRegion r cause new).Wiped r := by
  intro k hk hr
  rw [State.byte_resetRegion, if_pos (by simp [h, hk, hr])]

end Sys2Proof.Machine
end

section
/-! SUPPORT. A reset leaves another region as an earlier one has left it, so that the failure of a stack resets both of its regions (R419). -/

namespace Sys2Proof.Machine

variable {x r : Nat} {s t : State}

/-- What a reset has left of region `x` stays so. -/
structure State.Spares (x : Nat) (s t : State) : Prop where
  region : KeepsRegion x s t
  core : ∀ c, regionOf c = x → t.core c = s.core c
  slot : ∀ k, regionOf (coreOf k) = x → s.getT k = {} → t.getT k = {}
  byte : ∀ k, s.byte k = 0 → t.byte k = 0

theorem State.Down.spared {cause : Nat} (h : s.Down x cause) (ht : Spares x s t) : t.Down x cause := by
  obtain ⟨hphase, hgate, hcause, hwin, hcore, hslot, hcache, hlog, hbyte⟩ := h
  have hg := ht.region.1
  have hown := Region.eq_of_standing Region.own hg
  unfold State.Down
  rw [hown, Region.eq_of_standing Region.win hg, Region.eq_of_standing Region.tcache hg, Region.eq_of_standing Region.log hg]
  exact ⟨hphase, hgate, hcause, hwin, fun c hc => (ht.core c hc).trans (hcore c hc), fun k hk => ht.slot k hk (hslot k hk), hcache, hlog,
    fun k hk => ht.byte k (hbyte k hk)⟩

theorem State.Wiped.spared (h : s.Wiped x) (ht : Spares x s t) : t.Wiped x := fun k hk hr => ht.byte k (h k hk hr)

theorem State.spares_blackBox (s : State) (x r k a : Nat) (d w : Word) : Spares x s (s.blackBox r k a d w) :=
  ⟨State.keepsRegion_blackBox .., fun _ _ => rfl, fun _ _ h => h, fun _ h => h⟩

theorem State.spares_resetRegion (hs : s.Quiet) (hx : x ≠ r) (cause : Nat) (new : Option (Bool × Nat)) :
    Spares x s (s.resetRegion r cause new) where
  region := by
    obtain ⟨w, h⟩ := s.remakes_resetRegion r cause new
    exact h.other hx
  core c hc := by
    rw [State.core_resetRegion, if_neg (by omega)]
    exact congrArg (SMap.get {} · c) (State.sparesUnits_beforeClear hs r cause).cores
  slot k hk h := by
    rw [State.getT_resetRegion, if_neg (by omega)]
    exact (State.sparesUnits_beforeTasks hs r cause).slot k h
  byte k h := by
    rw [State.byte_resetRegion]
    split
    · rfl
    · exact (congrArg (SMap.get memDefault · k) (State.sparesUnits_beforeClear hs r cause).mem).trans h

theorem State.quiet_resetRegion (hs : s.Quiet) (r cause : Nat) (new : Option (Bool × Nat)) : (s.resetRegion r cause new).Quiet := by
  unfold State.Quiet
  rw [State.cores_resetRegion, (State.sparesUnits_beforeClear hs r cause).cores]
  exact fun c hc => hs c (List.mem_filter.mp hc).1

theorem State.own_blackBox (s : State) (x r k a : Nat) (d w : Word) : ((s.blackBox r k a d w).region x).own = (s.region x).own :=
  Region.eq_of_standing Region.own (State.keepsRegion_blackBox ..).1

/-! Faults. -/

/-- RAIL_FAULT and CLOCK_FAULT: the fault is noted and the region is reset, with its owner as it was. -/
theorem State.fault_reset (s : State) (r kind cause : Nat) : let t := (s.blackBox r kind 0 0 0).resetRegion r cause none
    t.Down r cause ∧ (t.region r).own.assigned = (s.region r).own.assigned ∧ (t.region r).own.vf = (s.region r).own.vf := by
  have h := (s.blackBox r kind 0 0 0).owner_resetRegion r cause none
  rw [State.own_blackBox] at h
  exact ⟨State.down_resetRegion .., h⟩

/-- A region of a failed stack is noted and reset. -/
def State.loseHbm (s : State) (r : Nat) : State := (s.blackBox r 6 0 0 0).resetRegion r 5 none

theorem exec_hbmStackFault (k : Nat) (s : State) : exec (.hbmStackFault k) s = .next ((s.loseHbm (2 * k)).loseHbm (2 * k + 1)) := by
  have h : exec (.hbmStackFault k) s = execHbmStackFault k s := by rfl
  rw [h, execHbmStackFault]
  rfl

theorem State.down_loseHbm (s : State) (r : Nat) : (s.loseHbm r).Down r 5 := State.down_resetRegion ..

theorem State.wiped_loseHbm (s : State) (r : Nat) : (s.loseHbm r).Wiped r :=
  State.wiped_resetRegion (by simp [Own.wipes])

theorem State.own_loseHbm_other (s : State) (hx : x ≠ r) : ((s.loseHbm r).region x).own = (s.region x).own := by
  obtain ⟨w, h⟩ := (s.blackBox r 6 0 0 0).remakes_resetRegion r 5 none
  exact (h.own_other hx).trans (s.own_blackBox ..)

theorem State.quiet_loseHbm (hs : s.Quiet) (r : Nat) : (s.loseHbm r).Quiet := State.quiet_resetRegion (s := s.blackBox r 6 0 0 0) hs r 5 none

theorem State.Down.afterLoseHbm {cause : Nat} (h : s.Down x cause) (hs : s.Quiet) (hx : x ≠ r) : (s.loseHbm r).Down x cause :=
  (h.spared (s.spares_blackBox x r 6 0 0 0)).spared (State.spares_resetRegion (s := s.blackBox r 6 0 0 0) hs hx 5 none)

theorem State.Wiped.afterLoseHbm (h : s.Wiped x) (hs : s.Quiet) (hx : x ≠ r) : (s.loseHbm r).Wiped x :=
  (h.spared (s.spares_blackBox x r 6 0 0 0)).spared (State.spares_resetRegion (s := s.blackBox r 6 0 0 0) hs hx 5 none)

/-- HBM_STACK_FAULT (R419): both regions of the stack are reset, and where no core has an access under way the second reset leaves alone what
the first has done. -/
theorem State.stack_reset (s : State) {a b : Nat} (hne : a ≠ b) : ∀ q ∈ [a, b],
    (((s.loseHbm a).loseHbm b).region q).own.phase = 6 ∧ (((s.loseHbm a).loseHbm b).region q).own.gate = false ∧
      (((s.loseHbm a).loseHbm b).region q).own.cause = 5 ∧
      (s.Quiet → ((s.loseHbm a).loseHbm b).Down q 5 ∧ ((s.loseHbm a).loseHbm b).Wiped q) := by
  intro q hq
  rcases (List.mem_cons.mp hq).imp_right List.mem_singleton.mp with rfl | rfl
  · obtain ⟨hphase, hgate, hcause, -⟩ := s.down_loseHbm q
    rw [State.own_loseHbm_other _ hne]
    refine ⟨hphase, hgate, hcause, fun hs => ⟨?_, ?_⟩⟩
    · exact (s.down_loseHbm q).afterLoseHbm (State.quiet_loseHbm hs q) hne
    · exact (s.wiped_loseHbm q).afterLoseHbm (State.quiet_loseHbm hs q) hne
  · have hd := (s.loseHbm a).down_loseHbm q
    have ⟨hphase, hgate, hcause, _⟩ := hd
    exact ⟨hphase, hgate, hcause, fun _ => ⟨hd, State.wiped_loseHbm _ q⟩⟩

end Sys2Proof.Machine
end

section
/-! PROOF. The events that reset a region or the package, or end a reset (R413, R417 to R419, R436 to R438). -/

namespace Sys2Proof.Machine

variable {r : Nat} {s : State}

theorem exec_regionReset (r : Nat) (pf : Bool) (v : BitVec 64) (s : State) : exec (.regionReset r pf v) s = execRegionReset r pf v s := by rfl
theorem exec_railFault (r : Nat) (s : State) : exec (.railFault r) s = execRailFault r s := by rfl
theorem exec_clockFault (r : Nat) (s : State) : exec (.clockFault r) s = execClockFault r s := by rfl
theorem exec_resetdone (r : Nat) (im : FirmwareImage) (s : State) : exec (.resetdone r im) s = execResetdone r im s := by rfl
theorem exec_packageReset (im : FirmwareImage) (s : State) : exec (.packageReset im) s = execPackageReset im s := by rfl

/-! RESETDONE. -/

/-- A region cause changes regions and pending vectors, and nothing else. -/
theorem State.cause_eq (s : State) (r b : Nat) : ∃ g m, s.cause r b = { s with regions := g, pkg := { s.pkg with msix := m } } := by
  unfold State.cause
  dsimp only
  split
  · exact ⟨_, _, rfl⟩
  · split
    · split <;> exact ⟨_, _, rfl⟩
    · exact ⟨_, _, rfl⟩

/-- A region cause rises in RGINT (R423). -/
theorem State.region_cause (s : State) (r b : Nat) : ∃ n, (s.cause r b).region r = { s.region r with rgint := n } ∧
    (b < 4 → n.getLsbD b = true) := by
  have hset : ∀ n : BitVec 4, b < 4 → (n ||| 1#4 <<< b).getLsbD b = true := fun n hb => by simp [hb]
  have hwrite : (s.setRegion r { s.region r with rgint := (s.region r).rgint ||| 1#4 <<< b }).region r =
      { s.region r with rgint := (s.region r).rgint ||| 1#4 <<< b } := by rw [State.region_setRegion, if_pos rfl]
  unfold State.cause
  dsimp only
  split
  · exact ⟨_, rfl, fun _ => ‹_›⟩
  · refine ⟨(s.region r).rgint ||| 1#4 <<< b, ?_, hset _⟩
    split
    · split <;> exact hwrite
    · exact hwrite

theorem State.spdmAnswer_eq (s : State) (fn code : Nat) (b : List Byte) : ∃ v, s.spdmAnswer fn code b = { s with vfs := v } := ⟨_, rfl⟩

theorem State.answerMeas_eq (s : State) (fn index : Nat) : ∃ v, s.answerMeas fn index = { s with vfs := v } := by
  unfold State.answerMeas
  split <;> exact State.spdmAnswer_eq ..

theorem State.spdmServe_eq (s : State) (fn code index : Nat) : ∃ v, s.spdmServe fn code index = { s with vfs := v } := by
  unfold State.spdmServe
  split
  · exact s.answerMeas_eq fn index
  · (repeat' split) <;> exact State.spdmAnswer_eq ..

theorem State.foldl_vfs_eq {β : Type} {f : State → β → State} (h : ∀ s a, ∃ v, f s a = { s with vfs := v }) (l : List β) : ∀ s : State,
    ∃ v, l.foldl f s = { s with vfs := v } := by
  induction l with
  | nil => exact fun s => ⟨s.vfs, rfl⟩
  | cons a l ih =>
    intro s
    obtain ⟨v, hv⟩ := h s a
    obtain ⟨w, hw⟩ := ih (f s a)
    exact ⟨w, by rw [List.foldl_cons, hw, hv]⟩

/-- Answering what waited changes the functions, and nothing else. -/
theorem State.answerWaiting_eq (s : State) : ∃ v, s.answerWaiting = { s with vfs := v } := by
  refine State.foldl_vfs_eq (fun s fn => ?_) _ s
  split
  · exact ⟨_, rfl⟩
  · obtain ⟨v, hv⟩ := State.foldl_vfs_eq (fun s (q : Nat × Nat) => s.spdmServe_eq fn q.1 q.2) (s.vf fn).spdmWait
      (s.setVf fn { s.vf fn with spdmWait := [] })
    exact ⟨v, hv⟩

/-- A region opens after a good image (R417). -/
def Own.opened (o : Own) : Own := { o with gate := true, rstcnt := o.rstcnt + 1, phase := 0 }

/-- Step 7 of a reset with a measurement of its image, up to the cause that it raises. -/
def State.openRegion (s : State) (r : Nat) (d : BitVec 384) : State :=
  let s := s.beginStep r 7
  let s := { s with pkg.meas := SMap.set 0 s.pkg.meas (2 + r) d }
  (s.updOwn r Own.opened).blackBox r 2 0 0 0

/-- A region's image refused, up to the cause that it raises. -/
def State.refuseImage (s : State) (r f : Nat) : State :=
  { s.updOwn r (fun o => { o with cause := 6 }) with pkg := { s.pkg with fwFail := f } }.blackBox r 7 0 0 0

/-- RESETDONE is ignored but in step 6 with a cause other than 6 (log 32); there the image decides (R417, R436). -/
theorem execResetdone_eq (r : Nat) (im : FirmwareImage) (s : State) : execResetdone r im s = .next (
    if (s.region r).own.phase ≠ 6 ∨ (s.region r).own.cause = 6 then s
    else if imageFail im 2 ≠ 0 then (s.refuseImage r (imageFail im 2)).cause r 1
    else ((s.openRegion r (extendMeas 0 im.digest)).cause r 0).answerWaiting) := by
  unfold execResetdone
  dsimp only
  split
  · rfl
  · split <;> rfl

theorem State.own_updOwn (s : State) (r : Nat) (f : Own → Own) : ((s.updOwn r f).region r).own = f (s.region r).own :=
  congrArg Region.own ((s.region_updRegion r r _).trans (if_pos rfl))

theorem State.own_openRegion (s : State) (r : Nat) (d : BitVec 384) :
    ((s.openRegion r d).region r).own = { (s.region r).own with gate := true, phase := 0, rstcnt := (s.region r).own.rstcnt + 1 } := by
  have h7 : ((s.beginStep r 7).region r).own = { (s.region r).own with phase := 7 } :=
    Region.eq_of_standing Region.own (s.remakes_beginStep r 7).at
  unfold State.openRegion
  dsimp only
  rw [State.own_blackBox, State.own_updOwn]
  change Own.opened ((s.beginStep r 7).region r).own = _
  rw [h7]
  rfl

theorem Package.measure_zero (p : Package) : p.measure 0 = extendMeas 0 Config.bootRomDigest := if_pos rfl

theorem Package.measure_of_ne_zero (p : Package) {n : Nat} (h : n ≠ 0) : p.measure n = SMap.get 0 p.meas n := if_neg h

theorem State.meas_openRegion (s : State) (r : Nat) (d : BitVec 384) :
    (s.openRegion r d).pkg.meas = SMap.set 0 (s.beginStep r 7).pkg.meas (2 + r) d := by
  unfold State.openRegion State.blackBox
  dsimp only [State.updOwn, State.updRegion, State.setRegion]

theorem State.measure_openRegion (s : State) (r : Nat) (d : BitVec 384) :
    (s.openRegion r d).pkg.measure (2 + r) = d := by
  rw [Package.measure_of_ne_zero _ (by omega), State.meas_openRegion, SMap.get_set_self]

theorem State.own_refuseImage (s : State) (r f : Nat) : ((s.refuseImage r f).region r).own = { (s.region r).own with cause := 6 } :=
  (State.own_blackBox ..).trans (s.own_updOwn r (fun o => { o with cause := 6 }))

/-- A region that opens (R417, R436, R438): its image is measured and its reset counts. -/
theorem State.openRegion_spec (s : State) (r : Nat) (d : BitVec 384) : let t := ((s.openRegion r d).cause r 0).answerWaiting
    t.th = s.th ∧ t.mem = s.mem ∧
      (t.region r).own = { (s.region r).own with gate := true, phase := 0, rstcnt := (s.region r).own.rstcnt + 1 } ∧
      (t.region r).rgint.getLsbD 0 = true ∧ t.pkg.measure (2 + r) = d := by
  obtain ⟨n, hr, hn⟩ := (s.openRegion r d).region_cause r 0
  obtain ⟨g, m, he⟩ := (s.openRegion r d).cause_eq r 0
  obtain ⟨v, hv⟩ := ((s.openRegion r d).cause r 0).answerWaiting_eq
  obtain ⟨g7, p7, h7⟩ := s.notes_beginStep r 7
  have hreg : (((s.openRegion r d).cause r 0).answerWaiting).region r = { (s.openRegion r d).region r with rgint := n } := by
    rw [hv]; exact hr
  refine ⟨?_, ?_, ?_, ?_, ?_⟩
  · rw [hv, he, State.openRegion, h7]; rfl
  · rw [hv, he, State.openRegion, h7]; rfl
  · rw [hreg]; exact s.own_openRegion r d
  · rw [hreg]; exact hn (by omega)
  · rw [hv, he]; exact s.measure_openRegion r d

/-- A region whose image is refused stays closed (R417, R436). -/
theorem State.refuseImage_spec (s : State) (r f : Nat) : let t := (s.refuseImage r f).cause r 1
    t.th = s.th ∧ t.mem = s.mem ∧ (t.region r).own = { (s.region r).own with cause := 6 } ∧ (t.region r).rgint.getLsbD 1 = true ∧
      t.pkg.fwFail = f := by
  obtain ⟨n, hr, hn⟩ := (s.refuseImage r f).region_cause r 1
  obtain ⟨g, m, he⟩ := (s.refuseImage r f).cause_eq r 1
  refine ⟨?_, ?_, ?_, ?_, ?_⟩
  · rw [he]; rfl
  · rw [he]; rfl
  · rw [hr]; exact s.own_refuseImage r f
  · rw [hr]; exact hn (by omega)
  · rw [he]; rfl

/-! PACKAGE_RESET. -/

/-- What a package reset leaves, but for the interrupt of a refused image (R16, R436): `f` is the outcome of the package image, `svn` its number
and `d` its measurement. -/
def State.restarted (s : State) (f : Nat) (svn : BitVec 32) (d : BitVec 384) : State :=
  { State.reset with
    inputs := s.inputs
    mem := s.mem.filter (fun p => isHbm p.1 || isHost p.1)
    regions := (s.regions.map (fun (p : Nat × Region) => (p.1, ({ box := p.2.box, bbcnt := p.2.bbcnt } : Region)))).filter
      (fun p => p.2 ≠ ({} : Region))
    pkg := {
      partC := s.pkg.partC, hostHoles := s.pkg.hostHoles, refTime := s.pkg.refTime, refNo := s.pkg.refNo
      fwReady := decide (f = 0), fwFail := f, fwSvn := if f = 0 then svn else 0
      meas := if f = 0 then SMap.set 0 [] 1 d else [] } }

/-- PACKAGE_RESET comes to the restarted package, in which at most an interrupt is pending. -/
theorem execPackageReset_eq (s : State) (im : FirmwareImage) : ∃ m,
    let u := s.restarted (imageFail im 1) im.svn (extendMeas 0 im.digest)
    execPackageReset im s = .next { u with pkg := { u.pkg with msix := m } } := by
  have h : let u := s.restarted (imageFail im 1) im.svn (extendMeas 0 im.digest)
      execPackageReset im s = .next (if imageFail im 1 = 0 then u else u.raise 32 0) := rfl
  rw [h]
  generalize s.restarted (imageFail im 1) im.svn (extendMeas 0 im.digest) = u
  split <;> exact ⟨_, rfl⟩

theorem State.byte_restarted (s : State) (f : Nat) (svn : BitVec 32) (d : BitVec 384) (k : Nat) :
    (s.restarted f svn d).byte k = if isHbm k ∨ isHost k then s.byte k else 0 := by
  refine (SMap.get_filter_key memDefault (fun k => isHbm k || isHost k) s.mem k).trans ?_
  simp only [Bool.or_eq_true]
  rfl

theorem State.region_restarted (s : State) (f : Nat) (svn : BitVec 32) (d : BitVec 384) (h : (s.regions.map (fun p => p.1)).Nodup) (q : Nat) :
    (s.restarted f svn d).region q = { box := (s.region q).box, bbcnt := (s.region q).bbcnt } :=
  (SMap.get_filter_ne_default _ _ _ (by rwa [List.map_map])).trans
    (SMap.get_map_entries ({} : Region) (fun _ g => { box := g.box, bbcnt := g.bbcnt }) s.regions q rfl)

/-- The package's own registers after a package reset (R436 to R438). -/
theorem State.pkg_restarted (s : State) (f : Nat) (svn : BitVec 32) (d : BitVec 384) (m : SMap Bool) :
    let p := { (s.restarted f svn d).pkg with msix := m }
    p.fwFail = f ∧ (p.fwReady = true ↔ f = 0) ∧ (f = 0 → p.fwSvn = svn) ∧ p.measure 0 = extendMeas 0 Config.bootRomDigest ∧
      (f = 0 → p.measure 1 = d) := by
  refine ⟨rfl, decide_eq_true_iff, fun h => if_pos h, Package.measure_zero _, fun h => ?_⟩
  rw [Package.measure_of_ne_zero _ Nat.one_ne_zero]
  show SMap.get 0 (if f = 0 then SMap.set 0 [] 1 d else []) 1 = d
  rw [if_pos h, SMap.get_set_self]

/-- What a package reset leaves and what it keeps (R16, R436 to R438). -/
theorem State.restarted_spec (s : State) (f : Nat) (svn : BitVec 32) (d : BitVec 384) (m : SMap Bool) :
    let u := s.restarted f svn d
    let t : State := { u with pkg := { u.pkg with msix := m } }
    t.th = {} ∧ t.threads = [] ∧ t.cores = [] ∧ t.launches = [] ∧ t.engines = [] ∧
      (∀ k, t.byte k = if isHbm k ∨ isHost k then s.byte k else 0) ∧ (∀ k, t.isFull k = State.reset.isFull k) ∧
      ((s.regions.map (fun p => p.1)).Nodup → ∀ q, t.region q = { box := (s.region q).box, bbcnt := (s.region q).bbcnt }) ∧
      t.pkg.fwFail = f ∧ (t.pkg.fwReady = true ↔ f = 0) ∧ (f = 0 → t.pkg.fwSvn = svn) ∧
      t.pkg.measure 0 = extendMeas 0 Config.bootRomDigest ∧ (f = 0 → t.pkg.measure 1 = d) :=
  ⟨rfl, rfl, rfl, rfl, rfl, s.byte_restarted f svn d, fun _ => rfl, s.region_restarted f svn d, s.pkg_restarted f svn d m⟩

/-! REGION_RESET. -/

/-- A write of RGRESET that is taken (R413, R417). -/
theorem execRegionReset_taken {pf : Bool} {v : BitVec 64} (hgo : v.getLsbD 63 = true) (hp : (s.region r).own.phase = 0)
    (hw : pf = true ∨ (v.getLsbD 62 = false ∧ s.answersVf (s.region r).own.vf r = true)) :
    execRegionReset r pf v s = .next (s.resetRegion r (if pf then 1 else 2)
      (if v.getLsbD 62 then some (v.getLsbD 5, v.toNat % 32) else none)) := by
  unfold execRegionReset
  dsimp only
  rw [if_neg]
  rcases hw with rfl | ⟨hnew, ha⟩
  · simp [hgo, hp]
  · rw [hgo, hp, hnew, ha]
    simp

/-- A write of RGRESET that is ignored. -/
theorem execRegionReset_ignored {pf : Bool} {v : BitVec 64} (h : v.getLsbD 63 = false ∨ (s.region r).own.phase ≠ 0 ∨
    (pf = false ∧ (v.getLsbD 62 = true ∨ s.answersVf (s.region r).own.vf r = false))) : execRegionReset r pf v s = .next s := by
  unfold execRegionReset
  dsimp only
  rw [if_pos]
  simpa using h

/-- A region reset that gives the region to another owner zeroises its memory (R417). -/
theorem Own.wipes_of_ne {o : Own} {n : Bool × Nat} (h : n ≠ (o.assigned, o.vf)) (cause : Nat) : o.wipes cause (some n) = true := by
  simp [Own.wipes, Own.owner, h]

/-- What a write of RGRESET that is taken leaves of its region, of the contexts and of the owner (R413, R417, R418). -/
theorem regionReset_spec (s : State) (r cause : Nat) (v : BitVec 64) : let o := (s.region r).own
    let t := s.resetRegion r cause (if v.getLsbD 62 then some (v.getLsbD 5, v.toNat % 32) else none)
    t.Down r cause ∧
      (s.Quiet → ∀ x, ∀ e ∈ (t.region x).contexts, e ∈ (s.region x).contexts ∧
        ∀ q ∈ pagePieces e.area 5120, ∀ pa w, s.pageOf x q.1 = some (pa, w) → pa / 2 ^ 35 ≠ r) ∧
      (v.getLsbD 62 = false → (t.region r).own.assigned = o.assigned ∧ (t.region r).own.vf = o.vf) ∧
      (v.getLsbD 62 = true → (t.region r).own.assigned = v.getLsbD 5 ∧ (t.region r).own.vf = v.toNat % 32) ∧
      (v.getLsbD 62 = true → (v.getLsbD 5, v.toNat % 32) ≠ (o.assigned, o.vf) → t.Wiped r) := by
  refine ⟨State.down_resetRegion .., fun hs => State.kept_contexts hs r cause _, fun h => ?_, fun h => ?_, fun h hne => ?_⟩
  · rw [h, if_neg Bool.false_ne_true]
    exact s.owner_resetRegion r cause none
  · rw [if_pos h]
    exact s.owner_resetRegion r cause (some _)
  · rw [if_pos h]
    exact State.wiped_resetRegion (Own.wipes_of_ne hne cause)

/-- Settles O46: each event's outcome is written out once (`execRegionReset_taken`, `exec_hbmStackFault`, `execResetdone_eq`, `execPackageReset_eq`),
and what it leaves is read off a reset as a change of its own region (`State.remakes_resetRegion`). -/
theorem resets : Obligations.Resets := by
  unfold Obligations.Resets
  intro s r k pf value im
  refine ⟨fun hgo hp hw => ?_, fun h => ?_, ?_, ?_, ?_, fun hp hc => ?_, fun h => ?_, ?_⟩
  · exact ⟨_, (exec_regionReset ..).trans (execRegionReset_taken hgo hp hw), regionReset_spec s r _ value⟩
  · exact (exec_regionReset ..).trans (execRegionReset_ignored h)
  · exact ⟨_, exec_railFault r s, s.fault_reset r 4 3⟩
  · exact ⟨_, exec_clockFault r s, s.fault_reset r 5 4⟩
  · refine ⟨_, exec_hbmStackFault k s, fun q hq => ?_⟩
    obtain ⟨hphase, hgate, hcause, hquiet⟩ := s.stack_reset (show 2 * k ≠ 2 * k + 1 by omega) q hq
    exact ⟨hphase, hgate, hcause, fun _ hs => hquiet hs⟩
  · rw [exec_resetdone, execResetdone_eq, if_neg (not_or.mpr ⟨not_not_intro hp, hc⟩)]
    by_cases hf : imageFail im 2 = 0
    · rw [if_neg (not_not_intro hf)]
      obtain ⟨hth, hmem, hopen⟩ := s.openRegion_spec r (extendMeas 0 im.digest)
      exact ⟨_, rfl, hth, hmem, fun _ => hopen, fun h => absurd hf h⟩
    · rw [if_pos hf]
      obtain ⟨hth, hmem, hclosed⟩ := s.refuseImage_spec r (imageFail im 2)
      exact ⟨_, rfl, hth, hmem, fun h => absurd h hf, fun _ => hclosed⟩
  · rw [exec_resetdone, execResetdone_eq, if_pos h]
  · obtain ⟨m, h⟩ := execPackageReset_eq s im
    exact ⟨_, (exec_packageReset im s).trans h, s.restarted_spec _ _ _ m⟩

end Sys2Proof.Machine
end
